-- ==== Sys2Proof/Word.lean ====
section
/-!
DEFINITION. The word types of the Griaris Ibcon and their plainest arithmetic (R10, R13, R21, R41).
-/
namespace Sys2Proof

/-- A scalar register, a control register, a generic pointer (R10, R36). -/
abbrev Word := BitVec 64

/-- One byte of memory, of a row or of a slot (R41). -/
abbrev Byte := BitVec 8

/-- One main-file row: 256 bytes, byte `i` in bits `8 i` to `8 i + 7` (R13, R41). -/
abbrev Row := BitVec 2048

/-- A mask register of 256 bits (R21). -/
abbrev Mask := BitVec 256

/-- A 7-bit operand specifier (R64). -/
abbrev Operand := BitVec 7

end Sys2Proof
end

