-- ==== Sys2Proof/Syntax.lean ====
section
/-!
DEFINITION. The syntax of the Griaris Ibcon: one constructor for each row of the opcode table (R81 to R89 for the 220
instruction words, R68 for the dictionary parcel) and one for each of the 124 steps that carry no encoding (the
events of the same table). A constructor of an instruction word holds the fields of its format (R62), named as the opcode
map names them; `sc` is the stall count.
-/
namespace Sys2Proof

/-- Every step the device takes: the instructions a berth issues, and the events of the engines, the scheduler, the
memories, the fabric and the steward. -/
inductive Instr where
  /-- ADD (R127). Adds two scalar operands modulo 2^64 and writes the sum. -/
  | add (d : BitVec 7) (a : BitVec 7) (b : BitVec 7) (sc : BitVec 3)
  /-- SUB (R127). Subtracts scalar b from a modulo 2^64. -/
  | sub (d : BitVec 7) (a : BitVec 7) (b : BitVec 7) (sc : BitVec 3)
  /-- ADDI (R127). Adds the sign-extended IMM7 to a. -/
  | addi (d : BitVec 7) (a : BitVec 7) (imm : BitVec 7) (sc : BitVec 3)
  /-- MUL (R127). Gives the low 64 bits of the product a times b. -/
  | mul (d : BitVec 7) (a : BitVec 7) (b : BitVec 7) (sc : BitVec 3)
  /-- MULH (R127). Gives the high 64 bits of the signed 128-bit product. -/
  | mulh (d : BitVec 7) (a : BitVec 7) (b : BitVec 7) (sc : BitVec 3)
  /-- MULHN (R127). Gives the high 64 bits of the natural 128-bit product. -/
  | mulhn (d : BitVec 7) (a : BitVec 7) (b : BitVec 7) (sc : BitVec 3)
  /-- DIV (R128). Signed truncating division with defined results for zero and overflow, interlocked. -/
  | div (d : BitVec 7) (a : BitVec 7) (b : BitVec 7) (sc : BitVec 3)
  /-- DIVN (R128). Natural division; a divisor of zero gives all ones, interlocked. -/
  | divn (d : BitVec 7) (a : BitVec 7) (b : BitVec 7) (sc : BitVec 3)
  /-- REM (R128). Signed remainder with the sign of a, interlocked. -/
  | rem (d : BitVec 7) (a : BitVec 7) (b : BitVec 7) (sc : BitVec 3)
  /-- REMN (R128). Natural remainder; a divisor of zero gives a, interlocked. -/
  | remn (d : BitVec 7) (a : BitVec 7) (b : BitVec 7) (sc : BitVec 3)
  /-- AND (R129). Bitwise AND of two scalars. -/
  | and (d : BitVec 7) (a : BitVec 7) (b : BitVec 7) (sc : BitVec 3)
  /-- OR (R129). Bitwise OR of two scalars. -/
  | or (d : BitVec 7) (a : BitVec 7) (b : BitVec 7) (sc : BitVec 3)
  /-- XOR (R129). Bitwise exclusive OR of two scalars. -/
  | xor (d : BitVec 7) (a : BitVec 7) (b : BitVec 7) (sc : BitVec 3)
  /-- ANDN (R129). Gives a AND NOT b. -/
  | andn (d : BitVec 7) (a : BitVec 7) (b : BitVec 7) (sc : BitVec 3)
  /-- ANDI (R129). ANDs a with the sign-extended IMM7. -/
  | andi (d : BitVec 7) (a : BitVec 7) (imm : BitVec 7) (sc : BitVec 3)
  /-- ORI (R129). ORs a with the sign-extended IMM7. -/
  | ori (d : BitVec 7) (a : BitVec 7) (imm : BitVec 7) (sc : BitVec 3)
  /-- XORI (R129). Exclusive-ORs a with the sign-extended IMM7. -/
  | xori (d : BitVec 7) (a : BitVec 7) (imm : BitVec 7) (sc : BitVec 3)
  /-- SHL (R130). Shifts a left by b[5:0], filling with zeros. -/
  | shl (d : BitVec 7) (a : BitVec 7) (b : BitVec 7) (sc : BitVec 3)
  /-- SHR (R130). Shifts a right logically by b[5:0]. -/
  | shr (d : BitVec 7) (a : BitVec 7) (b : BitVec 7) (sc : BitVec 3)
  /-- SHRA (R130). Shifts a right arithmetically by b[5:0]. -/
  | shra (d : BitVec 7) (a : BitVec 7) (b : BitVec 7) (sc : BitVec 3)
  /-- SHLI (R130). Shifts a left by a natural immediate count 0-63. -/
  | shli (d : BitVec 7) (a : BitVec 7) (imm : BitVec 7) (sc : BitVec 3)
  /-- SHRI (R130). Shifts a right logically by an immediate count. -/
  | shri (d : BitVec 7) (a : BitVec 7) (imm : BitVec 7) (sc : BitVec 3)
  /-- SHRAI (R130). Shifts a right arithmetically by an immediate count. -/
  | shrai (d : BitVec 7) (a : BitVec 7) (imm : BitVec 7) (sc : BitVec 3)
  /-- ROTR (R130). Rotates a right by b[5:0]. -/
  | rotr (d : BitVec 7) (a : BitVec 7) (b : BitVec 7) (sc : BitVec 3)
  /-- ROTRI (R130). Rotates a right by an immediate count. -/
  | rotri (d : BitVec 7) (a : BitVec 7) (imm : BitVec 7) (sc : BitVec 3)
  /-- CLZ (R131). Counts the zero bits above the highest set bit. -/
  | clz (d : BitVec 7) (a : BitVec 7) (sc : BitVec 3)
  /-- CTZ (R131). Counts the zero bits below the lowest set bit. -/
  | ctz (d : BitVec 7) (a : BitVec 7) (sc : BitVec 3)
  /-- POPC (R131). Counts the set bits of a. -/
  | popc (d : BitVec 7) (a : BitVec 7) (sc : BitVec 3)
  /-- MIN (R132). Signed minimum of two scalars. -/
  | min (d : BitVec 7) (a : BitVec 7) (b : BitVec 7) (sc : BitVec 3)
  /-- MAX (R132). Signed maximum of two scalars. -/
  | max (d : BitVec 7) (a : BitVec 7) (b : BitVec 7) (sc : BitVec 3)
  /-- MINN (R132). Natural minimum of two scalars. -/
  | minn (d : BitVec 7) (a : BitVec 7) (b : BitVec 7) (sc : BitVec 3)
  /-- MAXN (R132). Natural maximum of two scalars. -/
  | maxn (d : BitVec 7) (a : BitVec 7) (b : BitVec 7) (sc : BitVec 3)
  /-- SLT (R132). Gives 1 when a is below b as signed, else 0. -/
  | slt (d : BitVec 7) (a : BitVec 7) (b : BitVec 7) (sc : BitVec 3)
  /-- SLTN (R132). Gives 1 when a is below b as natural, else 0. -/
  | sltn (d : BitVec 7) (a : BitVec 7) (b : BitVec 7) (sc : BitVec 3)
  /-- SEQ (R132). Gives 1 when a equals b, else 0. -/
  | seq (d : BitVec 7) (a : BitVec 7) (b : BitVec 7) (sc : BitVec 3)
  /-- SLTI (R132). Gives 1 when a is below the signed immediate. -/
  | slti (d : BitVec 7) (a : BitVec 7) (imm : BitVec 7) (sc : BitVec 3)
  /-- SEL (R133). Reads D as a condition and writes a if it is non-zero, otherwise b. -/
  | sel (d : BitVec 7) (a : BitVec 7) (b : BitVec 7) (sc : BitVec 3)
  /-- SEXT (R134). Sign-extends the low w bits of a. -/
  | sext (d : BitVec 7) (a : BitVec 7) (imm : BitVec 7) (sc : BitVec 3)
  /-- ZEXT (R134). Zero-extends the low w bits of a. -/
  | zext (d : BitVec 7) (a : BitVec 7) (imm : BitVec 7) (sc : BitVec 3)
  /-- BFX (R135). Extracts a bit field of a described by control word b. -/
  | bfx (d : BitVec 7) (a : BitVec 7) (b : BitVec 7) (sc : BitVec 3)
  /-- BFI (R135). Inserts the low bits of a into D at the field of control word b. -/
  | bfi (d : BitVec 7) (a : BitVec 7) (b : BitVec 7) (sc : BitVec 3)
  /-- LDI (R136). Loads the sign-extended IMM14. -/
  | ldi (d : BitVec 7) (imm : BitVec 14) (sc : BitVec 3)
  /-- LDHI (R136). Shifts D left by 14 and ORs in the natural IMM14. -/
  | ldhi (d : BitVec 7) (imm : BitVec 14) (sc : BitVec 3)
  /-- LEA (R137). Steps a generic pointer's offset field by 8 times IMM7 bytes, wrapping within the field. -/
  | lea (d : BitVec 7) (a : BitVec 7) (imm : BitVec 7) (sc : BitVec 3)
  /-- MOV (R138). Copies scalar a to D. -/
  | mov (d : BitVec 7) (a : BitVec 7) (sc : BitVec 3)
  /-- BEQ (R139). Branches when a equals q1. -/
  | beq (a : BitVec 7) (off : BitVec 14) (sc : BitVec 3)
  /-- BNE (R139). Branches when a differs from q1. -/
  | bne (a : BitVec 7) (off : BitVec 14) (sc : BitVec 3)
  /-- BLT (R139). Branches when a is below q1 as signed. -/
  | blt (a : BitVec 7) (off : BitVec 14) (sc : BitVec 3)
  /-- BGE (R139). Branches when a is at least q1 as signed. -/
  | bge (a : BitVec 7) (off : BitVec 14) (sc : BitVec 3)
  /-- BLTN (R139). Branches when a is below q1 as natural. -/
  | bltn (a : BitVec 7) (off : BitVec 14) (sc : BitVec 3)
  /-- BGEN (R139). Branches when a is at least q1 as natural. -/
  | bgen (a : BitVec 7) (off : BitVec 14) (sc : BitVec 3)
  /-- BZ (R139). Branches when a is zero. -/
  | bz (a : BitVec 7) (off : BitVec 14) (sc : BitVec 3)
  /-- BNZ (R139). Branches when a is non-zero. -/
  | bnz (a : BitVec 7) (off : BitVec 14) (sc : BitVec 3)
  /-- J (R141). Jumps unconditionally, resolved at issue. -/
  | j (off : BitVec 21) (sc : BitVec 3)
  /-- JL (R141). Jumps and pushes the link address to the queue. -/
  | jl (off : BitVec 21) (sc : BitVec 3)
  /-- JR (R142). Jumps to the address held in a. -/
  | jr (a : BitVec 7) (sc : BitVec 3)
  /-- JLR (R142). Jumps to the address in a and writes the link to D. -/
  | jlr (d : BitVec 7) (a : BitVec 7) (sc : BitVec 3)
  /-- LOOP (R140). Decrements the counter in A and branches when the result is non-zero. -/
  | loop (a : BitVec 7) (off : BitVec 14) (sc : BitVec 3)
  /-- YIELD (R146). Marks the berth as yielding for issue arbitration. -/
  | yield (sc : BitVec 3)
  /-- NOP (R147). Does nothing but space issue by 1 + SC. -/
  | nop (sc : BitVec 3)
  /-- VSET (R154). Sets VTYPE and writes the new element count. -/
  | vset (d : BitVec 7) (imm : BitVec 14) (sc : BitVec 3)
  /-- VADD (R155). Elementwise addition. -/
  | vadd (d : BitVec 7) (a : BitVec 7) (b : BitVec 7) (sc : BitVec 3)
  /-- VSUB (R155). Elementwise subtraction. -/
  | vsub (d : BitVec 7) (a : BitVec 7) (b : BitVec 7) (sc : BitVec 3)
  /-- VMUL (R155). Elementwise multiplication. -/
  | vmul (d : BitVec 7) (a : BitVec 7) (b : BitVec 7) (sc : BitVec 3)
  /-- VMAD (R157). Elementwise fused multiply-add into D. -/
  | vmad (d : BitVec 7) (a : BitVec 7) (b : BitVec 7) (sc : BitVec 3)
  /-- VMSB (R157). Elementwise a times b minus D, rounded once. -/
  | vmsb (d : BitVec 7) (a : BitVec 7) (b : BitVec 7) (sc : BitVec 3)
  /-- VNMAD (R157). Elementwise D minus a times b, rounded once. -/
  | vnmad (d : BitVec 7) (a : BitVec 7) (b : BitVec 7) (sc : BitVec 3)
  /-- VMIN (R155). Elementwise minimum. -/
  | vmin (d : BitVec 7) (a : BitVec 7) (b : BitVec 7) (sc : BitVec 3)
  /-- VMAX (R155). Elementwise maximum. -/
  | vmax (d : BitVec 7) (a : BitVec 7) (b : BitVec 7) (sc : BitVec 3)
  /-- VABS (R155). Elementwise absolute value. -/
  | vabs (d : BitVec 7) (a : BitVec 7) (sc : BitVec 3)
  /-- VNEG (R155). Elementwise negation. -/
  | vneg (d : BitVec 7) (a : BitVec 7) (sc : BitVec 3)
  /-- VAND (R155). Elementwise bitwise AND. -/
  | vand (d : BitVec 7) (a : BitVec 7) (b : BitVec 7) (sc : BitVec 3)
  /-- VOR (R155). Elementwise bitwise OR. -/
  | vor (d : BitVec 7) (a : BitVec 7) (b : BitVec 7) (sc : BitVec 3)
  /-- VXOR (R155). Elementwise bitwise exclusive OR. -/
  | vxor (d : BitVec 7) (a : BitVec 7) (b : BitVec 7) (sc : BitVec 3)
  /-- VNOT (R155). Elementwise bitwise complement. -/
  | vnot (d : BitVec 7) (a : BitVec 7) (sc : BitVec 3)
  /-- VSHL (R156). Shifts each element left by its count modulo the width. -/
  | vshl (d : BitVec 7) (a : BitVec 7) (b : BitVec 7) (sc : BitVec 3)
  /-- VSHR (R156). Shifts each element right logically. -/
  | vshr (d : BitVec 7) (a : BitVec 7) (b : BitVec 7) (sc : BitVec 3)
  /-- VSHRA (R156). Shifts each element right arithmetically. -/
  | vshra (d : BitVec 7) (a : BitVec 7) (b : BitVec 7) (sc : BitVec 3)
  /-- VCMPEQ (R159). Writes mask kd with the active elements where a equals b. -/
  | vcmpeq (kd : BitVec 3) (kg : BitVec 3) (a : BitVec 7) (b : BitVec 7) (sc : BitVec 3)
  /-- VCMPNE (R159). Writes mask kd with the active elements where a differs from b. -/
  | vcmpne (kd : BitVec 3) (kg : BitVec 3) (a : BitVec 7) (b : BitVec 7) (sc : BitVec 3)
  /-- VCMPLT (R159). Writes mask kd with the active elements where a is below b. -/
  | vcmplt (kd : BitVec 3) (kg : BitVec 3) (a : BitVec 7) (b : BitVec 7) (sc : BitVec 3)
  /-- VCMPLE (R159). Writes mask kd with the active elements where a is at most b. -/
  | vcmple (kd : BitVec 3) (kg : BitVec 3) (a : BitVec 7) (b : BitVec 7) (sc : BitVec 3)
  /-- VSEL (R160). Selects a or b per element under a mask and pushes the vector. -/
  | vsel (fn : BitVec 3) (a : BitVec 7) (b : BitVec 7) (sc : BitVec 3)
  /-- VCVT (R161). Converts elements between the VTYPE type and another format. -/
  | vcvt (d : BitVec 7) (a : BitVec 7) (imm : BitVec 7) (sc : BitVec 3)
  /-- VCVTS (R162). Encodes elements into t8 or t6 with E8 block scales, or gives the scales. -/
  | vcvts (d : BitVec 7) (a : BitVec 7) (imm : BitVec 7) (sc : BitVec 3)
  /-- VCLAMP (R158). Clamps each element of D between a and b. -/
  | vclamp (d : BitVec 7) (a : BitVec 7) (b : BitVec 7) (sc : BitVec 3)
  /-- VRED (R163). Sums the active elements in the fixed pairwise tree. -/
  | vred (fn : BitVec 3) (a : BitVec 7) (sc : BitVec 3)
  /-- VREDMX (R163). Maximum of the active elements in the fixed tree. -/
  | vredmx (fn : BitVec 3) (a : BitVec 7) (sc : BitVec 3)
  /-- VREDMN (R163). Minimum of the active elements in the fixed tree. -/
  | vredmn (fn : BitVec 3) (a : BitVec 7) (sc : BitVec 3)
  /-- VSCAN (R164). Pushes the inclusive left-to-right running sum of the active elements. -/
  | vscan (fn : BitVec 3) (a : BitVec 7) (sc : BitVec 3)
  /-- VBCAST (R166). Broadcasts element k of a to every element. -/
  | vbcast (d : BitVec 7) (a : BitVec 7) (b : BitVec 7) (sc : BitVec 3)
  /-- VEXT (R166). Extracts element k of a as a scalar. -/
  | vext (d : BitVec 7) (a : BitVec 7) (b : BitVec 7) (sc : BitVec 3)
  /-- VINS (R166). Inserts scalar a at element k of D. -/
  | vins (d : BitVec 7) (a : BitVec 7) (b : BitVec 7) (sc : BitVec 3)
  /-- VIOTA (R165). Pushes for each element the count of active elements below it. -/
  | viota (fn : BitVec 3) (sc : BitVec 3)
  /-- VPERM (R167). Full crossbar permute of a by the index vector b on the shared permute unit. -/
  | vperm (d : BitVec 7) (a : BitVec 7) (b : BitVec 7) (sc : BitVec 3)
  /-- VSHUF (R168). Applies a fixed shuffle pattern named by the selector. -/
  | vshuf (d : BitVec 7) (a : BitVec 7) (imm : BitVec 7) (sc : BitVec 3)
  /-- VCMPR (R169). Compresses the active elements to the front. -/
  | vcmpr (fn : BitVec 3) (a : BitVec 7) (sc : BitVec 3)
  /-- VEXPD (R169). Expands leading elements into the active positions. -/
  | vexpd (fn : BitVec 3) (a : BitVec 7) (sc : BitVec 3)
  /-- VRCP (R170). Correctly rounded reciprocal of each float element. -/
  | vrcp (d : BitVec 7) (a : BitVec 7) (sc : BitVec 3)
  /-- VRSQ (R170). Correctly rounded reciprocal square root. -/
  | vrsq (d : BitVec 7) (a : BitVec 7) (sc : BitVec 3)
  /-- VSQRT (R170). Correctly rounded square root. -/
  | vsqrt (d : BitVec 7) (a : BitVec 7) (sc : BitVec 3)
  /-- VDIV (R171). Elementwise division, interlocked, on the berth's vector divider. -/
  | vdiv (d : BitVec 7) (a : BitVec 7) (b : BitVec 7) (sc : BitVec 3)
  /-- VEXP2 (R170). Correctly rounded 2 to the power of each element. -/
  | vexp2 (d : BitVec 7) (a : BitVec 7) (sc : BitVec 3)
  /-- VLOG2 (R170). Correctly rounded base-2 logarithm. -/
  | vlog2 (d : BitVec 7) (a : BitVec 7) (sc : BitVec 3)
  /-- VSIN (R170). Correctly rounded sine of pi times each element. -/
  | vsin (d : BitVec 7) (a : BitVec 7) (sc : BitVec 3)
  /-- VCOS (R170). Correctly rounded cosine of pi times each element. -/
  | vcos (d : BitVec 7) (a : BitVec 7) (sc : BitVec 3)
  /-- VTANH (R170). Correctly rounded hyperbolic tangent. -/
  | vtanh (d : BitVec 7) (a : BitVec 7) (sc : BitVec 3)
  /-- KAND (R172). kd := kd AND ks. -/
  | kand (kd : BitVec 3) (fn : BitVec 3) (sc : BitVec 3)
  /-- KOR (R172). kd := kd OR ks. -/
  | kor (kd : BitVec 3) (fn : BitVec 3) (sc : BitVec 3)
  /-- KXOR (R172). kd := kd XOR ks. -/
  | kxor (kd : BitVec 3) (fn : BitVec 3) (sc : BitVec 3)
  /-- KNOT (R172). kd := NOT ks. -/
  | knot (kd : BitVec 3) (fn : BitVec 3) (sc : BitVec 3)
  /-- KPOP (R173). Pushes the count of set mask bits below n. -/
  | kpop (fn : BitVec 3) (sc : BitVec 3)
  /-- KFIRST (R173). Pushes the lowest set mask bit below n, or n. -/
  | kfirst (fn : BitVec 3) (sc : BitVec 3)
  /-- KSET (R172). Sets the first a bits of kd and clears the rest. -/
  | kset (kd : BitVec 3) (a : BitVec 7) (sc : BitVec 3)
  /-- LDB (R178). Loads a sign-extended byte from the near slice. -/
  | ldb (d : BitVec 7) (a : BitVec 7) (imm : BitVec 7) (sc : BitVec 3)
  /-- LDBN (R178). Loads a zero-extended byte from the near slice. -/
  | ldbn (d : BitVec 7) (a : BitVec 7) (imm : BitVec 7) (sc : BitVec 3)
  /-- LDH (R178). Loads a sign-extended halfword. -/
  | ldh (d : BitVec 7) (a : BitVec 7) (imm : BitVec 7) (sc : BitVec 3)
  /-- LDHN (R178). Loads a zero-extended halfword. -/
  | ldhn (d : BitVec 7) (a : BitVec 7) (imm : BitVec 7) (sc : BitVec 3)
  /-- LDW (R178). Loads a sign-extended word. -/
  | ldw (d : BitVec 7) (a : BitVec 7) (imm : BitVec 7) (sc : BitVec 3)
  /-- LDWN (R178). Loads a zero-extended word. -/
  | ldwn (d : BitVec 7) (a : BitVec 7) (imm : BitVec 7) (sc : BitVec 3)
  /-- LDD (R178). Loads a doubleword from the near slice. -/
  | ldd (d : BitVec 7) (a : BitVec 7) (imm : BitVec 7) (sc : BitVec 3)
  /-- STB (R178). Stores the low byte of D to the near slice. -/
  | stb (d : BitVec 7) (a : BitVec 7) (imm : BitVec 7) (sc : BitVec 3)
  /-- STH (R178). Stores the low halfword of D. -/
  | sth (d : BitVec 7) (a : BitVec 7) (imm : BitVec 7) (sc : BitVec 3)
  /-- STW (R178). Stores the low word of D. -/
  | stw (d : BitVec 7) (a : BitVec 7) (imm : BitVec 7) (sc : BitVec 3)
  /-- STD (R178). Stores the doubleword D. -/
  | std (d : BitVec 7) (a : BitVec 7) (imm : BitVec 7) (sc : BitVec 3)
  /-- VLD (R180). Loads 256 bytes from the near slice into a vector. -/
  | vld (d : BitVec 7) (a : BitVec 7) (imm : BitVec 7) (sc : BitVec 3)
  /-- VST (R180). Stores 256 bytes of a vector to the near slice. -/
  | vst (d : BitVec 7) (a : BitVec 7) (imm : BitVec 7) (sc : BitVec 3)
  /-- VLDS (R181). Strided near vector load. -/
  | vlds (d : BitVec 7) (a : BitVec 7) (b : BitVec 7) (sc : BitVec 3)
  /-- VSTS (R181). Strided near vector store. -/
  | vsts (d : BitVec 7) (a : BitVec 7) (b : BitVec 7) (sc : BitVec 3)
  /-- VGTH (R182). Indexed gather from the near slice, interlocked. -/
  | vgth (d : BitVec 7) (a : BitVec 7) (b : BitVec 7) (sc : BitVec 3)
  /-- VSCT (R182). Indexed scatter into the near slice, holding the slice while it runs. -/
  | vsct (d : BitVec 7) (a : BitVec 7) (b : BitVec 7) (sc : BitVec 3)
  /-- LDA (R179). Doubleword near load followed by a cube-scope acquire. -/
  | lda (d : BitVec 7) (a : BitVec 7) (imm : BitVec 7) (sc : BitVec 3)
  /-- STL (R179). Doubleword near store that closes its segment with a cube-scope release. -/
  | stl (d : BitVec 7) (a : BitVec 7) (imm : BitVec 7) (sc : BitVec 3)
  /-- LDP (R183). Loads 8 bytes from the berth's own context image rows. -/
  | ldp (d : BitVec 7) (a : BitVec 7) (imm : BitVec 7) (sc : BitVec 3)
  /-- STP (R183). Stores 8 bytes into the berth's own context image rows. -/
  | stp (d : BitVec 7) (a : BitVec 7) (imm : BitVec 7) (sc : BitVec 3)
  /-- GET (R185). Split-phase read of LEN remote bytes into rows, counted into a barrier. -/
  | get (d : BitVec 7) (a : BitVec 7) (b : BitVec 7) (sc : BitVec 3)
  /-- PUT (R186). Split-phase write of captured rows to a remote address at commit, optionally accumulating. -/
  | put (d : BitVec 7) (a : BitVec 7) (b : BitVec 7) (sc : BitVec 3)
  /-- SPTEST (R189). Classifies a pointer without trapping. -/
  | sptest (d : BitVec 7) (a : BitVec 7) (sc : BitVec 3)
  /-- SPCAST (R190). Converts a pointer to another window where permitted. -/
  | spcast (d : BitVec 7) (a : BitVec 7) (imm : BitVec 7) (sc : BitVec 3)
  /-- AADD (R191). Atomic add on an 8-byte word, synchronous or posted by window. -/
  | aadd (d : BitVec 7) (a : BitVec 7) (b : BitVec 7) (sc : BitVec 3)
  /-- AAND (R191). Atomic AND. -/
  | aand (d : BitVec 7) (a : BitVec 7) (b : BitVec 7) (sc : BitVec 3)
  /-- AOR (R191). Atomic OR. -/
  | aor (d : BitVec 7) (a : BitVec 7) (b : BitVec 7) (sc : BitVec 3)
  /-- AXOR (R191). Atomic exclusive OR. -/
  | axor (d : BitVec 7) (a : BitVec 7) (b : BitVec 7) (sc : BitVec 3)
  /-- AMIN (R191). Atomic signed minimum. -/
  | amin (d : BitVec 7) (a : BitVec 7) (b : BitVec 7) (sc : BitVec 3)
  /-- AMAX (R191). Atomic signed maximum. -/
  | amax (d : BitVec 7) (a : BitVec 7) (b : BitVec 7) (sc : BitVec 3)
  /-- AMINN (R191). Atomic natural minimum. -/
  | aminn (d : BitVec 7) (a : BitVec 7) (b : BitVec 7) (sc : BitVec 3)
  /-- AMAXN (R191). Atomic natural maximum. -/
  | amaxn (d : BitVec 7) (a : BitVec 7) (b : BitVec 7) (sc : BitVec 3)
  /-- ASWP (R191). Atomic swap. -/
  | aswp (d : BitVec 7) (a : BitVec 7) (b : BitVec 7) (sc : BitVec 3)
  /-- ACAS (R193). Atomic compare-and-swap, near or remote with barrier completion. -/
  | acas (d : BitVec 7) (a : BitVec 7) (b : BitVec 7) (sc : BitVec 3)
  /-- FENCE (R194). Orders the berth's accesses within a scope with acquire, release, acquire-release or sequential consistency. -/
  | fence (eng : BitVec 4) (fn : BitVec 3) (sc : BitVec 3)
  /-- BARINIT (R198). Initialises a barrier object with an expected byte count. -/
  | barinit (a : BitVec 7) (b : BitVec 7) (sc : BitVec 3)
  /-- BARARR (R198). Tests, releases the segment and arrives b bytes at a barrier. -/
  | bararr (a : BitVec 7) (b : BitVec 7) (sc : BitVec 3)
  /-- BAREXP (R198). Sets the expected count of the earliest incomplete phase. -/
  | barexp (a : BitVec 7) (b : BitVec 7) (sc : BitVec 3)
  /-- BARTST_OBSERVE (R199). Observes a barrier, advancing a completed phase, and pushes PHASE. -/
  | bartstObserve (a : BitVec 7) (sc : BitVec 3)
  /-- BARTST_COUNT (R199). Pushes the barrier's current COUNT without observing. -/
  | bartstCount (a : BitVec 7) (sc : BitVec 3)
  /-- BARTST_EXPECT (R199). Pushes the barrier's EXPECT without observing. -/
  | bartstExpect (a : BitVec 7) (sc : BitVec 3)
  /-- SEND (R204). Queues a message carrying up to 8 payload words to a tile and stage. -/
  | send (d : BitVec 7) (a : BitVec 7) (b : BitVec 7) (sc : BitVec 3)
  /-- SENDV (R204). Queues a message carrying 16 carried and 8 payload words from a vector. -/
  | sendv (d : BitVec 7) (a : BitVec 7) (b : BitVec 7) (sc : BitVec 3)
  /-- SENDI (R208). Queues a message carrying inline code to run at the destination. -/
  | sendi (d : BitVec 7) (a : BitVec 7) (b : BitVec 7) (sc : BitVec 3)
  /-- AMSG (R204). Queues an active message to a die's designated handler berth. -/
  | amsg (d : BitVec 7) (a : BitVec 7) (b : BitVec 7) (sc : BitVec 3)
  /-- SPLIT (R210). Ends the task as TAIL and arms a continuation on a trigger. -/
  | split (a : BitVec 7) (b : BitVec 7) (sc : BitVec 3)
  /-- TAIL (R209). Ends the task, handing outstanding work to the retirement tracker. -/
  | tail (sc : BitVec 3)
  /-- SPAWN (R212). Creates a record on the own tile's deque. -/
  | spawn (a : BitVec 7) (b : BitVec 7) (sc : BitVec 3)
  /-- LAUNCH (R213). Releases at system scope and submits a sub-launch request block. -/
  | launch (d : BitVec 7) (a : BitVec 7) (sc : BitVec 3)
  /-- PRIO (R214). Sets the priority of a program channel on this tile. -/
  | prio (a : BitVec 7) (imm : BitVec 7) (sc : BitVec 3)
  /-- CPUSH (R215). Sends a 64-byte command from an octet of registers to an engine's queue. -/
  | cpush (eng : BitVec 4) (a : BitVec 7) (sc : BitVec 3)
  /-- ECFG (R224). Writes an engine register of an engine on this tile. -/
  | ecfg (eng : BitVec 4) (fn : BitVec 3) (a : BitVec 7) (sc : BitVec 3)
  /-- EOP_COPY (R225). Enqueues a copy-engine ring operation between a ring and a pointer. -/
  | eopCopy (a : BitVec 7) (b : BitVec 7) (sc : BitVec 3)
  /-- EOP_SLOT_FILL (R225). Enqueues a copy-engine ring operation filling a claimed slot. -/
  | eopSlotFill (a : BitVec 7) (b : BitVec 7) (sc : BitVec 3)
  /-- EOP_ACCUMULATING_STORE (R225). Enqueues a ring operation adding f32 elements to external memory. -/
  | eopAccumulatingStore (a : BitVec 7) (b : BitVec 7) (sc : BitVec 3)
  /-- EOP_MATRIX_TILE_OPERATION (R250). Enqueues a matrix tile operation fed from two rings. -/
  | eopMatrixTileOperation (a : BitVec 7) (b : BitVec 7) (sc : BitVec 3)
  /-- EOP_ACCUMULATOR_DRAIN (R250). Enqueues a drain of an accumulator tile to a ring. -/
  | eopAccumulatorDrain (a : BitVec 7) (b : BitVec 7) (sc : BitVec 3)
  /-- EOP_COLLECTIVE_FOLD (R225). Enqueues a collective partial taken from a ring. -/
  | eopCollectiveFold (a : BitVec 7) (b : BitVec 7) (sc : BitVec 3)
  /-- EOP_NEAR_FIELD_EVALUATE (R262). Enqueues evaluation of near-field list entries from a ring. -/
  | eopNearFieldEvaluate (a : BitVec 7) (b : BitVec 7) (sc : BitVec 3)
  /-- EOP_CONSOLIDATE (R225). Enqueues consolidation of delta records from one ring into another. -/
  | eopConsolidate (a : BitVec 7) (b : BitVec 7) (sc : BitVec 3)
  /-- EOP_INSERT_ARRANGEMENT (R225). Enqueues insertion of ring records into an arrangement. -/
  | eopInsertArrangement (a : BitVec 7) (b : BitVec 7) (sc : BitVec 3)
  /-- RINGI (R223). Sets up a ring from a descriptor and binds it to an engine. -/
  | ringi (eng : BitVec 4) (a : BitVec 7) (b : BitVec 7) (sc : BitVec 3)
  /-- RINGP (R223). Releases at tile scope and advances a ring's producer count. -/
  | ringp (a : BitVec 7) (b : BitVec 7) (sc : BitVec 3)
  /-- RINGC (R223). Advances a ring's consumer count. -/
  | ringc (a : BitVec 7) (b : BitVec 7) (sc : BitVec 3)
  /-- RINGQ (R223). Pushes a ring's occupancy, room, producer or consumer count. -/
  | ringq (fn : BitVec 3) (a : BitVec 7) (sc : BitVec 3)
  /-- COLL (R220). Builds a collective command from a template and enqueues it. -/
  | coll (fn : BitVec 3) (a : BitVec 7) (b : BitVec 7) (sc : BitVec 3)
  /-- SCLAIM (R238). Claims operand slots and takes the matrix unit, or pushes 0. -/
  | sclaim (a : BitVec 7) (sc : BitVec 3)
  /-- SRELS (R239). Releases claimed slots after operations naming them complete. -/
  | srels (a : BitVec 7) (sc : BitVec 3)
  /-- SFILL (R240). Copies near-slice bytes into a claimed slot through the matrix queue. -/
  | sfill (a : BitVec 7) (b : BitVec 7) (sc : BitVec 3)
  /-- MMA (R241). Starts a tile operation accumulating into an accumulator tile. -/
  | mma (tl : BitVec 1) (a : BitVec 7) (b : BitVec 7) (sc : BitVec 3)
  /-- MMAZ (R241). Starts a tile operation after zeroing the accumulator tile. -/
  | mmaz (tl : BitVec 1) (a : BitVec 7) (b : BitVec 7) (sc : BitVec 3)
  /-- MACC_ADD_AT1_TO_AT0 (R243). AT0 := AT0 + AT1 elementwise. -/
  | maccAddAt1ToAt0 (sc : BitVec 3)
  /-- MACC_ADD_AT0_TO_AT1 (R243). AT1 := AT1 + AT0 elementwise. -/
  | maccAddAt0ToAt1 (sc : BitVec 3)
  /-- MACC_ZERO_AT0 (R243). Sets every element of AT0 to +0. -/
  | maccZeroAt0 (sc : BitVec 3)
  /-- MACC_ZERO_AT1 (R243). Sets every element of AT1 to +0. -/
  | maccZeroAt1 (sc : BitVec 3)
  /-- MACC_EXCHANGE (R243). Exchanges the bits of AT0 and AT1. -/
  | maccExchange (sc : BitVec 3)
  /-- MSTAT_CLAIMED (R244). Pushes the mask of slots claimed by this berth. -/
  | mstatClaimed (sc : BitVec 3)
  /-- MSTAT_IN_FLIGHT (R244). Pushes the number of matrix queue entries not yet completed. -/
  | mstatInFlight (sc : BitVec 3)
  /-- RQT (R245). Transposes a 64x64 t8 or t6 tile and recomputes its block scales. -/
  | rqt (fn : BitVec 1) (a : BitVec 7) (b : BitVec 7) (sc : BitVec 3)
  /-- MCAP (R246). Replaces MCAPKEY when the old key is presented. -/
  | mcap (a : BitVec 7) (b : BitVec 7) (sc : BitVec 3)
  /-- MREM (R248). Sends a remote matrix command to another tile. -/
  | mrem (a : BitVec 7) (b : BitVec 7) (sc : BitVec 3)
  /-- XCLR (R253). Clears an expansion register and its tag. -/
  | xclr (eng : BitVec 3) (sc : BitVec 3)
  /-- XFORM (R254). Adds one source to a multipole expansion about centre A. -/
  | xform (eng : BitVec 3) (a : BitVec 7) (b : BitVec 7) (sc : BitVec 3)
  /-- XSHIFT (R255). Translates a multipole from centre A to B and adds it. -/
  | xshift (eng : BitVec 3) (a : BitVec 7) (sc : BitVec 3)
  /-- XCONV (R256). Converts a multipole to a local expansion in source-cluster order. -/
  | xconv (eng : BitVec 3) (a : BitVec 7) (b : BitVec 7) (sc : BitVec 3)
  /-- XLSHIFT (R257). Moves a local expansion from centre A to B and adds it. -/
  | xlshift (eng : BitVec 3) (a : BitVec 7) (sc : BitVec 3)
  /-- XEVAL (R258). Evaluates a local expansion at a point. -/
  | xeval (eng : BitVec 3) (a : BitVec 7) (b : BitVec 7) (sc : BitVec 3)
  /-- XMEVAL (R258). Evaluates a multipole expansion at a point. -/
  | xmeval (eng : BitVec 3) (a : BitVec 7) (b : BitVec 7) (sc : BitVec 3)
  /-- XADM (R261). Classifies a cluster pair as far, near-leaf or split. -/
  | xadm (a : BitVec 7) (sc : BitVec 3)
  /-- XNEAR (R262). Appends a near-field list entry to ring NLR. -/
  | xnear (a : BitVec 7) (b : BitVec 7) (sc : BitVec 3)
  /-- XDIRECT (R262). Evaluates one near-field entry directly. -/
  | xdirect (a : BitVec 7) (b : BitVec 7) (sc : BitVec 3)
  /-- XLD (R253). Loads an expansion register from the near slice. -/
  | xld (eng : BitVec 3) (a : BitVec 7) (sc : BitVec 3)
  /-- XST (R253). Stores an expansion register to the near slice. -/
  | xst (eng : BitVec 3) (a : BitVec 7) (sc : BitVec 3)
  /-- DEMIT (R265). Sends up to 7 delta records to a tile and stage as a message. -/
  | demit (a : BitVec 7) (b : BitVec 7) (sc : BitVec 3)
  /-- DCONS (R266). Consolidates records in place, ordinary or active-set. -/
  | dcons (fn : BitVec 3) (a : BitVec 7) (b : BitVec 7) (sc : BitVec 3)
  /-- DINS (R268). Inserts a delta record into an arrangement. -/
  | dins (a : BitVec 7) (b : BitVec 7) (sc : BitVec 3)
  /-- DLOOK (R269). Pushes the live entries of a key from an arrangement. -/
  | dlook (a : BitVec 7) (b : BitVec 7) (sc : BitVec 3)
  /-- DFRONT (R270). Pushes the frontier of a stage and acquires the commits below it. -/
  | dfront (a : BitVec 7) (sc : BitVec 3)
  /-- DCOMP (R271). Compacts an arrangement to a time no later than the frontier. -/
  | dcomp (a : BitVec 7) (b : BitVec 7) (sc : BitVec 3)
  /-- CRD (R226). Reads a control register. -/
  | crd (d : BitVec 7) (number : BitVec 12) (sc : BitVec 3)
  /-- CWR (R226). Writes a control register under the catalogue rules. -/
  | cwr (d : BitVec 7) (number : BitVec 12) (sc : BitVec 3)
  /-- TRAP (R227). Traps with SOFT and the immediate code. -/
  | trap (imm : BitVec 14) (sc : BitVec 3)
  /-- TRET (R231). Leaves the trap handler, restores the queue, re-injects replay entries and resumes at RPC. -/
  | tret (sc : BitVec 3)
  /-- BRK (R227). Traps with BREAK, to the debugger when it has claimed the launch. -/
  | brk (imm : BitVec 14) (sc : BitVec 3)
  /-- DICTLD (R232). Replaces the berth's dictionary from external memory. -/
  | dictld (a : BitVec 7) (sc : BitVec 3)
  /-- DICTIONARY_PARCEL (R68). A 16-bit parcel that issues dictionary entry i as its instruction. -/
  | dictionaryParcel (index : BitVec 10)
  /-- CURB_WRITE (R29). A CWR to CURB stores LIMIT, replacing zero or an excess with CEIL. -/
  | curbWrite (tile : Nat) (value : BitVec 64)
  /-- CURBST_WRITE (R29). A CWR to CURBST sets COUNT and clears WRAP by writing 1. -/
  | curbstWrite (tile : Nat) (value : BitVec 64)
  /-- ISSUEPOL_WRITE (R363). A CWR to ISSUEPOL switches GTO and RR at the next arbitration, keeping cur and last. -/
  | issuepolWrite (tile : Nat) (value : BitVec 64)
  /-- BKCONF_WRITE (R339). A CWR on a memory core sets the bank-conflict count. -/
  | bkconfWrite (core : Nat) (value : BitVec 64)
  /-- CONTROL_REGISTER_WRITE (R23). A CWR to a register that has no row of its own, with its field checks. -/
  | controlRegisterWrite (tile berth : Nat) (number : BitVec 12) (value : BitVec 64)
  /-- TAKE_WORK (R351). A free berth takes one record from channel 15, a marked record, an inbox, its deque, its depot or a steal and starts the task. -/
  | takeWork (tile berth : Nat)
  /-- INTERLOCKED_RESULT (R66). A long-latency result arrives and is written in issue order. -/
  | interlockedResult (tile berth : Nat)
  /-- RESULT_QUEUE_EXPIRY (R12). A queue entry's life of 4096 resident cycles runs out. -/
  | resultQueueExpiry (tile berth position : Nat)
  /-- BRANCH_RESOLVE (R77). A branch resolves two cycles after issue, squashing or confirming speculative successors. -/
  | branchResolve (tile berth : Nat)
  /-- ISSUE_STARVATION (R363). A berth ready for 256 cycles without issuing is chosen ahead of the policy. -/
  | issueStarvation (tile : Nat)
  /-- PREEMPT (R438). A channel-15 request saves a context, its pending writes and its unit images and frees the berth. -/
  | preempt (tile berth requester : Nat)
  /-- CONTEXT_RESUME (R439). A pre-empted context reloads its state, unit images and dictionary and performs TRET. -/
  | contextResume (tile berth index : Nat)
  /-- ENERGY_OVERRUN_NOTICE (R433). The reckoner's overrun notice raises ENERGY in one berth of each tile of the launch. -/
  | energyOverrunNotice (tile overrun : Nat)
  /-- DEBUGGER_RESUME (R227). The debugger resumes a berth frozen by BREAK. -/
  | debuggerResume (tile berth : Nat)
  /-- RETIREMENT_DRAIN (R209). A retirement-tracker entry frees once all its work has been performed. -/
  | retirementDrain (tile index : Nat)
  /-- COMMIT_GRANT (R297). The sequencer grants the next ordered commit in key order and sends its buffered work. -/
  | commitGrant (launch : Nat)
  /-- ORDERED_FRONTIER_PUBLISH (R357). The sequencer publishes the ordered frontier to every tile of the field. -/
  | orderedFrontierPublish (launch : Nat)
  /-- MARK_OLDEST_RECORD (R358). The sequencer marks the pending record holding the lowest key and delivers it from a depot. -/
  | markOldestRecord (launch : Nat)
  /-- MESSAGE_DELIVERY (R207). A message packet reaches its destination inbox and is queued in SEQ order. -/
  | messageDelivery (flight : Nat)
  /-- INBOX_OVERFLOW_REFILL (R353). A freed inbox place is refilled from the depot overflow lists. -/
  | inboxOverflowRefill (tile channel : Nat)
  /-- CONTINUATION_FIRE (R211). An armed trigger fires and the continuation is pushed onto the arming tile's deque. -/
  | continuationFire (tile index : Nat)
  /-- TRIGGER_TABLE_TEST (R211). A continuation held in the depot has its trigger tested at least every 1024 cycles. -/
  | triggerTableTest (tile : Nat)
  /-- GET_DELIVERY (R185). GET data lands in the rows and its bytes count into the barrier. -/
  | getDelivery (flight : Nat)
  /-- GET_CHECK_RESULT (R188). The window and translation checks of a GET return, recording a pending fault on failure. -/
  | getCheckResult (flight : Nat)
  /-- PUT_COMPLETION (R186). Every byte of a PUT is performed at its destination and LEN counts into its barrier. -/
  | putCompletion (flight : Nat)
  /-- POSTED_ATOMIC_COMPLETION (R191). A posted atomic is performed indivisibly at its destination. -/
  | postedAtomicCompletion (flight : Nat)
  /-- REMOTE_ACAS_REPLY (R193). The old value of a remote ACAS is written to the row and 8 bytes counted. -/
  | remoteAcasReply (flight : Nat)
  /-- COPY_COMMAND_COPY (R218). A copy command moving LEN bytes between windows with optional completion counts. -/
  | copyCommandCopy (tile op : Nat)
  /-- COPY_COMMAND_SLOT_FILL (R218). A copy command filling a claimed operand slot. -/
  | copyCommandSlotFill (tile op : Nat)
  /-- COPY_COMMAND_ACCUMULATING_STORE (R218). A copy command adding f32 words into external memory. -/
  | copyCommandAccumulatingStore (tile op : Nat)
  /-- COPY_COMMAND_FILL (R218). A copy command writing an 8-byte fill value over LEN bytes. -/
  | copyCommandFill (tile op : Nat)
  /-- ENGINE_TAKE_COMMAND (R216). An engine takes a queued command, checks it and begins it. -/
  | engineTakeCommand (tile engine : Nat)
  /-- ENGINE_OPERATION_COMPLETE (R216). An engine operation completes and counts its bytes into its barriers. -/
  | engineOperationComplete (tile op : Nat)
  /-- RING_OPERATION_FIRING (R225). An EOP fires when its input rings hold their counts and the output has room. -/
  | ringOperationFiring (tile op : Nat)
  /-- TRACE_STREAM_FIRING (R369). A trace stream moves NIN0 elements over a trace link into the neighbour's ring. -/
  | traceStreamFiring (tile op : Nat)
  /-- COLLECTIVE_ADD (R376). A collective command whose round is folded by addition in slice order. -/
  | collectiveAdd (tile op : Nat)
  /-- COLLECTIVE_MAXIMUM (R376). A collective command whose round is folded by maximum. -/
  | collectiveMaximum (tile op : Nat)
  /-- COLLECTIVE_MINIMUM (R376). A collective command whose round is folded by minimum. -/
  | collectiveMinimum (tile op : Nat)
  /-- COLLECTIVE_BROADCAST (R377). A collective command whose partial is delivered unchanged along the line. -/
  | collectiveBroadcast (tile op : Nat)
  /-- ACCUMULATOR_SHADOW_COPY (R375). An accumulator tile is copied into its shadow once earlier operations complete. -/
  | accumulatorShadowCopy (tile op : Nat)
  /-- SLICE_ANNOUNCE (R375). A taken collective command announces its slice to the line's root. -/
  | sliceAnnounce (tile op : Nat)
  /-- COLLECTIVE_PULL (R376). The root pulls the next slice's partial and folds it. -/
  | collectivePull (root round : Nat)
  /-- COLLECTIVE_DELIVERY (R376). The folded result is written at each receiving tile and counted into RBAR. -/
  | collectiveDelivery (root round receiver : Nat)
  /-- CONSOLIDATE (R221). A consolidator command merging records into an output run. -/
  | consolidate (tile op : Nat)
  /-- CONSOLIDATE_ACTIVE_SET (R221). A consolidator command merging in active-set mode. -/
  | consolidateActiveSet (tile op : Nat)
  /-- INSERT_ARRANGEMENT (R221). A consolidator command inserting records into an arrangement. -/
  | insertArrangement (tile op : Nat)
  /-- MATRIX_QUEUE_EXECUTE (R242). The matrix unit begins its next queue entry, reading scale arrays. -/
  | matrixQueueExecute (tile : Nat)
  /-- TILE_OPERATION_COMPLETE (R242). A tile operation completes 8 cycles after its occupancy ends. -/
  | tileOperationComplete (tile : Nat)
  /-- CURB_WINDOW_BOUNDARY (R372). A 64-cycle window starts, fixing its limit as min(LIMIT, CEIL). -/
  | curbWindowBoundary (tile : Nat)
  /-- REMOTE_MMA (R248). A remote matrix command performing MMA on the target's held unit. -/
  | remoteMma (flight : Nat)
  /-- REMOTE_MMAZ (R248). A remote matrix command performing MMAZ. -/
  | remoteMmaz (flight : Nat)
  /-- REMOTE_MACC (R248). A remote matrix command performing MACC. -/
  | remoteMacc (flight : Nat)
  /-- REMOTE_COMMAND_REPLY (R249). A reply adds 64 bytes to REPLY and records any refusal reason. -/
  | remoteCommandReply (flight : Nat)
  /-- EXPANSION_INSTRUCTION_COMPLETE (R263). An expansion instruction finishes its occupancy and pushes any value. -/
  | expansionInstructionComplete (tile : Nat)
  /-- DELTA_INTAKE_ARRIVAL (R388). Delivered delta records are merged into the tile's intake, spilling when full. -/
  | deltaIntakeArrival (flight : Nat)
  /-- POINT_RELEASE (R389). A tile releases an open point once G exceeds it, updating the list and queuing tasks. -/
  | pointRelease (tile : Nat) (time : BitVec 64) (stage : Nat)
  /-- FRONTIER_PUBLISH (R387). The sequencer re-evaluates F and G and publishes them to the field. -/
  | frontierPublish (launch : Nat)
  /-- DEPOT_FETCH (R354). A depot block arrives and starts the fetching berth's task. -/
  | depotFetch (tile berth : Nat)
  /-- STEAL_REQUEST (R355). A thief asks a victim over the steal wires for a record. -/
  | stealRequest (thief : Nat)
  /-- STEAL_ANSWER (R355). A victim's grant or refusal reaches the thief. -/
  | stealAnswer (thief : Nat)
  /-- STEAL_RETRY_WAIT (R355). A thief's 16-cycle or 1024-cycle wait before the next try ends. -/
  | stealRetryWait (thief : Nat)
  /-- CHANNEL_AGING (R352). A channel waiting 4096 cycles gains one priority raise. -/
  | channelAging (tile channel : Nat)
  /-- REGROUPING (R356). Every 16384 cycles neighbouring dies move queued records to balance. -/
  | regrouping (launch : Nat)
  /-- LAUNCH_QUEUE_TAKE (R348). The command processor takes the next launch-queue entry of the partition. -/
  | launchQueueTake (part : Nat)
  /-- ADMISSION (R457). A held launch is admitted when its partition pool covers its estimate. -/
  | admission (part : Nat)
  /-- LAUNCH_RESULT (R213). The command processor writes RESULT and counts 8 bytes into the request barrier. -/
  | launchResult (part index : Nat)
  /-- LAUNCH_RETIRE (R350). A launch whose tasks, trackers and depot records are gone frees its tiles. -/
  | launchRetire (launch : Nat)
  /-- LOAD_OBJECT (R121). The steward loads a linked object into a partition as one step. -/
  | loadObject (part : Nat) (object : List (BitVec 8))
  /-- UNLOAD_OBJECT (R121). The steward unloads an object with no live launch, or refuses with BUSY. -/
  | unloadObject (part index : Nat)
  /-- HITCH_MIRROR_LAUNCH (R427). A hitch launch is mirrored to all four packages and placed on all or none. -/
  | hitchMirrorLaunch (part : Nat) (record : BitVec 64) (peers : List Nat)
  /-- ROW_DROWSY (R280). A row untouched for 65536 cycles becomes DROWSY. -/
  | rowDrowsy (tile entry : Nat)
  /-- ROW_GATED (R280). A drowsy row untouched 2^20 more cycles is written back and GATED. -/
  | rowGated (tile entry : Nat)
  /-- ROW_FILL (R282). A fill miss brings a row from its image into an entry. -/
  | rowFill (tile berth row : Nat)
  /-- WRITE_BACK_DRAIN (R281). A dirty victim's write to its image is performed and its buffer place drains. -/
  | writeBackDrain (tile : Nat)
  /-- REFRESH_BURST (R283). Refresh holds a main-file bank for 4 cycles in every 128. -/
  | refreshBurst (tile bank : Nat)
  /-- SCRUB_READ (R286). The scrubber reads and checks a word. -/
  | scrubRead (address : Nat) (error : Nat)
  /-- CORRECTED_WRITE_BACK (R287). A corrected line is written back in the next free bank cycle. -/
  | correctedWriteBack (address : Nat)
  /-- UNCORRECTABLE_ERROR (R288). An uncorrectable error poisons the word and reports to the owning launch. -/
  | uncorrectableError (address : Nat)
  /-- BANK_FAILURE (R289). A bank fails in bank-rebuild mode and its lines are rebuilt from parity. -/
  | bankFailure (tile bank : Nat)
  /-- EXTERNAL_REQUEST_ARRIVAL (R328). A request reaches its serving memory core and is queued on its channel. -/
  | externalRequestArrival (request : Nat)
  /-- EXTERNAL_REQUEST_PERFORM (R329). A memory core performs a request on memory and returns its completion. -/
  | externalRequestPerform (core channel : Nat)
  /-- PAGE_TABLE_WALK (R330). A TLB miss walks the page tables, failing or filling the TLB. -/
  | pageTableWalk (core part : Nat) (address : BitVec 48)
  /-- SHOOTDOWN (R334). The steward drops TLB and walk-cache entries for a range. -/
  | shootdown (part : Nat) (address : BitVec 48) (length : Nat)
  /-- SERVICE_REQUEST (R335). A 64-byte PUT to a request page queues a service record at the core. -/
  | serviceRequest (request : Nat)
  /-- GATHER (R338). A layout command moving elements from the affine side to the dense side. -/
  | gather (core op : Nat)
  /-- SCATTER (R338). A layout command moving elements from the dense side to the affine side. -/
  | scatter (core op : Nat)
  /-- ACCUMULATING_CONTRIBUTION (R341). A contribution arrives at a line and held contributions fold in slice order. -/
  | accumulatingContribution (request : Nat)
  /-- TOKEN_REFILL (R345). At each 1024-cycle boundary the port's token buckets are set. -/
  | tokenRefill 
  /-- SHARE_TABLE_WRITE (R344). The steward writes a partition's port share, capping it at 100. -/
  | shareTableWrite (part : Nat) (value : BitVec 8)
  /-- SOUNDING (R401). Every clock each router sends each neighbour its occupancy sounding. -/
  | sounding 
  /-- PACKET_HOP (R402). A head wins an output and takes a hop, deflecting or detouring as needed. -/
  | packetHop (packet : Nat)
  /-- LODESTAR_TURN (R404). A new turn tile sends its beacon naming its oldest packet. -/
  | lodestarTurn 
  /-- DELIVERY_NOTICE (R404). A delivery notice frees the source's in-flight entry. -/
  | deliveryNotice (tile tag : Nat)
  /-- LINK_REPLAY (R408). An uncorrectable flit is replayed once from the retry buffer. -/
  | linkReplay (packet flit : Nat) (struck : List Nat) (partLost : Bool)
  /-- LINK_FAILURE (R411). A failed link is reported and its retry buffer resent over another port. -/
  | linkFailure (tile port : Nat)
  /-- CHART_UPDATE (R412). The steward writes a chart entry to every router. -/
  | chartUpdate (index : Nat) (entry : BitVec 64)
  /-- REIN_FAILURE (R429). A failed rein's traffic moves to the next working rein of its pair. -/
  | reinFailure (rein : Nat)
  /-- FIELD_SAVE (R441). A whole launch is pre-empted, drained and written to the save area. -/
  | fieldSave (launch : Nat)
  /-- FIELD_RESTORE (R443). A saved launch is placed again and its contexts resumed. -/
  | fieldRestore (part index : Nat)
  /-- BRING_DOWN (R446). A partition is frozen and its launches receive FAULT. -/
  | bringDown (part : Nat)
  /-- DIE_FAILED (R446). A die is declared failed and the launches on it are brought down. -/
  | dieFailed (die : Nat)
  /-- PARTITION_SPLIT (R447). Disconnected groups are resolved so exactly one continues. -/
  | partitionSplit (part : Nat) (groups : List (List Nat)) (reaches : List Bool)
  /-- STEWARD_WATCHDOG (R448). A missing heartbeat or panic freezes partitions and warm-reboots the kernel. -/
  | stewardWatchdog (kernelOk : Bool)
  /-- FATAL_DUMP (R450). An uncontained failure stops every agent, dumps state and reboots cold. -/
  | fatalDump 
  /-- POWER_ON (R452). Power-on runs the seven boot stages. -/
  | powerOn (fuses : List (List Nat)) (failure : Nat)
  /-- ATTESTATION_REQUEST (R453). A nonce request is answered with a signed measurement reply. -/
  | attestationRequest (nonce : BitVec 512)
  /-- PARTITION_SETUP (R454). The steward sets up or changes a partition, writing the registry first. -/
  | partitionSetup (entry : BitVec 2048)
  /-- RECKONER_REGISTER_WRITE (R455). The steward writes a reckoner register, clamping PKGW. -/
  | reckonerRegisterWrite (register : Nat) (value : BitVec 64)
  /-- RECKONER_REFILL (R456). Every 1 us the reckoner refills die accounts and pools and moves CEIL. -/
  | reckonerRefill (used : List (Nat × Nat))
  /-- THERMAL_THRESHOLD (R460). A hot-spot sensor crossing 105, 95 or 115 degrees halves or restores R or trips the island. -/
  | thermalThreshold (die sensor reading : Nat)
  /-- CLOCK_SET (R459). The steward sets the tile clock while no field is placed. -/
  | clockSet (megahertz : Nat)
  /-- PRECIOUS_REGION_MARK (R461). A partition marks a precious region, refused beyond the limit. -/
  | preciousRegionMark (part : Nat) (base : BitVec 48) (length : Nat)
  /-- HOLDUP (R462). A supply drop for 20 us runs the holdup sequence from the bank. -/
  | holdup 
  /-- RESERVED_ENCODING (R79). A word with a reserved opcode, an unassigned ENG or FN value, or the 0xfb00 fill parcels issues and traps with ILLEGAL. -/
  | reservedEncoding (word : BitVec 32)
  /-- FETCH_FAILURE (R143). A fetch outside the launch's instruction region, or past the inline SENDI code, traps with ILLEGAL and bit 62 set in TRAPVAL. -/
  | fetchFailure (address : BitVec 48)
  /-- LAUNCH_QUEUE_APPEND (R348). The steward appends an entry to a partition's launch queue. -/
  | launchQueueAppend (part : Nat) (record : BitVec 64)
  /-- RELEASE_HOLD_END (R309). The device count passes the releasing reading by 5, so the held commit, messages and split-phase writes leave the tile. -/
  | releaseHoldEnd (tile : Nat)
  /-- DEVICE_MEMORY_ACCESS (R463). A PCIe device reads or writes partition memory through the steward's IOMMU at system scope. -/
  | deviceMemoryAccess (part : Nat) (address : BitVec 48) (store : Bool) (data : List (BitVec 8))
  /-- MANAGEMENT_MAILBOX (R459). A management host writes the mailbox in the endpoint BAR to the steward kernel. -/
  | managementMailbox (offset : Nat) (value : BitVec 64)
  /-- DEBUGGER_CLAIM (R227). The steward's debugger claims a launch, so BREAK then goes to the debugger and freezes the berth. -/
  | debuggerClaim (launch : Nat)
  /-- DEBUGGER_ROW_WRITE (R284). The debugger writes a row of a context image directly, waking a drowsy row. -/
  | debuggerRowWrite (tile berth row : Nat) (data : BitVec 2048)
  /-- FROZEN_FIELD_DISCARD (R446). The steward discards the frozen fields of a brought-down partition. -/
  | frozenFieldDiscard (part : Nat)
  /-- FATAL_DUMP_CLEAR (R450). The steward clears the kept fatal-dump region. -/
  | fatalDumpClear 
  /-- STEWARD_MEMORY_WRITE (R304). The steward writes memory, such as a launch record or a page-table entry, which a later command-processor fetch or shootdown acquires. -/
  | stewardMemoryWrite (address : Nat) (data : List (BitVec 8))
  deriving DecidableEq, Repr

end Sys2Proof
end

