-- ==== Sys2Proof/WellFormed.lean ====
section
/-!
DEFINITION. Well-formed instructions: the values R84 to R89 assign to a natural immediate, an engine code or a sub-function, and for an
event that names an agent the range of that agent's number (R7).
-/
namespace Sys2Proof

/-- R84: a shift count of 0 to 63. -/
def shiftCount (imm : BitVec 7) : Bool := decide (imm.toNat < 64)

/-- R84: a bit width of 1 to 64. -/
def bitWidth (imm : BitVec 7) : Bool := decide (1 ≤ imm.toNat ∧ imm.toNat ≤ 64)

/-- R84: a window code of 0 to 5. -/
def windowCode (imm : BitVec 7) : Bool := decide (imm.toNat ≤ 5)

/-- R84: a priority of 0 to 7. -/
def priority (imm : BitVec 7) : Bool := decide (imm.toNat ≤ 7)

/-- R154: a VTYPE value of 0 to 63 whose ETYPE (R25) is not reserved. -/
def vtypeValue (imm : BitVec 14) : Bool := decide (imm.toNat < 64 ∧ imm.toNat % 16 ≤ 8)

/-- R161: the format code F of VCVT is not reserved. -/
def vcvtSelector (imm : BitVec 7) : Bool := decide (imm.toNat % 16 ≤ 10)

/-- R162: F names t8 or t6, and MODE 1 has PART 0. -/
def vcvtsSelector (imm : BitVec 7) : Bool :=
  decide ((imm.toNat % 16 = 9 ∨ imm.toNat % 16 = 10) ∧ (imm.toNat / 16 % 2 = 1 → imm.toNat / 32 = 0))

/-- R168: KIND 0 to 5, with P zero under KIND 4 and at most 1 under KIND 5. -/
def vshufSelector (imm : BitVec 7) : Bool :=
  decide (imm.toNat / 16 ≤ 5 ∧ (imm.toNat / 16 = 4 → imm.toNat % 16 = 0) ∧ (imm.toNat / 16 = 5 → imm.toNat % 16 ≤ 1))

/-- R86: a scope of 0 to 4 and an order of 0 to 3. -/
def fenceCodes (eng : BitVec 4) (fn : BitVec 3) : Bool := decide (eng.toNat ≤ 4 ∧ fn.toNat ≤ 3)

/-- R67: an engine code of 0 to 4. -/
def engineCode (eng : BitVec 4) : Bool := decide (eng.toNat ≤ 4)

/-- R88: a RINGQ sub-function of 0 to 3. -/
def ringQuery (fn : BitVec 3) : Bool := decide (fn.toNat ≤ 3)

/-- R88: a COLL operation of 0 to 3. -/
def foldOperation (fn : BitVec 3) : Bool := decide (fn.toNat ≤ 3)

/-- R89: a DCONS mode of 0 or 1. -/
def consolidationMode (fn : BitVec 3) : Bool := decide (fn.toNat ≤ 1)

/-- The instruction's fields hold values its row of the opcode table admits. -/
def Instr.wellFormed : Instr → Bool
  | .add _ _ _ _ => true
  | .sub _ _ _ _ => true
  | .addi _ _ _ _ => true
  | .mul _ _ _ _ => true
  | .mulh _ _ _ _ => true
  | .mulhn _ _ _ _ => true
  | .div _ _ _ _ => true
  | .divn _ _ _ _ => true
  | .rem _ _ _ _ => true
  | .remn _ _ _ _ => true
  | .and _ _ _ _ => true
  | .or _ _ _ _ => true
  | .xor _ _ _ _ => true
  | .andn _ _ _ _ => true
  | .andi _ _ _ _ => true
  | .ori _ _ _ _ => true
  | .xori _ _ _ _ => true
  | .shl _ _ _ _ => true
  | .shr _ _ _ _ => true
  | .shra _ _ _ _ => true
  | .shli _ _ imm _ => shiftCount imm
  | .shri _ _ imm _ => shiftCount imm
  | .shrai _ _ imm _ => shiftCount imm
  | .rotr _ _ _ _ => true
  | .rotri _ _ imm _ => shiftCount imm
  | .clz _ _ _ => true
  | .ctz _ _ _ => true
  | .popc _ _ _ => true
  | .min _ _ _ _ => true
  | .max _ _ _ _ => true
  | .minn _ _ _ _ => true
  | .maxn _ _ _ _ => true
  | .slt _ _ _ _ => true
  | .sltn _ _ _ _ => true
  | .seq _ _ _ _ => true
  | .slti _ _ _ _ => true
  | .sel _ _ _ _ => true
  | .sext _ _ imm _ => bitWidth imm
  | .zext _ _ imm _ => bitWidth imm
  | .bfx _ _ _ _ => true
  | .bfi _ _ _ _ => true
  | .ldi _ _ _ => true
  | .ldhi _ _ _ => true
  | .lea _ _ _ _ => true
  | .mov _ _ _ => true
  | .beq _ _ _ => true
  | .bne _ _ _ => true
  | .blt _ _ _ => true
  | .bge _ _ _ => true
  | .bltn _ _ _ => true
  | .bgen _ _ _ => true
  | .bz _ _ _ => true
  | .bnz _ _ _ => true
  | .j _ _ => true
  | .jl _ _ => true
  | .jr _ _ => true
  | .jlr _ _ _ => true
  | .loop _ _ _ => true
  | .yield _ => true
  | .nop _ => true
  | .vset _ imm _ => vtypeValue imm
  | .vadd _ _ _ _ => true
  | .vsub _ _ _ _ => true
  | .vmul _ _ _ _ => true
  | .vmad _ _ _ _ => true
  | .vmsb _ _ _ _ => true
  | .vnmad _ _ _ _ => true
  | .vmin _ _ _ _ => true
  | .vmax _ _ _ _ => true
  | .vabs _ _ _ => true
  | .vneg _ _ _ => true
  | .vand _ _ _ _ => true
  | .vor _ _ _ _ => true
  | .vxor _ _ _ _ => true
  | .vnot _ _ _ => true
  | .vshl _ _ _ _ => true
  | .vshr _ _ _ _ => true
  | .vshra _ _ _ _ => true
  | .vcmpeq _ _ _ _ _ => true
  | .vcmpne _ _ _ _ _ => true
  | .vcmplt _ _ _ _ _ => true
  | .vcmple _ _ _ _ _ => true
  | .vsel _ _ _ _ => true
  | .vcvt _ _ imm _ => vcvtSelector imm
  | .vcvts _ _ imm _ => vcvtsSelector imm
  | .vclamp _ _ _ _ => true
  | .vred _ _ _ => true
  | .vredmx _ _ _ => true
  | .vredmn _ _ _ => true
  | .vscan _ _ _ => true
  | .vbcast _ _ _ _ => true
  | .vext _ _ _ _ => true
  | .vins _ _ _ _ => true
  | .viota _ _ => true
  | .vperm _ _ _ _ => true
  | .vshuf _ _ imm _ => vshufSelector imm
  | .vcmpr _ _ _ => true
  | .vexpd _ _ _ => true
  | .vrcp _ _ _ => true
  | .vrsq _ _ _ => true
  | .vsqrt _ _ _ => true
  | .vdiv _ _ _ _ => true
  | .vexp2 _ _ _ => true
  | .vlog2 _ _ _ => true
  | .vsin _ _ _ => true
  | .vcos _ _ _ => true
  | .vtanh _ _ _ => true
  | .kand _ _ _ => true
  | .kor _ _ _ => true
  | .kxor _ _ _ => true
  | .knot _ _ _ => true
  | .kpop _ _ => true
  | .kfirst _ _ => true
  | .kset _ _ _ => true
  | .ldb _ _ _ _ => true
  | .ldbn _ _ _ _ => true
  | .ldh _ _ _ _ => true
  | .ldhn _ _ _ _ => true
  | .ldw _ _ _ _ => true
  | .ldwn _ _ _ _ => true
  | .ldd _ _ _ _ => true
  | .stb _ _ _ _ => true
  | .sth _ _ _ _ => true
  | .stw _ _ _ _ => true
  | .std _ _ _ _ => true
  | .vld _ _ _ _ => true
  | .vst _ _ _ _ => true
  | .vlds _ _ _ _ => true
  | .vsts _ _ _ _ => true
  | .vgth _ _ _ _ => true
  | .vsct _ _ _ _ => true
  | .lda _ _ _ _ => true
  | .stl _ _ _ _ => true
  | .ldp _ _ _ _ => true
  | .stp _ _ _ _ => true
  | .get _ _ _ _ => true
  | .put _ _ _ _ => true
  | .sptest _ _ _ => true
  | .spcast _ _ imm _ => windowCode imm
  | .aadd _ _ _ _ => true
  | .aand _ _ _ _ => true
  | .aor _ _ _ _ => true
  | .axor _ _ _ _ => true
  | .amin _ _ _ _ => true
  | .amax _ _ _ _ => true
  | .aminn _ _ _ _ => true
  | .amaxn _ _ _ _ => true
  | .aswp _ _ _ _ => true
  | .acas _ _ _ _ => true
  | .fence eng fn _ => fenceCodes eng fn
  | .barinit _ _ _ => true
  | .bararr _ _ _ => true
  | .barexp _ _ _ => true
  | .bartstObserve _ _ => true
  | .bartstCount _ _ => true
  | .bartstExpect _ _ => true
  | .send _ _ _ _ => true
  | .sendv _ _ _ _ => true
  | .sendi _ _ _ _ => true
  | .amsg _ _ _ _ => true
  | .split _ _ _ => true
  | .tail _ => true
  | .spawn _ _ _ => true
  | .launch _ _ _ => true
  | .prio _ imm _ => priority imm
  | .cpush eng _ _ => engineCode eng
  | .ecfg eng _ _ _ => engineCode eng
  | .eopCopy _ _ _ => true
  | .eopSlotFill _ _ _ => true
  | .eopAccumulatingStore _ _ _ => true
  | .eopMatrixTileOperation _ _ _ => true
  | .eopAccumulatorDrain _ _ _ => true
  | .eopCollectiveFold _ _ _ => true
  | .eopNearFieldEvaluate _ _ _ => true
  | .eopConsolidate _ _ _ => true
  | .eopInsertArrangement _ _ _ => true
  | .ringi eng _ _ _ => engineCode eng
  | .ringp _ _ _ => true
  | .ringc _ _ _ => true
  | .ringq fn _ _ => ringQuery fn
  | .coll fn _ _ _ => foldOperation fn
  | .sclaim _ _ => true
  | .srels _ _ => true
  | .sfill _ _ _ => true
  | .mma _ _ _ _ => true
  | .mmaz _ _ _ _ => true
  | .maccAddAt1ToAt0 _ => true
  | .maccAddAt0ToAt1 _ => true
  | .maccZeroAt0 _ => true
  | .maccZeroAt1 _ => true
  | .maccExchange _ => true
  | .mstatClaimed _ => true
  | .mstatInFlight _ => true
  | .rqt _ _ _ _ => true
  | .mcap _ _ _ => true
  | .mrem _ _ _ => true
  | .xclr _ _ => true
  | .xform _ _ _ _ => true
  | .xshift _ _ _ => true
  | .xconv _ _ _ _ => true
  | .xlshift _ _ _ => true
  | .xeval _ _ _ _ => true
  | .xmeval _ _ _ _ => true
  | .xadm _ _ => true
  | .xnear _ _ _ => true
  | .xdirect _ _ _ => true
  | .xld _ _ _ => true
  | .xst _ _ _ => true
  | .demit _ _ _ => true
  | .dcons fn _ _ _ => consolidationMode fn
  | .dins _ _ _ => true
  | .dlook _ _ _ => true
  | .dfront _ _ => true
  | .dcomp _ _ _ => true
  | .crd _ _ _ => true
  | .cwr _ _ _ => true
  | .trap _ _ => true
  | .tret _ => true
  | .brk _ _ => true
  | .dictld _ _ => true
  | .dictionaryParcel _ => true
  | .curbWrite tile _ => decide (tile < 5248)
  | .curbstWrite tile _ => decide (tile < 5248)
  | .issuepolWrite tile _ => decide (tile < 5248)
  | .bkconfWrite core _ => decide (4096 ≤ core ∧ core < 5248)
  | .controlRegisterWrite tile berth _ _ => decide (tile < 5248 ∧ berth < 4)
  | .takeWork tile berth => decide (tile < 5248 ∧ berth < 4)
  | .interlockedResult tile berth => decide (tile < 5248 ∧ berth < 4)
  | .resultQueueExpiry tile berth _ => decide (tile < 5248 ∧ berth < 4)
  | .branchResolve tile berth => decide (tile < 5248 ∧ berth < 4)
  | .issueStarvation tile => decide (tile < 5248)
  | .preempt tile berth _ => decide (tile < 5248 ∧ berth < 4)
  | .contextResume tile berth _ => decide (tile < 5248 ∧ berth < 4)
  | .energyOverrunNotice tile _ => decide (tile < 5248)
  | .debuggerResume tile berth => decide (tile < 5248 ∧ berth < 4)
  | .retirementDrain tile _ => decide (tile < 5248)
  | .commitGrant _ => true
  | .orderedFrontierPublish _ => true
  | .markOldestRecord _ => true
  | .messageDelivery _ => true
  | .inboxOverflowRefill tile _ => decide (tile < 5248)
  | .continuationFire tile _ => decide (tile < 5248)
  | .triggerTableTest tile => decide (tile < 5248)
  | .getDelivery _ => true
  | .getCheckResult _ => true
  | .putCompletion _ => true
  | .postedAtomicCompletion _ => true
  | .remoteAcasReply _ => true
  | .copyCommandCopy tile _ => decide (tile < 5248)
  | .copyCommandSlotFill tile _ => decide (tile < 5248)
  | .copyCommandAccumulatingStore tile _ => decide (tile < 5248)
  | .copyCommandFill tile _ => decide (tile < 5248)
  | .engineTakeCommand tile _ => decide (tile < 5248)
  | .engineOperationComplete tile _ => decide (tile < 5248)
  | .ringOperationFiring tile _ => decide (tile < 5248)
  | .traceStreamFiring tile _ => decide (tile < 5248)
  | .collectiveAdd tile _ => decide (tile < 5248)
  | .collectiveMaximum tile _ => decide (tile < 5248)
  | .collectiveMinimum tile _ => decide (tile < 5248)
  | .collectiveBroadcast tile _ => decide (tile < 5248)
  | .accumulatorShadowCopy tile _ => decide (tile < 5248)
  | .sliceAnnounce tile _ => decide (tile < 5248)
  | .collectivePull root _ => decide (root < 4096)
  | .collectiveDelivery root _ receiver => decide (root < 4096 ∧ receiver < 4096)
  | .consolidate tile _ => decide (tile < 5248)
  | .consolidateActiveSet tile _ => decide (tile < 5248)
  | .insertArrangement tile _ => decide (tile < 5248)
  | .matrixQueueExecute tile => decide (tile < 5248)
  | .tileOperationComplete tile => decide (tile < 5248)
  | .curbWindowBoundary tile => decide (tile < 5248)
  | .remoteMma _ => true
  | .remoteMmaz _ => true
  | .remoteMacc _ => true
  | .remoteCommandReply _ => true
  | .expansionInstructionComplete tile => decide (tile < 5248)
  | .deltaIntakeArrival _ => true
  | .pointRelease tile _ _ => decide (tile < 5248)
  | .frontierPublish _ => true
  | .depotFetch tile berth => decide (tile < 5248 ∧ berth < 4)
  | .stealRequest thief => decide (thief < 4096)
  | .stealAnswer thief => decide (thief < 4096)
  | .stealRetryWait thief => decide (thief < 4096)
  | .channelAging tile _ => decide (tile < 5248)
  | .regrouping _ => true
  | .launchQueueTake part => decide (part < 64)
  | .admission part => decide (part < 64)
  | .launchResult part _ => decide (part < 64)
  | .launchRetire _ => true
  | .loadObject part _ => decide (part < 64)
  | .unloadObject part _ => decide (part < 64)
  | .hitchMirrorLaunch part _ _ => decide (part < 64)
  | .rowDrowsy tile _ => decide (tile < 5248)
  | .rowGated tile _ => decide (tile < 5248)
  | .rowFill tile berth _ => decide (tile < 5248 ∧ berth < 4)
  | .writeBackDrain tile => decide (tile < 5248)
  | .refreshBurst tile _ => decide (tile < 5248)
  | .scrubRead _ _ => true
  | .correctedWriteBack _ => true
  | .uncorrectableError _ => true
  | .bankFailure tile _ => decide (tile < 5248)
  | .externalRequestArrival _ => true
  | .externalRequestPerform core _ => decide (4096 ≤ core ∧ core < 5248)
  | .pageTableWalk core part _ => decide (4096 ≤ core ∧ core < 5248 ∧ part < 64)
  | .shootdown part _ _ => decide (part < 64)
  | .serviceRequest _ => true
  | .gather core _ => decide (4096 ≤ core ∧ core < 5248)
  | .scatter core _ => decide (4096 ≤ core ∧ core < 5248)
  | .accumulatingContribution _ => true
  | .tokenRefill => true
  | .shareTableWrite part _ => decide (part < 64)
  | .sounding => true
  | .packetHop _ => true
  | .lodestarTurn => true
  | .deliveryNotice tile _ => decide (tile < 5248)
  | .linkReplay _ _ _ _ => true
  | .linkFailure tile _ => decide (tile < 5248)
  | .chartUpdate _ _ => true
  | .reinFailure _ => true
  | .fieldSave _ => true
  | .fieldRestore part _ => decide (part < 64)
  | .bringDown part => decide (part < 64)
  | .dieFailed die => decide (die < 64)
  | .partitionSplit part _ _ => decide (part < 64)
  | .stewardWatchdog _ => true
  | .fatalDump => true
  | .powerOn _ _ => true
  | .attestationRequest _ => true
  | .partitionSetup _ => true
  | .reckonerRegisterWrite _ _ => true
  | .reckonerRefill _ => true
  | .thermalThreshold die _ _ => decide (die < 64)
  | .clockSet _ => true
  | .preciousRegionMark part _ _ => decide (part < 64)
  | .holdup => true
  | .reservedEncoding _ => true
  | .fetchFailure _ => true
  | .launchQueueAppend part _ => decide (part < 64)
  | .releaseHoldEnd tile => decide (tile < 5248)
  | .deviceMemoryAccess part _ _ _ => decide (part < 64)
  | .managementMailbox _ _ => true
  | .debuggerClaim _ => true
  | .debuggerRowWrite tile berth _ _ => decide (tile < 5248 ∧ berth < 4)
  | .frozenFieldDiscard part => decide (part < 64)
  | .fatalDumpClear => true
  | .stewardMemoryWrite _ _ => true

end Sys2Proof
end

