-- ==== Sys2Proof/Decode.lean ====
section
/-!
DEFINITION. Decoding and encoding (R60 to R63, R67, R68, R79, R81 to R89). A 32-bit word is one opcode, three 7-bit groups and a stall
count; every format of R62 is a reading of that quintuple. `decodeWord` is total: it gives the one instruction of the
opcode map the word stands for, or the reason it is no instruction, each of which traps with ILLEGAL.
-/
namespace Sys2Proof

/-- Why a bit pattern is no instruction (R79); each is a decode ILLEGAL under R80. -/
inductive Reject where
  /-- R82: an opcode the map of R81 leaves out. -/
  | reservedOpcode
  /-- R63: a field the opcode does not use is not zero. -/
  | unusedField
  /-- R67, R86 to R89: an ENG or FN value, or R84: a natural immediate, that the opcode does not assign. -/
  | unassignedValue
  /-- R68, R82: bits [31:26] of a word are the dictionary marker. -/
  | dictionaryMarker
  /-- R61: fewer bytes than the instruction takes. -/
  | truncated
  deriving DecidableEq, Repr

/-- The bit groups of a 32-bit word (R62). -/
structure Fields where
  op : BitVec 8
  d : BitVec 7
  a : BitVec 7
  b : BitVec 7
  sc : BitVec 3
  deriving DecidableEq, Repr

/-- The word of its bit groups. -/
def Fields.word (f : Fields) : BitVec 32 := f.op ++ f.d ++ f.a ++ f.b ++ f.sc

/-- The bit groups of a word. -/
def fieldsOf (w : BitVec 32) : Fields :=
  ⟨w.extractLsb' 24 8, w.extractLsb' 17 7, w.extractLsb' 10 7, w.extractLsb' 3 7, w.extractLsb' 0 3⟩

/-- ENG of format E, bits [23:20]. -/
def Fields.eng (f : Fields) : BitVec 4 := f.d.extractLsb' 3 4

/-- FN of format E, bits [19:17]. -/
def Fields.fn (f : Fields) : BitVec 3 := f.d.extractLsb' 0 3

/-- The destination mask of format E, bits [22:20] (R85). -/
def Fields.kd (f : Fields) : BitVec 3 := f.d.extractLsb' 3 3

/-- Goes on when the condition holds, else gives the reason. -/
def need (c : Bool) (r : Reject) (k : Except Reject Instr) : Except Reject Instr :=
  if c then k else .error r

/-- Opcodes 0x00 to 0x2f (R81). -/
def decodeScalar (f : Fields) : Except Reject Instr :=
  match f.op.toNat with
  | 0x00 => .ok (.add f.d f.a f.b f.sc)
  | 0x01 => .ok (.sub f.d f.a f.b f.sc)
  | 0x02 => .ok (.addi f.d f.a f.b f.sc)
  | 0x03 => .ok (.mul f.d f.a f.b f.sc)
  | 0x04 => .ok (.mulh f.d f.a f.b f.sc)
  | 0x05 => .ok (.mulhn f.d f.a f.b f.sc)
  | 0x06 => .ok (.div f.d f.a f.b f.sc)
  | 0x07 => .ok (.divn f.d f.a f.b f.sc)
  | 0x08 => .ok (.rem f.d f.a f.b f.sc)
  | 0x09 => .ok (.remn f.d f.a f.b f.sc)
  | 0x0a => .ok (.and f.d f.a f.b f.sc)
  | 0x0b => .ok (.or f.d f.a f.b f.sc)
  | 0x0c => .ok (.xor f.d f.a f.b f.sc)
  | 0x0d => .ok (.andn f.d f.a f.b f.sc)
  | 0x0e => .ok (.andi f.d f.a f.b f.sc)
  | 0x0f => .ok (.ori f.d f.a f.b f.sc)
  | 0x10 => .ok (.xori f.d f.a f.b f.sc)
  | 0x11 => .ok (.shl f.d f.a f.b f.sc)
  | 0x12 => .ok (.shr f.d f.a f.b f.sc)
  | 0x13 => .ok (.shra f.d f.a f.b f.sc)
  | 0x14 => need (shiftCount f.b) .unassignedValue (.ok (.shli f.d f.a f.b f.sc))
  | 0x15 => need (shiftCount f.b) .unassignedValue (.ok (.shri f.d f.a f.b f.sc))
  | 0x16 => need (shiftCount f.b) .unassignedValue (.ok (.shrai f.d f.a f.b f.sc))
  | 0x17 => .ok (.rotr f.d f.a f.b f.sc)
  | 0x18 => need (shiftCount f.b) .unassignedValue (.ok (.rotri f.d f.a f.b f.sc))
  | 0x19 => need (decide (f.b = 0)) .unusedField (.ok (.clz f.d f.a f.sc))
  | 0x1a => need (decide (f.b = 0)) .unusedField (.ok (.ctz f.d f.a f.sc))
  | 0x1b => need (decide (f.b = 0)) .unusedField (.ok (.popc f.d f.a f.sc))
  | 0x1c => .ok (.min f.d f.a f.b f.sc)
  | 0x1d => .ok (.max f.d f.a f.b f.sc)
  | 0x1e => .ok (.minn f.d f.a f.b f.sc)
  | 0x1f => .ok (.maxn f.d f.a f.b f.sc)
  | 0x20 => .ok (.slt f.d f.a f.b f.sc)
  | 0x21 => .ok (.sltn f.d f.a f.b f.sc)
  | 0x22 => .ok (.seq f.d f.a f.b f.sc)
  | 0x23 => .ok (.slti f.d f.a f.b f.sc)
  | 0x24 => .ok (.sel f.d f.a f.b f.sc)
  | 0x25 => need (bitWidth f.b) .unassignedValue (.ok (.sext f.d f.a f.b f.sc))
  | 0x26 => need (bitWidth f.b) .unassignedValue (.ok (.zext f.d f.a f.b f.sc))
  | 0x27 => .ok (.bfx f.d f.a f.b f.sc)
  | 0x28 => .ok (.bfi f.d f.a f.b f.sc)
  | 0x29 => .ok (.ldi f.d (f.a ++ f.b) f.sc)
  | 0x2a => .ok (.ldhi f.d (f.a ++ f.b) f.sc)
  | 0x2b => .ok (.lea f.d f.a f.b f.sc)
  | 0x2c => need (decide (f.b = 0)) .unusedField (.ok (.mov f.d f.a f.sc))
  | _ => .error .reservedOpcode

/-- Opcodes 0x30 to 0x3f (R81). -/
def decodeControl (f : Fields) : Except Reject Instr :=
  match f.op.toNat with
  | 0x30 => .ok (.beq f.d (f.a ++ f.b) f.sc)
  | 0x31 => .ok (.bne f.d (f.a ++ f.b) f.sc)
  | 0x32 => .ok (.blt f.d (f.a ++ f.b) f.sc)
  | 0x33 => .ok (.bge f.d (f.a ++ f.b) f.sc)
  | 0x34 => .ok (.bltn f.d (f.a ++ f.b) f.sc)
  | 0x35 => .ok (.bgen f.d (f.a ++ f.b) f.sc)
  | 0x36 => .ok (.bz f.d (f.a ++ f.b) f.sc)
  | 0x37 => .ok (.bnz f.d (f.a ++ f.b) f.sc)
  | 0x38 => .ok (.j (f.d ++ f.a ++ f.b) f.sc)
  | 0x39 => .ok (.jl (f.d ++ f.a ++ f.b) f.sc)
  | 0x3a => need (decide (f.d = 0 ∧ f.b = 0)) .unusedField (.ok (.jr f.a f.sc))
  | 0x3b => need (decide (f.b = 0)) .unusedField (.ok (.jlr f.d f.a f.sc))
  | 0x3c => .ok (.loop f.d (f.a ++ f.b) f.sc)
  | 0x3d => need (decide (f.d = 0 ∧ f.a = 0 ∧ f.b = 0)) .unusedField (.ok (.yield f.sc))
  | 0x3e => need (decide (f.d = 0 ∧ f.a = 0 ∧ f.b = 0)) .unusedField (.ok (.nop f.sc))
  | _ => .error .reservedOpcode

/-- Opcodes 0x40 to 0x5f (R81). -/
def decodeVector (f : Fields) : Except Reject Instr :=
  match f.op.toNat with
  | 0x40 => need (vtypeValue (f.a ++ f.b)) .unassignedValue (.ok (.vset f.d (f.a ++ f.b) f.sc))
  | 0x41 => .ok (.vadd f.d f.a f.b f.sc)
  | 0x42 => .ok (.vsub f.d f.a f.b f.sc)
  | 0x43 => .ok (.vmul f.d f.a f.b f.sc)
  | 0x44 => .ok (.vmad f.d f.a f.b f.sc)
  | 0x45 => .ok (.vmsb f.d f.a f.b f.sc)
  | 0x46 => .ok (.vnmad f.d f.a f.b f.sc)
  | 0x47 => .ok (.vmin f.d f.a f.b f.sc)
  | 0x48 => .ok (.vmax f.d f.a f.b f.sc)
  | 0x49 => need (decide (f.b = 0)) .unusedField (.ok (.vabs f.d f.a f.sc))
  | 0x4a => need (decide (f.b = 0)) .unusedField (.ok (.vneg f.d f.a f.sc))
  | 0x4b => .ok (.vand f.d f.a f.b f.sc)
  | 0x4c => .ok (.vor f.d f.a f.b f.sc)
  | 0x4d => .ok (.vxor f.d f.a f.b f.sc)
  | 0x4e => need (decide (f.b = 0)) .unusedField (.ok (.vnot f.d f.a f.sc))
  | 0x4f => .ok (.vshl f.d f.a f.b f.sc)
  | 0x50 => .ok (.vshr f.d f.a f.b f.sc)
  | 0x51 => .ok (.vshra f.d f.a f.b f.sc)
  | 0x52 => need (decide (f.d.extractLsb' 6 1 = 0)) .unusedField (.ok (.vcmpeq f.kd f.fn f.a f.b f.sc))
  | 0x53 => need (decide (f.d.extractLsb' 6 1 = 0)) .unusedField (.ok (.vcmpne f.kd f.fn f.a f.b f.sc))
  | 0x54 => need (decide (f.d.extractLsb' 6 1 = 0)) .unusedField (.ok (.vcmplt f.kd f.fn f.a f.b f.sc))
  | 0x55 => need (decide (f.d.extractLsb' 6 1 = 0)) .unusedField (.ok (.vcmple f.kd f.fn f.a f.b f.sc))
  | 0x56 => need (decide (f.eng = 0)) .unusedField (.ok (.vsel f.fn f.a f.b f.sc))
  | 0x57 => need (vcvtSelector f.b) .unassignedValue (.ok (.vcvt f.d f.a f.b f.sc))
  | 0x58 => need (vcvtsSelector f.b) .unassignedValue (.ok (.vcvts f.d f.a f.b f.sc))
  | 0x59 => .ok (.vclamp f.d f.a f.b f.sc)
  | 0x5a => need (decide (f.eng = 0 ∧ f.b = 0)) .unusedField (.ok (.vred f.fn f.a f.sc))
  | 0x5b => need (decide (f.eng = 0 ∧ f.b = 0)) .unusedField (.ok (.vredmx f.fn f.a f.sc))
  | 0x5c => need (decide (f.eng = 0 ∧ f.b = 0)) .unusedField (.ok (.vredmn f.fn f.a f.sc))
  | 0x5d => need (decide (f.eng = 0 ∧ f.b = 0)) .unusedField (.ok (.vscan f.fn f.a f.sc))
  | 0x5e => .ok (.vbcast f.d f.a f.b f.sc)
  | 0x5f => .ok (.vext f.d f.a f.b f.sc)
  | _ => .error .reservedOpcode

/-- Opcodes 0x60 to 0x7f (R81). -/
def decodeVectorHigh (f : Fields) : Except Reject Instr :=
  match f.op.toNat with
  | 0x60 => .ok (.vins f.d f.a f.b f.sc)
  | 0x61 => need (decide (f.eng = 0 ∧ f.a = 0 ∧ f.b = 0)) .unusedField (.ok (.viota f.fn f.sc))
  | 0x62 => .ok (.vperm f.d f.a f.b f.sc)
  | 0x63 => need (vshufSelector f.b) .unassignedValue (.ok (.vshuf f.d f.a f.b f.sc))
  | 0x64 => need (decide (f.eng = 0 ∧ f.b = 0)) .unusedField (.ok (.vcmpr f.fn f.a f.sc))
  | 0x65 => need (decide (f.eng = 0 ∧ f.b = 0)) .unusedField (.ok (.vexpd f.fn f.a f.sc))
  | 0x66 => need (decide (f.b = 0)) .unusedField (.ok (.vrcp f.d f.a f.sc))
  | 0x67 => need (decide (f.b = 0)) .unusedField (.ok (.vrsq f.d f.a f.sc))
  | 0x68 => need (decide (f.b = 0)) .unusedField (.ok (.vsqrt f.d f.a f.sc))
  | 0x69 => .ok (.vdiv f.d f.a f.b f.sc)
  | 0x6a => need (decide (f.b = 0)) .unusedField (.ok (.vexp2 f.d f.a f.sc))
  | 0x6b => need (decide (f.b = 0)) .unusedField (.ok (.vlog2 f.d f.a f.sc))
  | 0x6c => need (decide (f.b = 0)) .unusedField (.ok (.vsin f.d f.a f.sc))
  | 0x6d => need (decide (f.b = 0)) .unusedField (.ok (.vcos f.d f.a f.sc))
  | 0x6e => need (decide (f.b = 0)) .unusedField (.ok (.vtanh f.d f.a f.sc))
  | 0x6f => need (decide (f.d.extractLsb' 6 1 = 0 ∧ f.a = 0 ∧ f.b = 0)) .unusedField (.ok (.kand f.kd f.fn f.sc))
  | 0x70 => need (decide (f.d.extractLsb' 6 1 = 0 ∧ f.a = 0 ∧ f.b = 0)) .unusedField (.ok (.kor f.kd f.fn f.sc))
  | 0x71 => need (decide (f.d.extractLsb' 6 1 = 0 ∧ f.a = 0 ∧ f.b = 0)) .unusedField (.ok (.kxor f.kd f.fn f.sc))
  | 0x72 => need (decide (f.d.extractLsb' 6 1 = 0 ∧ f.a = 0 ∧ f.b = 0)) .unusedField (.ok (.knot f.kd f.fn f.sc))
  | 0x73 => need (decide (f.eng = 0 ∧ f.a = 0 ∧ f.b = 0)) .unusedField (.ok (.kpop f.fn f.sc))
  | 0x74 => need (decide (f.eng = 0 ∧ f.a = 0 ∧ f.b = 0)) .unusedField (.ok (.kfirst f.fn f.sc))
  | 0x75 => need (decide (f.d.extractLsb' 6 1 = 0 ∧ f.fn = 0 ∧ f.b = 0)) .unusedField (.ok (.kset f.kd f.a f.sc))
  | _ => .error .reservedOpcode

/-- Opcodes 0x80 to 0xa7 (R81). -/
def decodeMemory (f : Fields) : Except Reject Instr :=
  match f.op.toNat with
  | 0x80 => .ok (.ldb f.d f.a f.b f.sc)
  | 0x81 => .ok (.ldbn f.d f.a f.b f.sc)
  | 0x82 => .ok (.ldh f.d f.a f.b f.sc)
  | 0x83 => .ok (.ldhn f.d f.a f.b f.sc)
  | 0x84 => .ok (.ldw f.d f.a f.b f.sc)
  | 0x85 => .ok (.ldwn f.d f.a f.b f.sc)
  | 0x86 => .ok (.ldd f.d f.a f.b f.sc)
  | 0x87 => .ok (.stb f.d f.a f.b f.sc)
  | 0x88 => .ok (.sth f.d f.a f.b f.sc)
  | 0x89 => .ok (.stw f.d f.a f.b f.sc)
  | 0x8a => .ok (.std f.d f.a f.b f.sc)
  | 0x8b => .ok (.vld f.d f.a f.b f.sc)
  | 0x8c => .ok (.vst f.d f.a f.b f.sc)
  | 0x8d => .ok (.vlds f.d f.a f.b f.sc)
  | 0x8e => .ok (.vsts f.d f.a f.b f.sc)
  | 0x8f => .ok (.vgth f.d f.a f.b f.sc)
  | 0x90 => .ok (.vsct f.d f.a f.b f.sc)
  | 0x91 => .ok (.lda f.d f.a f.b f.sc)
  | 0x92 => .ok (.stl f.d f.a f.b f.sc)
  | 0x93 => .ok (.ldp f.d f.a f.b f.sc)
  | 0x94 => .ok (.stp f.d f.a f.b f.sc)
  | 0x95 => .ok (.get f.d f.a f.b f.sc)
  | 0x96 => .ok (.put f.d f.a f.b f.sc)
  | 0x97 => need (decide (f.b = 0)) .unusedField (.ok (.sptest f.d f.a f.sc))
  | 0x98 => need (windowCode f.b) .unassignedValue (.ok (.spcast f.d f.a f.b f.sc))
  | 0x99 => .ok (.aadd f.d f.a f.b f.sc)
  | 0x9a => .ok (.aand f.d f.a f.b f.sc)
  | 0x9b => .ok (.aor f.d f.a f.b f.sc)
  | 0x9c => .ok (.axor f.d f.a f.b f.sc)
  | 0x9d => .ok (.amin f.d f.a f.b f.sc)
  | 0x9e => .ok (.amax f.d f.a f.b f.sc)
  | 0x9f => .ok (.aminn f.d f.a f.b f.sc)
  | 0xa0 => .ok (.amaxn f.d f.a f.b f.sc)
  | 0xa1 => .ok (.aswp f.d f.a f.b f.sc)
  | 0xa2 => .ok (.acas f.d f.a f.b f.sc)
  | 0xa3 => need (decide (f.a = 0 ∧ f.b = 0)) .unusedField (need (fenceCodes f.eng f.fn) .unassignedValue (.ok (.fence f.eng f.fn f.sc)))
  | 0xa4 => need (decide (f.d = 0)) .unusedField (.ok (.barinit f.a f.b f.sc))
  | 0xa5 => need (decide (f.d = 0)) .unusedField (.ok (.bararr f.a f.b f.sc))
  | 0xa6 => need (decide (f.d = 0)) .unusedField (.ok (.barexp f.a f.b f.sc))
  | 0xa7 =>
    match f.d.toNat with
    | 0 => need (decide (f.b = 0)) .unusedField (.ok (.bartstObserve f.a f.sc))
    | 1 => need (decide (f.b = 0)) .unusedField (.ok (.bartstCount f.a f.sc))
    | 2 => need (decide (f.b = 0)) .unusedField (.ok (.bartstExpect f.a f.sc))
    | _ => .error .unassignedValue
  | _ => .error .reservedOpcode

/-- Opcodes 0xa8 to 0xb7 (R81). -/
def decodeTask (f : Fields) : Except Reject Instr :=
  match f.op.toNat with
  | 0xa8 => .ok (.send f.d f.a f.b f.sc)
  | 0xa9 => .ok (.sendv f.d f.a f.b f.sc)
  | 0xaa => .ok (.sendi f.d f.a f.b f.sc)
  | 0xab => .ok (.amsg f.d f.a f.b f.sc)
  | 0xac => need (decide (f.d = 0)) .unusedField (.ok (.split f.a f.b f.sc))
  | 0xad => need (decide (f.d = 0 ∧ f.a = 0 ∧ f.b = 0)) .unusedField (.ok (.tail f.sc))
  | 0xae => need (decide (f.d = 0)) .unusedField (.ok (.spawn f.a f.b f.sc))
  | 0xaf => need (decide (f.b = 0)) .unusedField (.ok (.launch f.d f.a f.sc))
  | 0xb0 => need (decide (f.d = 0)) .unusedField (need (priority f.b) .unassignedValue (.ok (.prio f.a f.b f.sc)))
  | _ => .error .reservedOpcode

/-- Opcodes 0xb8 to 0xc7 (R81). -/
def decodeEngine (f : Fields) : Except Reject Instr :=
  match f.op.toNat with
  | 0xb8 => need (decide (f.fn = 0 ∧ f.b = 0)) .unusedField (need (engineCode f.eng) .unassignedValue (.ok (.cpush f.eng f.a f.sc)))
  | 0xb9 => need (decide (f.b = 0)) .unusedField (need (engineCode f.eng) .unassignedValue (.ok (.ecfg f.eng f.fn f.a f.sc)))
  | 0xba =>
    match f.d.toNat with
    | 0 => .ok (.eopCopy f.a f.b f.sc)
    | 1 => .ok (.eopSlotFill f.a f.b f.sc)
    | 2 => .ok (.eopAccumulatingStore f.a f.b f.sc)
    | 8 => .ok (.eopMatrixTileOperation f.a f.b f.sc)
    | 9 => .ok (.eopAccumulatorDrain f.a f.b f.sc)
    | 16 => .ok (.eopCollectiveFold f.a f.b f.sc)
    | 24 => .ok (.eopNearFieldEvaluate f.a f.b f.sc)
    | 32 => .ok (.eopConsolidate f.a f.b f.sc)
    | 33 => .ok (.eopInsertArrangement f.a f.b f.sc)
    | _ => .error .unassignedValue
  | 0xbb => need (decide (f.fn = 0)) .unusedField (need (engineCode f.eng) .unassignedValue (.ok (.ringi f.eng f.a f.b f.sc)))
  | 0xbc => need (decide (f.d = 0)) .unusedField (.ok (.ringp f.a f.b f.sc))
  | 0xbd => need (decide (f.d = 0)) .unusedField (.ok (.ringc f.a f.b f.sc))
  | 0xbe => need (decide (f.eng = 0 ∧ f.b = 0)) .unusedField (need (ringQuery f.fn) .unassignedValue (.ok (.ringq f.fn f.a f.sc)))
  | 0xbf => need (decide (f.eng = 2)) .unassignedValue (need (foldOperation f.fn) .unassignedValue (.ok (.coll f.fn f.a f.b f.sc)))
  | _ => .error .reservedOpcode

/-- Opcodes 0xc8 to 0xd7 (R81). -/
def decodeMatrix (f : Fields) : Except Reject Instr :=
  match f.op.toNat with
  | 0xc8 => need (decide (f.d = 8 ∧ f.b = 0)) .unusedField (.ok (.sclaim f.a f.sc))
  | 0xc9 => need (decide (f.d = 8 ∧ f.b = 0)) .unusedField (.ok (.srels f.a f.sc))
  | 0xca => need (decide (f.d = 8)) .unusedField (.ok (.sfill f.a f.b f.sc))
  | 0xcb => need (decide (f.d.extractLsb' 1 6 = 4)) .unusedField (.ok (.mma (f.d.extractLsb' 0 1) f.a f.b f.sc))
  | 0xcc => need (decide (f.d.extractLsb' 1 6 = 4)) .unusedField (.ok (.mmaz (f.d.extractLsb' 0 1) f.a f.b f.sc))
  | 0xcd =>
    match f.d.toNat with
    | 8 => need (decide (f.a = 0 ∧ f.b = 0)) .unusedField (.ok (.maccAddAt1ToAt0 f.sc))
    | 9 => need (decide (f.a = 0 ∧ f.b = 0)) .unusedField (.ok (.maccAddAt0ToAt1 f.sc))
    | 10 => need (decide (f.a = 0 ∧ f.b = 0)) .unusedField (.ok (.maccZeroAt0 f.sc))
    | 11 => need (decide (f.a = 0 ∧ f.b = 0)) .unusedField (.ok (.maccZeroAt1 f.sc))
    | 12 => need (decide (f.a = 0 ∧ f.b = 0)) .unusedField (.ok (.maccExchange f.sc))
    | _ => .error .unassignedValue
  | 0xce =>
    match f.d.toNat with
    | 8 => need (decide (f.a = 0 ∧ f.b = 0)) .unusedField (.ok (.mstatClaimed f.sc))
    | 9 => need (decide (f.a = 0 ∧ f.b = 0)) .unusedField (.ok (.mstatInFlight f.sc))
    | _ => .error .unassignedValue
  | 0xcf => need (decide (f.d.extractLsb' 1 6 = 4)) .unusedField (.ok (.rqt (f.d.extractLsb' 0 1) f.a f.b f.sc))
  | 0xd0 => need (decide (f.d = 8)) .unusedField (.ok (.mcap f.a f.b f.sc))
  | 0xd1 => need (decide (f.d = 8)) .unusedField (.ok (.mrem f.a f.b f.sc))
  | _ => .error .reservedOpcode

/-- Opcodes 0xd8 to 0xe7 (R81). -/
def decodeExpansion (f : Fields) : Except Reject Instr :=
  match f.op.toNat with
  | 0xd8 => need (decide (f.eng = 3)) .unassignedValue (need (decide (f.a = 0 ∧ f.b = 0)) .unusedField (.ok (.xclr f.fn f.sc)))
  | 0xd9 => need (decide (f.eng = 3)) .unassignedValue (.ok (.xform f.fn f.a f.b f.sc))
  | 0xda => need (decide (f.eng = 3)) .unassignedValue (need (decide (f.b = 0)) .unusedField (.ok (.xshift f.fn f.a f.sc)))
  | 0xdb => need (decide (f.eng = 3)) .unassignedValue (.ok (.xconv f.fn f.a f.b f.sc))
  | 0xdc => need (decide (f.eng = 3)) .unassignedValue (need (decide (f.b = 0)) .unusedField (.ok (.xlshift f.fn f.a f.sc)))
  | 0xdd => need (decide (f.eng = 3)) .unassignedValue (.ok (.xeval f.fn f.a f.b f.sc))
  | 0xde => need (decide (f.eng = 3)) .unassignedValue (.ok (.xmeval f.fn f.a f.b f.sc))
  | 0xdf => need (decide (f.d = 24 ∧ f.b = 0)) .unusedField (.ok (.xadm f.a f.sc))
  | 0xe0 => need (decide (f.d = 24)) .unusedField (.ok (.xnear f.a f.b f.sc))
  | 0xe1 => need (decide (f.d = 24)) .unusedField (.ok (.xdirect f.a f.b f.sc))
  | 0xe2 => need (decide (f.eng = 3)) .unassignedValue (need (decide (f.b = 0)) .unusedField (.ok (.xld f.fn f.a f.sc)))
  | 0xe3 => need (decide (f.eng = 3)) .unassignedValue (need (decide (f.b = 0)) .unusedField (.ok (.xst f.fn f.a f.sc)))
  | _ => .error .reservedOpcode

/-- Opcodes 0xe8 to 0xef (R81). -/
def decodeDelta (f : Fields) : Except Reject Instr :=
  match f.op.toNat with
  | 0xe8 => need (decide (f.d = 32)) .unusedField (.ok (.demit f.a f.b f.sc))
  | 0xe9 => need (decide (f.eng = 4)) .unassignedValue (need (consolidationMode f.fn) .unassignedValue (.ok (.dcons f.fn f.a f.b f.sc)))
  | 0xea => need (decide (f.d = 32)) .unusedField (.ok (.dins f.a f.b f.sc))
  | 0xeb => need (decide (f.d = 32)) .unusedField (.ok (.dlook f.a f.b f.sc))
  | 0xec => need (decide (f.d = 32 ∧ f.b = 0)) .unusedField (.ok (.dfront f.a f.sc))
  | 0xed => need (decide (f.d = 32)) .unusedField (.ok (.dcomp f.a f.b f.sc))
  | _ => .error .reservedOpcode

/-- Opcodes 0xf0 to 0xff (R81). -/
def decodeSystem (f : Fields) : Except Reject Instr :=
  match f.op.toNat with
  | 0xf0 => need (decide (f.a.extractLsb' 5 2 = 0)) .unusedField (.ok (.crd f.d ((f.a ++ f.b).extractLsb' 0 12) f.sc))
  | 0xf1 => need (decide (f.a.extractLsb' 5 2 = 0)) .unusedField (.ok (.cwr f.d ((f.a ++ f.b).extractLsb' 0 12) f.sc))
  | 0xf2 => need (decide (f.d = 0)) .unusedField (.ok (.trap (f.a ++ f.b) f.sc))
  | 0xf3 => need (decide (f.d = 0 ∧ f.a = 0 ∧ f.b = 0)) .unusedField (.ok (.tret f.sc))
  | 0xf4 => need (decide (f.d = 0)) .unusedField (.ok (.brk (f.a ++ f.b) f.sc))
  | 0xf5 => need (decide (f.d = 0 ∧ f.b = 0)) .unusedField (.ok (.dictld f.a f.sc))
  | 0xfc => .error .dictionaryMarker
  | 0xfd => .error .dictionaryMarker
  | 0xfe => .error .dictionaryMarker
  | 0xff => .error .dictionaryMarker
  | _ => .error .reservedOpcode

/-- The instruction of a word's bit groups, by the group of its opcode (R81). -/
def decodeFields (f : Fields) : Except Reject Instr :=
  match f.op.toNat / 16 with
  | 0 => decodeScalar f
  | 1 => decodeScalar f
  | 2 => decodeScalar f
  | 3 => decodeControl f
  | 4 => decodeVector f
  | 5 => decodeVector f
  | 6 => decodeVectorHigh f
  | 7 => decodeVectorHigh f
  | 8 => decodeMemory f
  | 9 => decodeMemory f
  | 10 => if f.op.toNat < 0xa8 then decodeMemory f else decodeTask f
  | 11 => if f.op.toNat < 0xb8 then decodeTask f else decodeEngine f
  | 12 => if f.op.toNat < 0xc8 then decodeEngine f else decodeMatrix f
  | 13 => if f.op.toNat < 0xd8 then decodeMatrix f else decodeExpansion f
  | 14 => if f.op.toNat < 0xe8 then decodeExpansion f else decodeDelta f
  | _ => decodeSystem f

/-- The instruction of a 32-bit word (R81), or why it is none (R79). -/
def decodeWord (w : BitVec 32) : Except Reject Instr := decodeFields (fieldsOf w)

/-- R61: bits [15:10] of a parcel all ones mark a dictionary parcel. -/
def isDictParcel (p : BitVec 16) : Bool := p.extractLsb' 10 6 == 63

/-- The bytes of a parcel (R60: little-endian). -/
def parcelBytes (p : BitVec 16) : List Byte := [p.extractLsb' 0 8, p.extractLsb' 8 8]

/-- The parcel of two bytes (R60). -/
def parcelOf (lo hi : Byte) : BitVec 16 := hi ++ lo

/-- The bytes of a word in code: the high parcel first (R60). -/
def wordBytes (w : BitVec 32) : List Byte := parcelBytes (w.extractLsb' 16 16) ++ parcelBytes (w.extractLsb' 0 16)

/-- R61: decoding of the bytes at the program counter, with what is left of them. -/
def decode : List Byte → Except Reject (Instr × List Byte)
  | b0 :: b1 :: rest =>
    if isDictParcel (parcelOf b0 b1) then .ok (.dictionaryParcel ((parcelOf b0 b1).extractLsb' 0 10), rest)
    else match rest with
      | b2 :: b3 :: rest' => (decodeWord (parcelOf b0 b1 ++ parcelOf b2 b3)).map (fun i => (i, rest'))
      | _ => .error .truncated
  | _ => .error .truncated

/-- The bit groups that encode an instruction word (R62, R81 to R89); none for a dictionary parcel and for the events. -/
def encodeFields : Instr → Option Fields
  | .add d a b sc => some ⟨0x00, d, a, b, sc⟩
  | .sub d a b sc => some ⟨0x01, d, a, b, sc⟩
  | .addi d a imm sc => some ⟨0x02, d, a, imm, sc⟩
  | .mul d a b sc => some ⟨0x03, d, a, b, sc⟩
  | .mulh d a b sc => some ⟨0x04, d, a, b, sc⟩
  | .mulhn d a b sc => some ⟨0x05, d, a, b, sc⟩
  | .div d a b sc => some ⟨0x06, d, a, b, sc⟩
  | .divn d a b sc => some ⟨0x07, d, a, b, sc⟩
  | .rem d a b sc => some ⟨0x08, d, a, b, sc⟩
  | .remn d a b sc => some ⟨0x09, d, a, b, sc⟩
  | .and d a b sc => some ⟨0x0a, d, a, b, sc⟩
  | .or d a b sc => some ⟨0x0b, d, a, b, sc⟩
  | .xor d a b sc => some ⟨0x0c, d, a, b, sc⟩
  | .andn d a b sc => some ⟨0x0d, d, a, b, sc⟩
  | .andi d a imm sc => some ⟨0x0e, d, a, imm, sc⟩
  | .ori d a imm sc => some ⟨0x0f, d, a, imm, sc⟩
  | .xori d a imm sc => some ⟨0x10, d, a, imm, sc⟩
  | .shl d a b sc => some ⟨0x11, d, a, b, sc⟩
  | .shr d a b sc => some ⟨0x12, d, a, b, sc⟩
  | .shra d a b sc => some ⟨0x13, d, a, b, sc⟩
  | .shli d a imm sc => some ⟨0x14, d, a, imm, sc⟩
  | .shri d a imm sc => some ⟨0x15, d, a, imm, sc⟩
  | .shrai d a imm sc => some ⟨0x16, d, a, imm, sc⟩
  | .rotr d a b sc => some ⟨0x17, d, a, b, sc⟩
  | .rotri d a imm sc => some ⟨0x18, d, a, imm, sc⟩
  | .clz d a sc => some ⟨0x19, d, a, 0, sc⟩
  | .ctz d a sc => some ⟨0x1a, d, a, 0, sc⟩
  | .popc d a sc => some ⟨0x1b, d, a, 0, sc⟩
  | .min d a b sc => some ⟨0x1c, d, a, b, sc⟩
  | .max d a b sc => some ⟨0x1d, d, a, b, sc⟩
  | .minn d a b sc => some ⟨0x1e, d, a, b, sc⟩
  | .maxn d a b sc => some ⟨0x1f, d, a, b, sc⟩
  | .slt d a b sc => some ⟨0x20, d, a, b, sc⟩
  | .sltn d a b sc => some ⟨0x21, d, a, b, sc⟩
  | .seq d a b sc => some ⟨0x22, d, a, b, sc⟩
  | .slti d a imm sc => some ⟨0x23, d, a, imm, sc⟩
  | .sel d a b sc => some ⟨0x24, d, a, b, sc⟩
  | .sext d a imm sc => some ⟨0x25, d, a, imm, sc⟩
  | .zext d a imm sc => some ⟨0x26, d, a, imm, sc⟩
  | .bfx d a b sc => some ⟨0x27, d, a, b, sc⟩
  | .bfi d a b sc => some ⟨0x28, d, a, b, sc⟩
  | .ldi d imm sc => some ⟨0x29, d, imm.extractLsb' 7 7, imm.extractLsb' 0 7, sc⟩
  | .ldhi d imm sc => some ⟨0x2a, d, imm.extractLsb' 7 7, imm.extractLsb' 0 7, sc⟩
  | .lea d a imm sc => some ⟨0x2b, d, a, imm, sc⟩
  | .mov d a sc => some ⟨0x2c, d, a, 0, sc⟩
  | .beq a off sc => some ⟨0x30, a, off.extractLsb' 7 7, off.extractLsb' 0 7, sc⟩
  | .bne a off sc => some ⟨0x31, a, off.extractLsb' 7 7, off.extractLsb' 0 7, sc⟩
  | .blt a off sc => some ⟨0x32, a, off.extractLsb' 7 7, off.extractLsb' 0 7, sc⟩
  | .bge a off sc => some ⟨0x33, a, off.extractLsb' 7 7, off.extractLsb' 0 7, sc⟩
  | .bltn a off sc => some ⟨0x34, a, off.extractLsb' 7 7, off.extractLsb' 0 7, sc⟩
  | .bgen a off sc => some ⟨0x35, a, off.extractLsb' 7 7, off.extractLsb' 0 7, sc⟩
  | .bz a off sc => some ⟨0x36, a, off.extractLsb' 7 7, off.extractLsb' 0 7, sc⟩
  | .bnz a off sc => some ⟨0x37, a, off.extractLsb' 7 7, off.extractLsb' 0 7, sc⟩
  | .j off sc => some ⟨0x38, off.extractLsb' 14 7, off.extractLsb' 7 7, off.extractLsb' 0 7, sc⟩
  | .jl off sc => some ⟨0x39, off.extractLsb' 14 7, off.extractLsb' 7 7, off.extractLsb' 0 7, sc⟩
  | .jr a sc => some ⟨0x3a, 0, a, 0, sc⟩
  | .jlr d a sc => some ⟨0x3b, d, a, 0, sc⟩
  | .loop a off sc => some ⟨0x3c, a, off.extractLsb' 7 7, off.extractLsb' 0 7, sc⟩
  | .yield sc => some ⟨0x3d, 0, 0, 0, sc⟩
  | .nop sc => some ⟨0x3e, 0, 0, 0, sc⟩
  | .vset d imm sc => some ⟨0x40, d, imm.extractLsb' 7 7, imm.extractLsb' 0 7, sc⟩
  | .vadd d a b sc => some ⟨0x41, d, a, b, sc⟩
  | .vsub d a b sc => some ⟨0x42, d, a, b, sc⟩
  | .vmul d a b sc => some ⟨0x43, d, a, b, sc⟩
  | .vmad d a b sc => some ⟨0x44, d, a, b, sc⟩
  | .vmsb d a b sc => some ⟨0x45, d, a, b, sc⟩
  | .vnmad d a b sc => some ⟨0x46, d, a, b, sc⟩
  | .vmin d a b sc => some ⟨0x47, d, a, b, sc⟩
  | .vmax d a b sc => some ⟨0x48, d, a, b, sc⟩
  | .vabs d a sc => some ⟨0x49, d, a, 0, sc⟩
  | .vneg d a sc => some ⟨0x4a, d, a, 0, sc⟩
  | .vand d a b sc => some ⟨0x4b, d, a, b, sc⟩
  | .vor d a b sc => some ⟨0x4c, d, a, b, sc⟩
  | .vxor d a b sc => some ⟨0x4d, d, a, b, sc⟩
  | .vnot d a sc => some ⟨0x4e, d, a, 0, sc⟩
  | .vshl d a b sc => some ⟨0x4f, d, a, b, sc⟩
  | .vshr d a b sc => some ⟨0x50, d, a, b, sc⟩
  | .vshra d a b sc => some ⟨0x51, d, a, b, sc⟩
  | .vcmpeq kd kg a b sc => some ⟨0x52, 0#1 ++ kd ++ kg, a, b, sc⟩
  | .vcmpne kd kg a b sc => some ⟨0x53, 0#1 ++ kd ++ kg, a, b, sc⟩
  | .vcmplt kd kg a b sc => some ⟨0x54, 0#1 ++ kd ++ kg, a, b, sc⟩
  | .vcmple kd kg a b sc => some ⟨0x55, 0#1 ++ kd ++ kg, a, b, sc⟩
  | .vsel fn a b sc => some ⟨0x56, 0#4 ++ fn, a, b, sc⟩
  | .vcvt d a imm sc => some ⟨0x57, d, a, imm, sc⟩
  | .vcvts d a imm sc => some ⟨0x58, d, a, imm, sc⟩
  | .vclamp d a b sc => some ⟨0x59, d, a, b, sc⟩
  | .vred fn a sc => some ⟨0x5a, 0#4 ++ fn, a, 0, sc⟩
  | .vredmx fn a sc => some ⟨0x5b, 0#4 ++ fn, a, 0, sc⟩
  | .vredmn fn a sc => some ⟨0x5c, 0#4 ++ fn, a, 0, sc⟩
  | .vscan fn a sc => some ⟨0x5d, 0#4 ++ fn, a, 0, sc⟩
  | .vbcast d a b sc => some ⟨0x5e, d, a, b, sc⟩
  | .vext d a b sc => some ⟨0x5f, d, a, b, sc⟩
  | .vins d a b sc => some ⟨0x60, d, a, b, sc⟩
  | .viota fn sc => some ⟨0x61, 0#4 ++ fn, 0, 0, sc⟩
  | .vperm d a b sc => some ⟨0x62, d, a, b, sc⟩
  | .vshuf d a imm sc => some ⟨0x63, d, a, imm, sc⟩
  | .vcmpr fn a sc => some ⟨0x64, 0#4 ++ fn, a, 0, sc⟩
  | .vexpd fn a sc => some ⟨0x65, 0#4 ++ fn, a, 0, sc⟩
  | .vrcp d a sc => some ⟨0x66, d, a, 0, sc⟩
  | .vrsq d a sc => some ⟨0x67, d, a, 0, sc⟩
  | .vsqrt d a sc => some ⟨0x68, d, a, 0, sc⟩
  | .vdiv d a b sc => some ⟨0x69, d, a, b, sc⟩
  | .vexp2 d a sc => some ⟨0x6a, d, a, 0, sc⟩
  | .vlog2 d a sc => some ⟨0x6b, d, a, 0, sc⟩
  | .vsin d a sc => some ⟨0x6c, d, a, 0, sc⟩
  | .vcos d a sc => some ⟨0x6d, d, a, 0, sc⟩
  | .vtanh d a sc => some ⟨0x6e, d, a, 0, sc⟩
  | .kand kd fn sc => some ⟨0x6f, 0#1 ++ kd ++ fn, 0, 0, sc⟩
  | .kor kd fn sc => some ⟨0x70, 0#1 ++ kd ++ fn, 0, 0, sc⟩
  | .kxor kd fn sc => some ⟨0x71, 0#1 ++ kd ++ fn, 0, 0, sc⟩
  | .knot kd fn sc => some ⟨0x72, 0#1 ++ kd ++ fn, 0, 0, sc⟩
  | .kpop fn sc => some ⟨0x73, 0#4 ++ fn, 0, 0, sc⟩
  | .kfirst fn sc => some ⟨0x74, 0#4 ++ fn, 0, 0, sc⟩
  | .kset kd a sc => some ⟨0x75, 0#1 ++ kd ++ 0#3, a, 0, sc⟩
  | .ldb d a imm sc => some ⟨0x80, d, a, imm, sc⟩
  | .ldbn d a imm sc => some ⟨0x81, d, a, imm, sc⟩
  | .ldh d a imm sc => some ⟨0x82, d, a, imm, sc⟩
  | .ldhn d a imm sc => some ⟨0x83, d, a, imm, sc⟩
  | .ldw d a imm sc => some ⟨0x84, d, a, imm, sc⟩
  | .ldwn d a imm sc => some ⟨0x85, d, a, imm, sc⟩
  | .ldd d a imm sc => some ⟨0x86, d, a, imm, sc⟩
  | .stb d a imm sc => some ⟨0x87, d, a, imm, sc⟩
  | .sth d a imm sc => some ⟨0x88, d, a, imm, sc⟩
  | .stw d a imm sc => some ⟨0x89, d, a, imm, sc⟩
  | .std d a imm sc => some ⟨0x8a, d, a, imm, sc⟩
  | .vld d a imm sc => some ⟨0x8b, d, a, imm, sc⟩
  | .vst d a imm sc => some ⟨0x8c, d, a, imm, sc⟩
  | .vlds d a b sc => some ⟨0x8d, d, a, b, sc⟩
  | .vsts d a b sc => some ⟨0x8e, d, a, b, sc⟩
  | .vgth d a b sc => some ⟨0x8f, d, a, b, sc⟩
  | .vsct d a b sc => some ⟨0x90, d, a, b, sc⟩
  | .lda d a imm sc => some ⟨0x91, d, a, imm, sc⟩
  | .stl d a imm sc => some ⟨0x92, d, a, imm, sc⟩
  | .ldp d a imm sc => some ⟨0x93, d, a, imm, sc⟩
  | .stp d a imm sc => some ⟨0x94, d, a, imm, sc⟩
  | .get d a b sc => some ⟨0x95, d, a, b, sc⟩
  | .put d a b sc => some ⟨0x96, d, a, b, sc⟩
  | .sptest d a sc => some ⟨0x97, d, a, 0, sc⟩
  | .spcast d a imm sc => some ⟨0x98, d, a, imm, sc⟩
  | .aadd d a b sc => some ⟨0x99, d, a, b, sc⟩
  | .aand d a b sc => some ⟨0x9a, d, a, b, sc⟩
  | .aor d a b sc => some ⟨0x9b, d, a, b, sc⟩
  | .axor d a b sc => some ⟨0x9c, d, a, b, sc⟩
  | .amin d a b sc => some ⟨0x9d, d, a, b, sc⟩
  | .amax d a b sc => some ⟨0x9e, d, a, b, sc⟩
  | .aminn d a b sc => some ⟨0x9f, d, a, b, sc⟩
  | .amaxn d a b sc => some ⟨0xa0, d, a, b, sc⟩
  | .aswp d a b sc => some ⟨0xa1, d, a, b, sc⟩
  | .acas d a b sc => some ⟨0xa2, d, a, b, sc⟩
  | .fence eng fn sc => some ⟨0xa3, eng ++ fn, 0, 0, sc⟩
  | .barinit a b sc => some ⟨0xa4, 0, a, b, sc⟩
  | .bararr a b sc => some ⟨0xa5, 0, a, b, sc⟩
  | .barexp a b sc => some ⟨0xa6, 0, a, b, sc⟩
  | .bartstObserve a sc => some ⟨0xa7, 0, a, 0, sc⟩
  | .bartstCount a sc => some ⟨0xa7, 1, a, 0, sc⟩
  | .bartstExpect a sc => some ⟨0xa7, 2, a, 0, sc⟩
  | .send d a b sc => some ⟨0xa8, d, a, b, sc⟩
  | .sendv d a b sc => some ⟨0xa9, d, a, b, sc⟩
  | .sendi d a b sc => some ⟨0xaa, d, a, b, sc⟩
  | .amsg d a b sc => some ⟨0xab, d, a, b, sc⟩
  | .split a b sc => some ⟨0xac, 0, a, b, sc⟩
  | .tail sc => some ⟨0xad, 0, 0, 0, sc⟩
  | .spawn a b sc => some ⟨0xae, 0, a, b, sc⟩
  | .launch d a sc => some ⟨0xaf, d, a, 0, sc⟩
  | .prio a imm sc => some ⟨0xb0, 0, a, imm, sc⟩
  | .cpush eng a sc => some ⟨0xb8, eng ++ 0#3, a, 0, sc⟩
  | .ecfg eng fn a sc => some ⟨0xb9, eng ++ fn, a, 0, sc⟩
  | .eopCopy a b sc => some ⟨0xba, 0, a, b, sc⟩
  | .eopSlotFill a b sc => some ⟨0xba, 1, a, b, sc⟩
  | .eopAccumulatingStore a b sc => some ⟨0xba, 2, a, b, sc⟩
  | .eopMatrixTileOperation a b sc => some ⟨0xba, 8, a, b, sc⟩
  | .eopAccumulatorDrain a b sc => some ⟨0xba, 9, a, b, sc⟩
  | .eopCollectiveFold a b sc => some ⟨0xba, 16, a, b, sc⟩
  | .eopNearFieldEvaluate a b sc => some ⟨0xba, 24, a, b, sc⟩
  | .eopConsolidate a b sc => some ⟨0xba, 32, a, b, sc⟩
  | .eopInsertArrangement a b sc => some ⟨0xba, 33, a, b, sc⟩
  | .ringi eng a b sc => some ⟨0xbb, eng ++ 0#3, a, b, sc⟩
  | .ringp a b sc => some ⟨0xbc, 0, a, b, sc⟩
  | .ringc a b sc => some ⟨0xbd, 0, a, b, sc⟩
  | .ringq fn a sc => some ⟨0xbe, 0#4 ++ fn, a, 0, sc⟩
  | .coll fn a b sc => some ⟨0xbf, 2#4 ++ fn, a, b, sc⟩
  | .sclaim a sc => some ⟨0xc8, 8, a, 0, sc⟩
  | .srels a sc => some ⟨0xc9, 8, a, 0, sc⟩
  | .sfill a b sc => some ⟨0xca, 8, a, b, sc⟩
  | .mma tl a b sc => some ⟨0xcb, 4#6 ++ tl, a, b, sc⟩
  | .mmaz tl a b sc => some ⟨0xcc, 4#6 ++ tl, a, b, sc⟩
  | .maccAddAt1ToAt0 sc => some ⟨0xcd, 8, 0, 0, sc⟩
  | .maccAddAt0ToAt1 sc => some ⟨0xcd, 9, 0, 0, sc⟩
  | .maccZeroAt0 sc => some ⟨0xcd, 10, 0, 0, sc⟩
  | .maccZeroAt1 sc => some ⟨0xcd, 11, 0, 0, sc⟩
  | .maccExchange sc => some ⟨0xcd, 12, 0, 0, sc⟩
  | .mstatClaimed sc => some ⟨0xce, 8, 0, 0, sc⟩
  | .mstatInFlight sc => some ⟨0xce, 9, 0, 0, sc⟩
  | .rqt fn a b sc => some ⟨0xcf, 4#6 ++ fn, a, b, sc⟩
  | .mcap a b sc => some ⟨0xd0, 8, a, b, sc⟩
  | .mrem a b sc => some ⟨0xd1, 8, a, b, sc⟩
  | .xclr eng sc => some ⟨0xd8, 3#4 ++ eng, 0, 0, sc⟩
  | .xform eng a b sc => some ⟨0xd9, 3#4 ++ eng, a, b, sc⟩
  | .xshift eng a sc => some ⟨0xda, 3#4 ++ eng, a, 0, sc⟩
  | .xconv eng a b sc => some ⟨0xdb, 3#4 ++ eng, a, b, sc⟩
  | .xlshift eng a sc => some ⟨0xdc, 3#4 ++ eng, a, 0, sc⟩
  | .xeval eng a b sc => some ⟨0xdd, 3#4 ++ eng, a, b, sc⟩
  | .xmeval eng a b sc => some ⟨0xde, 3#4 ++ eng, a, b, sc⟩
  | .xadm a sc => some ⟨0xdf, 24, a, 0, sc⟩
  | .xnear a b sc => some ⟨0xe0, 24, a, b, sc⟩
  | .xdirect a b sc => some ⟨0xe1, 24, a, b, sc⟩
  | .xld eng a sc => some ⟨0xe2, 3#4 ++ eng, a, 0, sc⟩
  | .xst eng a sc => some ⟨0xe3, 3#4 ++ eng, a, 0, sc⟩
  | .demit a b sc => some ⟨0xe8, 32, a, b, sc⟩
  | .dcons fn a b sc => some ⟨0xe9, 4#4 ++ fn, a, b, sc⟩
  | .dins a b sc => some ⟨0xea, 32, a, b, sc⟩
  | .dlook a b sc => some ⟨0xeb, 32, a, b, sc⟩
  | .dfront a sc => some ⟨0xec, 32, a, 0, sc⟩
  | .dcomp a b sc => some ⟨0xed, 32, a, b, sc⟩
  | .crd d number sc => some ⟨0xf0, d, 0#2 ++ number.extractLsb' 7 5, number.extractLsb' 0 7, sc⟩
  | .cwr d number sc => some ⟨0xf1, d, 0#2 ++ number.extractLsb' 7 5, number.extractLsb' 0 7, sc⟩
  | .trap imm sc => some ⟨0xf2, 0, imm.extractLsb' 7 7, imm.extractLsb' 0 7, sc⟩
  | .tret sc => some ⟨0xf3, 0, 0, 0, sc⟩
  | .brk imm sc => some ⟨0xf4, 0, imm.extractLsb' 7 7, imm.extractLsb' 0 7, sc⟩
  | .dictld a sc => some ⟨0xf5, 0, a, 0, sc⟩
  | .dictionaryParcel _ => none
  | .curbWrite _ _ => none
  | .curbstWrite _ _ => none
  | .issuepolWrite _ _ => none
  | .bkconfWrite _ _ => none
  | .controlRegisterWrite _ _ _ _ => none
  | .takeWork _ _ => none
  | .interlockedResult _ _ => none
  | .resultQueueExpiry _ _ _ => none
  | .branchResolve _ _ => none
  | .issueStarvation _ => none
  | .preempt _ _ _ => none
  | .contextResume _ _ _ => none
  | .energyOverrunNotice _ _ => none
  | .debuggerResume _ _ => none
  | .retirementDrain _ _ => none
  | .commitGrant _ => none
  | .orderedFrontierPublish _ => none
  | .markOldestRecord _ => none
  | .messageDelivery _ => none
  | .inboxOverflowRefill _ _ => none
  | .continuationFire _ _ => none
  | .triggerTableTest _ => none
  | .getDelivery _ => none
  | .getCheckResult _ => none
  | .putCompletion _ => none
  | .postedAtomicCompletion _ => none
  | .remoteAcasReply _ => none
  | .copyCommandCopy _ _ => none
  | .copyCommandSlotFill _ _ => none
  | .copyCommandAccumulatingStore _ _ => none
  | .copyCommandFill _ _ => none
  | .engineTakeCommand _ _ => none
  | .engineOperationComplete _ _ => none
  | .ringOperationFiring _ _ => none
  | .traceStreamFiring _ _ => none
  | .collectiveAdd _ _ => none
  | .collectiveMaximum _ _ => none
  | .collectiveMinimum _ _ => none
  | .collectiveBroadcast _ _ => none
  | .accumulatorShadowCopy _ _ => none
  | .sliceAnnounce _ _ => none
  | .collectivePull _ _ => none
  | .collectiveDelivery _ _ _ => none
  | .consolidate _ _ => none
  | .consolidateActiveSet _ _ => none
  | .insertArrangement _ _ => none
  | .matrixQueueExecute _ => none
  | .tileOperationComplete _ => none
  | .curbWindowBoundary _ => none
  | .remoteMma _ => none
  | .remoteMmaz _ => none
  | .remoteMacc _ => none
  | .remoteCommandReply _ => none
  | .expansionInstructionComplete _ => none
  | .deltaIntakeArrival _ => none
  | .pointRelease _ _ _ => none
  | .frontierPublish _ => none
  | .depotFetch _ _ => none
  | .stealRequest _ => none
  | .stealAnswer _ => none
  | .stealRetryWait _ => none
  | .channelAging _ _ => none
  | .regrouping _ => none
  | .launchQueueTake _ => none
  | .admission _ => none
  | .launchResult _ _ => none
  | .launchRetire _ => none
  | .loadObject _ _ => none
  | .unloadObject _ _ => none
  | .hitchMirrorLaunch _ _ _ => none
  | .rowDrowsy _ _ => none
  | .rowGated _ _ => none
  | .rowFill _ _ _ => none
  | .writeBackDrain _ => none
  | .refreshBurst _ _ => none
  | .scrubRead _ _ => none
  | .correctedWriteBack _ => none
  | .uncorrectableError _ => none
  | .bankFailure _ _ => none
  | .externalRequestArrival _ => none
  | .externalRequestPerform _ _ => none
  | .pageTableWalk _ _ _ => none
  | .shootdown _ _ _ => none
  | .serviceRequest _ => none
  | .gather _ _ => none
  | .scatter _ _ => none
  | .accumulatingContribution _ => none
  | .tokenRefill => none
  | .shareTableWrite _ _ => none
  | .sounding => none
  | .packetHop _ => none
  | .lodestarTurn => none
  | .deliveryNotice _ _ => none
  | .linkReplay _ _ _ _ => none
  | .linkFailure _ _ => none
  | .chartUpdate _ _ => none
  | .reinFailure _ => none
  | .fieldSave _ => none
  | .fieldRestore _ _ => none
  | .bringDown _ => none
  | .dieFailed _ => none
  | .partitionSplit _ _ _ => none
  | .stewardWatchdog _ => none
  | .fatalDump => none
  | .powerOn _ _ => none
  | .attestationRequest _ => none
  | .partitionSetup _ => none
  | .reckonerRegisterWrite _ _ => none
  | .reckonerRefill _ => none
  | .thermalThreshold _ _ _ => none
  | .clockSet _ => none
  | .preciousRegionMark _ _ _ => none
  | .holdup => none
  | .reservedEncoding _ => none
  | .fetchFailure _ => none
  | .launchQueueAppend _ _ => none
  | .releaseHoldEnd _ => none
  | .deviceMemoryAccess _ _ _ _ => none
  | .managementMailbox _ _ => none
  | .debuggerClaim _ => none
  | .debuggerRowWrite _ _ _ _ => none
  | .frozenFieldDiscard _ => none
  | .fatalDumpClear => none
  | .stewardMemoryWrite _ _ => none

/-- The word of an instruction word; none for a dictionary parcel and for the events. -/
def encodeWord (i : Instr) : Option (BitVec 32) := (encodeFields i).map Fields.word

/-- The bytes of an instruction in code (R60, R61); the events have none. -/
def encode (i : Instr) : List Byte :=
  match i with
  | .dictionaryParcel k => parcelBytes (0b111111#6 ++ k)
  | i => match encodeWord i with
    | some w => wordBytes w
    | none => []

/-- The instruction the decoder reads from a table row's bits: a 32-bit word, or a 16-bit parcel. A table row numbers
the bits of a word as R62 does, bit 31 on the left, so the word's bytes in code are those of R60. -/
def decodeTableWord (nbits w : Nat) : Option Instr :=
  let bytes := if nbits = 32 then some (wordBytes (BitVec.ofNat 32 w))
    else if nbits = 16 then some (parcelBytes (BitVec.ofNat 16 w)) else none
  match bytes with
  | none => none
  | some bs => match decode bs with
    | .ok (i, []) => some i
    | _ => none

end Sys2Proof
end

