-- ==== Sys2Proof/Config.lean ====
section
/-!
DEFINITION. What the spec leaves open. Every constant here is opaque: nothing can be proved of its value, so a statement holds for every value.
Each is named in the assumption log.
-/
namespace Sys2Proof

/-- Which of the actions the device may take next comes first, where the spec gives no order: applied to the step counter,
taken modulo the number of actions. -/
opaque Config.choose : Nat → Nat

/-- A value the spec says results and does not state, applied to the step counter and an index. -/
opaque Config.freeWord : Nat → Nat → BitVec 64

/-- A row the spec says results and does not state. -/
opaque Config.freeRow : Nat → Nat → BitVec 2048

/-- The modulus and the exponent of the key that a KEYID names (R120). -/
opaque Config.publicKey : BitVec 64 → Nat × Nat

/-- The digests of the firmware image (0) and the kernel image (1) that boot measures (R452, R453). -/
opaque Config.imageDigest : Nat → BitVec 512

/-- The package's serial number (R453). -/
opaque Config.serial : BitVec 64

/-- The signature of an attestation report (R453). -/
opaque Config.attest : List (BitVec 8) → List (BitVec 8)

/-- A random capability key (R123), drawn by the command processor for one placement. -/
opaque Config.randomKey : Nat → BitVec 64

/-- PCHK of a route word (R397): a SECDED code over PART, whose check matrix the spec does not give. -/
opaque Config.secdedPart : BitVec 6 → BitVec 5

/-- The cycles that a row's write to an image in external memory takes, which other traffic decides (R281, R282), applied to the step counter. -/
opaque Config.rowWriteTime : Nat → Nat

/-- Bytes of a pending-write block whose layout the spec leaves open (R438): the form of the entry and the byte's index. -/
opaque Config.blockByte : Nat → Nat → BitVec 8

/-- The energy in microjoules that a step's work on a die costs (R456 gives the account, not the figure), applied to the step counter. -/
opaque Config.energyUsed : Nat → Nat → Nat

end Sys2Proof
end

