-- ==== Sys2Proof/Machine/Event.lean ====
section
/-!
DEFINITION. The steps of the device that no berth issues (the rows of the operations table without an encoding), as data: what the state
holds of those that come next. Each has the name and the arguments of its constructor of `Instr`, and `exec` gives it its meaning.
-/
namespace Sys2Proof.Machine

/-- A step that the state schedules, or that comes from outside. -/
inductive Event where
  /-- CURB_WRITE (R29). -/
  | curbWrite (tile : Nat) (value : BitVec 64)
  /-- CURBST_WRITE (R29). -/
  | curbstWrite (tile : Nat) (value : BitVec 64)
  /-- ISSUEPOL_WRITE (R363). -/
  | issuepolWrite (tile : Nat) (value : BitVec 64)
  /-- BKCONF_WRITE (R339). -/
  | bkconfWrite (core : Nat) (value : BitVec 64)
  /-- CONTROL_REGISTER_WRITE (R23). -/
  | controlRegisterWrite (tile berth : Nat) (number : BitVec 12) (value : BitVec 64)
  /-- TAKE_WORK (R351). -/
  | takeWork (tile berth : Nat)
  /-- INTERLOCKED_RESULT (R66). -/
  | interlockedResult (tile berth : Nat)
  /-- RESULT_QUEUE_EXPIRY (R12). -/
  | resultQueueExpiry (tile berth position : Nat)
  /-- BRANCH_RESOLVE (R77). -/
  | branchResolve (tile berth : Nat)
  /-- ISSUE_STARVATION (R363). -/
  | issueStarvation (tile : Nat)
  /-- PREEMPT (R438). -/
  | preempt (tile berth requester : Nat)
  /-- CONTEXT_RESUME (R439). -/
  | contextResume (tile berth index : Nat)
  /-- ENERGY_OVERRUN_NOTICE (R433). -/
  | energyOverrunNotice (tile overrun : Nat)
  /-- DEBUGGER_RESUME (R227). -/
  | debuggerResume (tile berth : Nat)
  /-- RETIREMENT_DRAIN (R209). -/
  | retirementDrain (tile index : Nat)
  /-- COMMIT_GRANT (R297). -/
  | commitGrant (launch : Nat)
  /-- ORDERED_FRONTIER_PUBLISH (R357). -/
  | orderedFrontierPublish (launch : Nat)
  /-- MARK_OLDEST_RECORD (R358). -/
  | markOldestRecord (launch : Nat)
  /-- MESSAGE_DELIVERY (R207). -/
  | messageDelivery (flight : Nat)
  /-- INBOX_OVERFLOW_REFILL (R353). -/
  | inboxOverflowRefill (tile channel : Nat)
  /-- CONTINUATION_FIRE (R211). -/
  | continuationFire (tile index : Nat)
  /-- TRIGGER_TABLE_TEST (R211). -/
  | triggerTableTest (tile : Nat)
  /-- GET_DELIVERY (R185). -/
  | getDelivery (flight : Nat)
  /-- GET_CHECK_RESULT (R188). -/
  | getCheckResult (flight : Nat)
  /-- PUT_COMPLETION (R186). -/
  | putCompletion (flight : Nat)
  /-- POSTED_ATOMIC_COMPLETION (R191). -/
  | postedAtomicCompletion (flight : Nat)
  /-- REMOTE_ACAS_REPLY (R193). -/
  | remoteAcasReply (flight : Nat)
  /-- COPY_COMMAND_COPY (R218). -/
  | copyCommandCopy (tile op : Nat)
  /-- COPY_COMMAND_SLOT_FILL (R218). -/
  | copyCommandSlotFill (tile op : Nat)
  /-- COPY_COMMAND_ACCUMULATING_STORE (R218). -/
  | copyCommandAccumulatingStore (tile op : Nat)
  /-- COPY_COMMAND_FILL (R218). -/
  | copyCommandFill (tile op : Nat)
  /-- ENGINE_TAKE_COMMAND (R216). -/
  | engineTakeCommand (tile engine : Nat)
  /-- ENGINE_OPERATION_COMPLETE (R216). -/
  | engineOperationComplete (tile op : Nat)
  /-- RING_OPERATION_FIRING (R225). -/
  | ringOperationFiring (tile op : Nat)
  /-- TRACE_STREAM_FIRING (R369). -/
  | traceStreamFiring (tile op : Nat)
  /-- COLLECTIVE_ADD (R376). -/
  | collectiveAdd (tile op : Nat)
  /-- COLLECTIVE_MAXIMUM (R376). -/
  | collectiveMaximum (tile op : Nat)
  /-- COLLECTIVE_MINIMUM (R376). -/
  | collectiveMinimum (tile op : Nat)
  /-- COLLECTIVE_BROADCAST (R377). -/
  | collectiveBroadcast (tile op : Nat)
  /-- ACCUMULATOR_SHADOW_COPY (R375). -/
  | accumulatorShadowCopy (tile op : Nat)
  /-- SLICE_ANNOUNCE (R375). -/
  | sliceAnnounce (tile op : Nat)
  /-- COLLECTIVE_PULL (R376). -/
  | collectivePull (root round : Nat)
  /-- COLLECTIVE_DELIVERY (R376). -/
  | collectiveDelivery (root round receiver : Nat)
  /-- CONSOLIDATE (R221). -/
  | consolidate (tile op : Nat)
  /-- CONSOLIDATE_ACTIVE_SET (R221). -/
  | consolidateActiveSet (tile op : Nat)
  /-- INSERT_ARRANGEMENT (R221). -/
  | insertArrangement (tile op : Nat)
  /-- MATRIX_QUEUE_EXECUTE (R242). -/
  | matrixQueueExecute (tile : Nat)
  /-- TILE_OPERATION_COMPLETE (R242). -/
  | tileOperationComplete (tile : Nat)
  /-- CURB_WINDOW_BOUNDARY (R372). -/
  | curbWindowBoundary (tile : Nat)
  /-- REMOTE_MMA (R248). -/
  | remoteMma (flight : Nat)
  /-- REMOTE_MMAZ (R248). -/
  | remoteMmaz (flight : Nat)
  /-- REMOTE_MACC (R248). -/
  | remoteMacc (flight : Nat)
  /-- REMOTE_COMMAND_REPLY (R249). -/
  | remoteCommandReply (flight : Nat)
  /-- EXPANSION_INSTRUCTION_COMPLETE (R263). -/
  | expansionInstructionComplete (tile : Nat)
  /-- DELTA_INTAKE_ARRIVAL (R388). -/
  | deltaIntakeArrival (flight : Nat)
  /-- POINT_RELEASE (R389). -/
  | pointRelease (tile : Nat) (time : BitVec 64) (stage : Nat)
  /-- FRONTIER_PUBLISH (R387). -/
  | frontierPublish (launch : Nat)
  /-- DEPOT_FETCH (R354). -/
  | depotFetch (tile berth : Nat)
  /-- STEAL_REQUEST (R355). -/
  | stealRequest (thief : Nat)
  /-- STEAL_ANSWER (R355). -/
  | stealAnswer (thief : Nat)
  /-- STEAL_RETRY_WAIT (R355). -/
  | stealRetryWait (thief : Nat)
  /-- CHANNEL_AGING (R352). -/
  | channelAging (tile channel : Nat)
  /-- REGROUPING (R356). -/
  | regrouping (launch : Nat)
  /-- LAUNCH_QUEUE_TAKE (R348). -/
  | launchQueueTake (part : Nat)
  /-- ADMISSION (R457). -/
  | admission (part : Nat)
  /-- LAUNCH_RESULT (R213). -/
  | launchResult (part index : Nat)
  /-- LAUNCH_RETIRE (R350). -/
  | launchRetire (launch : Nat)
  /-- LOAD_OBJECT (R121). -/
  | loadObject (part : Nat) (object : List (BitVec 8))
  /-- UNLOAD_OBJECT (R121). -/
  | unloadObject (part index : Nat)
  /-- HITCH_MIRROR_LAUNCH (R427). -/
  | hitchMirrorLaunch (part : Nat) (record : BitVec 64) (peers : List Nat)
  /-- ROW_DROWSY (R280). -/
  | rowDrowsy (tile entry : Nat)
  /-- ROW_GATED (R280). -/
  | rowGated (tile entry : Nat)
  /-- ROW_FILL (R282). -/
  | rowFill (tile berth row : Nat)
  /-- WRITE_BACK_DRAIN (R281). -/
  | writeBackDrain (tile : Nat)
  /-- REFRESH_BURST (R283). -/
  | refreshBurst (tile bank : Nat)
  /-- SCRUB_READ (R286). -/
  | scrubRead (address : Nat) (error : Nat)
  /-- CORRECTED_WRITE_BACK (R287). -/
  | correctedWriteBack (address : Nat)
  /-- UNCORRECTABLE_ERROR (R288). -/
  | uncorrectableError (address : Nat)
  /-- BANK_FAILURE (R289). -/
  | bankFailure (tile bank : Nat)
  /-- EXTERNAL_REQUEST_ARRIVAL (R328). -/
  | externalRequestArrival (request : Nat)
  /-- EXTERNAL_REQUEST_PERFORM (R329). -/
  | externalRequestPerform (core channel : Nat)
  /-- PAGE_TABLE_WALK (R330). -/
  | pageTableWalk (core part : Nat) (address : BitVec 48)
  /-- SHOOTDOWN (R334). -/
  | shootdown (part : Nat) (address : BitVec 48) (length : Nat)
  /-- SERVICE_REQUEST (R335). -/
  | serviceRequest (request : Nat)
  /-- GATHER (R338). -/
  | gather (core op : Nat)
  /-- SCATTER (R338). -/
  | scatter (core op : Nat)
  /-- ACCUMULATING_CONTRIBUTION (R341). -/
  | accumulatingContribution (request : Nat)
  /-- TOKEN_REFILL (R345). -/
  | tokenRefill
  /-- SHARE_TABLE_WRITE (R344). -/
  | shareTableWrite (part : Nat) (value : BitVec 8)
  /-- SOUNDING (R401). -/
  | sounding
  /-- PACKET_HOP (R402). -/
  | packetHop (packet : Nat)
  /-- LODESTAR_TURN (R404). -/
  | lodestarTurn
  /-- DELIVERY_NOTICE (R404). -/
  | deliveryNotice (tile tag : Nat)
  /-- LINK_REPLAY (R408): the words of the flit that the replay leaves uncorrectable, 8 being its side-band word, and whether PART decodes (R410). -/
  | linkReplay (packet flit : Nat) (struck : List Nat) (partLost : Bool)
  /-- LINK_FAILURE (R411). -/
  | linkFailure (tile port : Nat)
  /-- CHART_UPDATE (R412). -/
  | chartUpdate (index : Nat) (entry : BitVec 64)
  /-- REIN_FAILURE (R429). -/
  | reinFailure (rein : Nat)
  /-- FIELD_SAVE (R441). -/
  | fieldSave (launch : Nat)
  /-- FIELD_RESTORE (R443). -/
  | fieldRestore (part index : Nat)
  /-- BRING_DOWN (R446). -/
  | bringDown (part : Nat)
  /-- DIE_FAILED (R446). -/
  | dieFailed (die : Nat)
  /-- PARTITION_SPLIT (R447). -/
  | partitionSplit (part : Nat) (groups : List (List Nat)) (reaches : List Bool)
  /-- STEWARD_WATCHDOG (R448). -/
  | stewardWatchdog (kernelOk : Bool)
  /-- FATAL_DUMP (R450). -/
  | fatalDump
  /-- POWER_ON (R452). -/
  | powerOn (fuses : List (List Nat)) (failure : Nat)
  /-- ATTESTATION_REQUEST (R453). -/
  | attestationRequest (nonce : BitVec 512)
  /-- PARTITION_SETUP (R454). -/
  | partitionSetup (entry : BitVec 2048)
  /-- RECKONER_REGISTER_WRITE (R455). -/
  | reckonerRegisterWrite (register : Nat) (value : BitVec 64)
  /-- RECKONER_REFILL (R456). -/
  | reckonerRefill (used : List (Nat × Nat))
  /-- THERMAL_THRESHOLD (R460). -/
  | thermalThreshold (die sensor reading : Nat)
  /-- CLOCK_SET (R459). -/
  | clockSet (megahertz : Nat)
  /-- PRECIOUS_REGION_MARK (R461). -/
  | preciousRegionMark (part : Nat) (base : BitVec 48) (length : Nat)
  /-- HOLDUP (R462). -/
  | holdup
  /-- RESERVED_ENCODING (R79). -/
  | reservedEncoding (word : BitVec 32)
  /-- FETCH_FAILURE (R143). -/
  | fetchFailure (address : BitVec 48)
  /-- LAUNCH_QUEUE_APPEND (R348). -/
  | launchQueueAppend (part : Nat) (record : BitVec 64)
  /-- RELEASE_HOLD_END (R309). -/
  | releaseHoldEnd (tile : Nat)
  /-- DEVICE_MEMORY_ACCESS (R463). -/
  | deviceMemoryAccess (part : Nat) (address : BitVec 48) (store : Bool) (data : List (BitVec 8))
  /-- MANAGEMENT_MAILBOX (R459). -/
  | managementMailbox (offset : Nat) (value : BitVec 64)
  /-- DEBUGGER_CLAIM (R227). -/
  | debuggerClaim (launch : Nat)
  /-- DEBUGGER_ROW_WRITE (R284). -/
  | debuggerRowWrite (tile berth row : Nat) (data : BitVec 2048)
  /-- FROZEN_FIELD_DISCARD (R446). -/
  | frozenFieldDiscard (part : Nat)
  /-- FATAL_DUMP_CLEAR (R450). -/
  | fatalDumpClear
  /-- STEWARD_MEMORY_WRITE (R304). -/
  | stewardMemoryWrite (address : Nat) (data : List (BitVec 8))
  deriving DecidableEq, Repr

end Sys2Proof.Machine
end

