-- ==== Sys2Proof/Machine/Float.lean ====
section
/-!
DEFINITION. Exact arithmetic and the one rounding after it (R43, R44, R52). A finite floating value is an exact dyadic number
m * 2^e; every operation computes exactly and rounds once under a rounding mode, so no result depends on an intermediate format.
-/
namespace Sys2Proof.Machine

/-- VTYPE.RND (R25). -/
inductive Rnd where
  | rne | rtz | rup | rdn
  deriving DecidableEq, Repr

/-- The mode of a code (R25). -/
def Rnd.ofCode : Nat → Rnd
  | 0 => .rne | 1 => .rtz | 2 => .rup | _ => .rdn

/-- An exact value m * 2^e. -/
structure Dy where
  m : Int
  e : Int
  deriving DecidableEq, Repr

/-- 2^k of a possibly negative k, zero below 0. -/
def pow2 (k : Int) : Nat := 2 ^ k.toNat

/-- The integer m of the value at the exponent e, which is at most the value's own exponent. -/
def Dy.at (x : Dy) (e : Int) : Int := x.m * (pow2 (x.e - e) : Int)

def Dy.add (x y : Dy) : Dy := let e := min x.e y.e; ⟨x.at e + y.at e, e⟩
def Dy.neg (x : Dy) : Dy := ⟨-x.m, x.e⟩
def Dy.sub (x y : Dy) : Dy := x.add y.neg
def Dy.mul (x y : Dy) : Dy := ⟨x.m * y.m, x.e + y.e⟩
def Dy.scale (x : Dy) (k : Int) : Dy := ⟨x.m, x.e + k⟩
def Dy.ofInt (i : Int) : Dy := ⟨i, 0⟩
def Dy.abs (x : Dy) : Dy := ⟨x.m.natAbs, x.e⟩
/-- The sign of x - y. -/
def Dy.cmp (x y : Dy) : Int := (x.sub y).m.sign
def Dy.lt (x y : Dy) : Bool := x.cmp y == -1
def Dy.le (x y : Dy) : Bool := x.cmp y != 1

/-- A value of any of the formats, exactly. -/
inductive FVal where
  /-- NaN, or NaR of a tapered format. -/
  | nan
  | inf (neg : Bool)
  | zero (neg : Bool)
  /-- A finite value other than zero. -/
  | fin (v : Dy)
  deriving DecidableEq, Repr

/-- The parameters of an IEEE format (R43): exponent bits, fraction bits. -/
structure Fmt where
  ebits : Nat
  fbits : Nat
  deriving DecidableEq, Repr

def fmtF32 : Fmt := ⟨8, 23⟩
def fmtF16 : Fmt := ⟨5, 10⟩
def fmtB16 : Fmt := ⟨8, 7⟩

def Fmt.bias (f : Fmt) : Nat := 2 ^ (f.ebits - 1) - 1
/-- The bits of +infinity. -/
def Fmt.infBits (f : Fmt) : Nat := (2 ^ f.ebits - 1) * 2 ^ f.fbits
/-- The sign bit's weight. -/
def Fmt.signBit (f : Fmt) : Nat := 2 ^ (f.ebits + f.fbits)
/-- The canonical NaN (R43). -/
def Fmt.nan (f : Fmt) : Nat := f.infBits + 2 ^ (f.fbits - 1)
/-- The exponent of the least subnormal's unit. -/
def Fmt.qmin (f : Fmt) : Int := 1 - (f.bias : Int) - f.fbits

/-- Bits of a sign and a magnitude. -/
def Fmt.signed (f : Fmt) (neg : Bool) (mag : Nat) : Nat := if neg then f.signBit + mag else mag

/-- The value of a bit pattern (R43). -/
def Fmt.decode (f : Fmt) (bits : Nat) : FVal :=
  let neg := bits / f.signBit % 2 == 1
  let mag := bits % f.signBit
  let ex := mag / 2 ^ f.fbits
  let fr := mag % 2 ^ f.fbits
  if ex == 2 ^ f.ebits - 1 then (if fr == 0 then .inf neg else .nan)
  else if mag == 0 then .zero neg
  else
    let m : Int := if ex == 0 then fr else 2 ^ f.fbits + fr
    .fin ⟨if neg then -m else m, if ex == 0 then f.qmin else f.qmin + (ex - 1)⟩

/-- Whether a magnitude whose kept part is `sig`, whose cut part is `rem` of `2^k`, rounds away from zero (R44). -/
def roundsUp (r : Rnd) (neg : Bool) (sig rem unit : Nat) : Bool :=
  match r with
  | .rne => decide (unit < 2 * rem) || (2 * rem == unit && sig % 2 == 1)
  | .rtz => false
  | .rup => !neg && rem != 0
  | .rdn => neg && rem != 0

/-- The bits of the rounding of the magnitude m * 2^e (m not zero), with its sign (R44). -/
def Fmt.roundMag (f : Fmt) (r : Rnd) (neg : Bool) (m : Nat) (e : Int) : Nat :=
  let top : Int := e + (Nat.log2 m : Int)
  let q : Int := max (top - f.fbits) f.qmin
  let sig0 := if q ≤ e then m * pow2 (e - q) else m / pow2 (q - e)
  let unit := if q ≤ e then 1 else pow2 (q - e)
  let rem := if q ≤ e then 0 else m % unit
  let sig := if roundsUp r neg sig0 rem unit then sig0 + 1 else sig0
  let bits := (q - f.qmin).toNat * 2 ^ f.fbits + sig
  if bits < f.infBits then f.signed neg bits
  else match r with
    | .rne => f.signed neg f.infBits
    | .rtz => f.signed neg (f.infBits - 1)
    | .rup => f.signed neg (if neg then f.infBits - 1 else f.infBits)
    | .rdn => f.signed neg (if neg then f.infBits else f.infBits - 1)

/-- The bits of a value, rounded once (R44). -/
def Fmt.encode (f : Fmt) (r : Rnd) : FVal → Nat
  | .nan => f.nan
  | .inf n => f.signed n f.infBits
  | .zero n => f.signed n 0
  | .fin v => if v.m == 0 then 0 else f.roundMag r (decide (v.m < 0)) v.m.natAbs v.e

def FVal.isNeg : FVal → Bool
  | .nan => false | .inf n => n | .zero n => n | .fin v => decide (v.m < 0)

def FVal.negate : FVal → FVal
  | .nan => .nan | .inf n => .inf !n | .zero n => .zero !n | .fin v => .fin v.neg

def FVal.absolute : FVal → FVal
  | .nan => .nan | .inf _ => .inf false | .zero _ => .zero false | .fin v => .fin v.abs

/-- The exact value of a finite operand. -/
def FVal.dy : FVal → Dy
  | .fin v => v
  | _ => ⟨0, 0⟩

/-- An exact result that may be zero, with the sign R44 gives a zero sum. -/
def ofExact (zeroNeg : Bool) (v : Dy) : FVal := if v.m == 0 then .zero zeroNeg else .fin v

/-- The sign of an exact zero sum: that of R44's last item. -/
def zeroSumNeg (r : Rnd) (a b : FVal) : Bool :=
  match a, b with
  | .zero true, .zero true => true
  | _, _ => r == .rdn

/-- The exact sum (R44). -/
def FVal.add (r : Rnd) (a b : FVal) : FVal :=
  match a, b with
  | .nan, _ => .nan
  | _, .nan => .nan
  | .inf x, .inf y => if x == y then .inf x else .nan
  | .inf x, _ => .inf x
  | _, .inf y => .inf y
  | a, b => ofExact (zeroSumNeg r a b) (a.dy.add b.dy)

def FVal.sub (r : Rnd) (a b : FVal) : FVal := a.add r b.negate

/-- The exact product (R44). -/
def FVal.mul (a b : FVal) : FVal :=
  match a, b with
  | .nan, _ => .nan
  | _, .nan => .nan
  | .inf x, .zero _ => let _ := x; .nan
  | .zero _, .inf _ => .nan
  | .inf x, b => .inf (x != b.isNeg)
  | a, .inf y => .inf (a.isNeg != y)
  | .zero x, b => .zero (x != b.isNeg)
  | a, .zero y => .zero (a.isNeg != y)
  | .fin v, .fin w => .fin (v.mul w)

/-- a * b + c, exact; the caller rounds once (R44). -/
def FVal.fma (r : Rnd) (a b c : FVal) : FVal := (a.mul b).add r c

/-- The quotient of magnitudes as an exact or a marked-inexact dyadic: `k` quotient bits and a sticky bit. -/
def quotDy (n d : Nat) (e : Int) (k : Nat) : Dy :=
  let q := n * 2 ^ k / d
  let s := if n * 2 ^ k % d == 0 then 0 else 1
  ⟨2 * q + s, e - k - 1⟩

/-- The number of quotient bits kept before the sticky bit: enough for every format, whatever the operands' lengths. -/
def quotBits (n d : Nat) : Nat := 64 + (Nat.log2 d - Nat.log2 n)

/-- a / b, correctly marked for one rounding (R44, R171). -/
def FVal.div (a b : FVal) : FVal :=
  let neg := a.isNeg != b.isNeg
  match a, b with
  | .nan, _ => .nan
  | _, .nan => .nan
  | .inf _, .inf _ => .nan
  | .zero _, .zero _ => .nan
  | .inf _, _ => .inf neg
  | _, .inf _ => .zero neg
  | .zero _, _ => .zero neg
  | _, .zero _ => .inf neg
  | .fin v, .fin w =>
    let q := quotDy v.m.natAbs w.m.natAbs (v.e - w.e) (quotBits v.m.natAbs w.m.natAbs)
    .fin (if neg then q.neg else q)

/-- The integer square root by digits: the largest root with `root^2 <= n`, found from bit `k` down. -/
def isqrtBits (n : Nat) : Nat → Nat → Nat
  | 0, root => root
  | k + 1, root =>
    let cand := root + 2 ^ k
    isqrtBits n k (if cand * cand ≤ n then cand else root)

def isqrt (n : Nat) : Nat := isqrtBits n (Nat.log2 n / 2 + 1) 0

/-- The root of a positive dyadic, marked for one rounding. -/
def sqrtDy (v : Dy) : Dy :=
  let e0 := v.e - 128
  let odd := e0 % 2
  let n := v.m.natAbs * 2 ^ (128 + odd.toNat)
  let e1 := e0 - odd
  let s := isqrt n
  ⟨2 * s + (if s * s == n then 0 else 1), e1 / 2 - 1⟩

/-- R170: the square root. -/
def FVal.sqrt : FVal → FVal
  | .nan => .nan
  | .inf true => .nan
  | .inf false => .inf false
  | .zero n => .zero n
  | .fin v => if v.m < 0 then .nan else .fin (sqrtDy v)

/-- R170: the reciprocal. -/
def FVal.rcp (a : FVal) : FVal := FVal.div (.fin ⟨1, 0⟩) a

/-- R170: 1 / sqrt a, from the exact quotient 1 / a under the root. -/
def FVal.rsqrt : FVal → FVal
  | .nan => .nan
  | .inf true => .nan
  | .inf false => .zero false
  | .zero n => .inf n
  | .fin v =>
    if v.m < 0 then .nan
    else
      -- 1/sqrt(m 2^e): with e even after a shift, floor(2^k / sqrt m) with a sticky bit
      let odd := v.e % 2
      let m := v.m.natAbs * 2 ^ odd.toNat
      let e := (v.e - odd) / 2
      let k := 96 + Nat.log2 m
      let r := isqrt (2 ^ (2 * k) / m)
      .fin ⟨2 * r + (if r * r * m == 2 ^ (2 * k) then 0 else 1), -e - k - 1⟩

/-- IEEE comparison (R44): none when unordered. -/
def FVal.cmp (a b : FVal) : Option Int :=
  match a, b with
  | .nan, _ => none
  | _, .nan => none
  | .inf x, .inf y => some (if x == y then 0 else if x then -1 else 1)
  | .inf x, _ => some (if x then -1 else 1)
  | _, .inf y => some (if y then 1 else -1)
  | a, b => some (a.dy.cmp b.dy)

/-- The order of minimum and maximum, in which -0 is below +0 (R44); the operands are no NaN. -/
def FVal.below (a b : FVal) : Bool :=
  match a, b with
  | .zero x, .zero y => x && !y
  | a, b => a.cmp b == some (-1)

/-- IEEE minimum (R44). -/
def FVal.min (a b : FVal) : FVal :=
  match a, b with
  | .nan, _ => .nan
  | _, .nan => .nan
  | a, b => if b.below a then b else a

/-- IEEE maximum (R44). -/
def FVal.max (a b : FVal) : FVal :=
  match a, b with
  | .nan, _ => .nan
  | _, .nan => .nan
  | a, b => if a.below b then b else a

/-- A dyadic rounded to an integer (R52). -/
def Dy.toInt (r : Rnd) (v : Dy) : Int :=
  if 0 ≤ v.e then v.m * (pow2 v.e : Int)
  else
    let unit := pow2 (-v.e)
    let mag := v.m.natAbs
    let neg := decide (v.m < 0)
    let q := mag / unit
    let q := if roundsUp r neg q (mag % unit) unit then q + 1 else q
    if neg then -(q : Int) else q

end Sys2Proof.Machine
end

