-- ==== Sys2Proof/Machine/Formats.lean ====
section
/-!
DEFINITION. Number formats (R41 to R52): element types, rows as lists of elements, the tapered formats t8 and t6, the E8 block scales
and the conversions between formats.
-/
namespace Sys2Proof.Machine

/-- VTYPE.ETYPE (R25). -/
inductive EType where
  | s8 | n8 | s16 | n16 | s32 | n32 | f16 | b16 | f32
  deriving DecidableEq, Repr

/-- The element type of a code; reserved codes are refused where a code is written (R23, R84). -/
def EType.ofCode : Nat → EType
  | 0 => .s8 | 1 => .n8 | 2 => .s16 | 3 => .n16 | 4 => .s32 | 5 => .n32 | 6 => .f16 | 7 => .b16 | _ => .f32

/-- Element width in bits. -/
def EType.width : EType → Nat
  | .s8 | .n8 => 8
  | .s16 | .n16 | .f16 | .b16 => 16
  | .s32 | .n32 | .f32 => 32

/-- The floating format of a floating type. -/
def EType.fmt? : EType → Option Fmt
  | .f16 => some fmtF16 | .b16 => some fmtB16 | .f32 => some fmtF32
  | _ => none

def EType.signed : EType → Bool
  | .s8 | .s16 | .s32 => true
  | _ => false

/-- Elements of a row: 256, 128 or 64 (R25). -/
def EType.count (t : EType) : Nat := 2048 / t.width

/-! ## Rows as elements (R41) -/

/-- The `n` lowest elements of width `w`. -/
def unpack (w : Nat) : Nat → Nat → List Nat
  | 0, _ => []
  | n + 1, x => x % 2 ^ w :: unpack w n (x / 2 ^ w)

/-- The integer whose elements of width `w` are the list's. -/
def pack (w : Nat) : List Nat → Nat
  | [] => 0
  | x :: xs => x % 2 ^ w + 2 ^ w * pack w xs

def rowElems (w : Nat) (r : Row) : List Nat := unpack w (2048 / w) r.toNat
def rowOfElems (w : Nat) (xs : List Nat) : Row := BitVec.ofNat 2048 (pack w xs)

/-- The bytes of a row, byte 0 first (R41). -/
def rowBytes (r : Row) : List Byte := (unpack 8 256 r.toNat).map (BitVec.ofNat 8)
def rowOfBytes (bs : List Byte) : Row := BitVec.ofNat 2048 (pack 8 (bs.map BitVec.toNat))

/-- A little-endian integer of bytes (R41). -/
def leNat (bs : List Byte) : Nat := pack 8 (bs.map BitVec.toNat)
/-- The `n` little-endian bytes of an integer (R41). -/
def leBytes (n x : Nat) : List Byte := (unpack 8 n x).map (BitVec.ofNat 8)

/-! ## Integers (R42) -/

/-- The integer of `w` bits, signed or natural. -/
def toInt (signed : Bool) (w x : Nat) : Int :=
  if signed && decide (2 ^ (w - 1) ≤ x % 2 ^ w) then (x % 2 ^ w : Int) - 2 ^ w else (x % 2 ^ w : Nat)

/-- The `w` bits of an integer, modulo 2^w. -/
def wrap (w : Nat) (i : Int) : Nat := (i % (2 ^ w : Nat)).toNat

/-- Saturation to the range of `w` bits (R52). -/
def saturate (signed : Bool) (w : Nat) (i : Int) : Nat :=
  let lo : Int := if signed then -(2 ^ (w - 1) : Nat) else 0
  let hi : Int := if signed then (2 ^ (w - 1) : Nat) - 1 else (2 ^ w : Nat) - 1
  wrap w (if i < lo then lo else if hi < i then hi else i)

/-! ## Tapered formats (R45 to R48) -/

/-- t8 or t6. -/
inductive Taper where
  | t8 | t6
  deriving DecidableEq, Repr

/-- Width of the magnitude code. -/
def Taper.mbits : Taper → Nat
  | .t8 => 7 | .t6 => 5
/-- Exponent bits after the regime: one in t8, none in t6. -/
def Taper.ebits : Taper → Nat
  | .t8 => 1 | .t6 => 0

/-- The length of the run of the bit `b` from bit position `k` (exclusive) down (R45). -/
def runLength (code : Nat) (b : Bool) : Nat → Nat
  | 0 => 0
  | k + 1 => if code.testBit k == b then 1 + runLength code b k else 0

/-- The value of a magnitude code that is not zero (R45, R46). -/
def Taper.value (t : Taper) (code : Nat) : Dy :=
  let n := t.mbits
  let b := code.testBit (n - 1)
  let k := runLength code b n
  let r : Int := if b then (k : Int) - 1 else -(k : Int)
  let left := n - (k + 1)
  let eb := min t.ebits left
  let nf := left - eb
  let e : Nat := if t.ebits = 1 ∧ eb = 1 then code / 2 ^ nf % 2 else 0
  let f := code % 2 ^ nf
  ⟨(2 ^ nf + f : Nat), (if t.ebits = 1 then 2 * r else r) + e - nf⟩

/-- The exact value of a magnitude code, zero included. -/
def Taper.mag (t : Taper) (code : Nat) : Dy := if code == 0 then ⟨0, 0⟩ else t.value code

/-- The value of an element (R45, R46); bits above the element are ignored (R47). -/
def Taper.decode (t : Taper) (x : Nat) : FVal :=
  let code := x % 2 ^ t.mbits
  let neg := x.testBit t.mbits
  if code == 0 then (if neg then .nan else .zero false)
  else .fin (if neg then (t.value code).neg else t.value code)

/-- The largest magnitude code whose value is at most `v`, found from bit `k` down (codes order as values do, R45). -/
def Taper.floorCode (t : Taper) (v : Dy) : Nat → Nat → Nat
  | 0, acc => acc
  | k + 1, acc => t.floorCode v k (if (t.mag (acc + 2 ^ k)).le v then acc + 2 ^ k else acc)

/-- The magnitude code nearest to a magnitude, a tie going to the even code, saturated (R48). -/
def Taper.nearest (t : Taper) (v : Dy) : Nat :=
  let c := t.floorCode v t.mbits 0
  if c + 1 == 2 ^ t.mbits then c
  else
    match ((t.mag c).add (t.mag (c + 1))).cmp (v.scale 1) with
    | .negSucc _ => c + 1
    | .ofNat 0 => if c % 2 == 0 then c else c + 1
    | .ofNat _ => c

/-- The code of a value (R48). -/
def Taper.encode (t : Taper) : FVal → Nat
  | .nan => 2 ^ t.mbits
  | .zero _ => 0
  | .inf n => (if n then 2 ^ t.mbits else 0) + (2 ^ t.mbits - 1)
  | .fin v =>
    let c := t.nearest v.abs
    if c == 0 then 0 else (if v.m < 0 then 2 ^ t.mbits else 0) + c

/-! ## E8 block scales (R49 to R51) -/

/-- The exponent of an E8 scale; none for the NaN scale. -/
def e8Value (e : Nat) : Option Int := if e == 255 then none else some ((e : Int) - 127)

/-- The largest magnitude among the finite values (R51); zero when there is none. -/
def largestMag : List FVal → Dy
  | [] => ⟨0, 0⟩
  | v :: vs => let m := largestMag vs; if m.lt v.dy.abs then v.dy.abs else m

/-- The E8 scale the maximum-exponent rule gives a block (R51). -/
def blockScale (vs : List FVal) : Nat :=
  let m := largestMag vs
  if m.m == 0 then 127
  else
    let e : Int := m.e + (Nat.log2 m.m.natAbs : Int) + 127
    if e < 0 then 0 else if 254 < e then 254 else e.toNat

/-- An element divided by its block's scale and encoded (R51). -/
def scaledEncode (t : Taper) (e : Nat) (v : FVal) : Nat :=
  t.encode (match v with
    | .fin d => .fin (d.scale (127 - (e : Int)))
    | v => v)

/-- Splits a list into blocks of `k`, by the fuel of its length. -/
def chunks (k : Nat) : Nat → List α → List (List α)
  | 0, _ => []
  | n + 1, xs => if xs.isEmpty then [] else xs.take k :: chunks k n (xs.drop k)

/-! ## Element values and conversions (R52) -/

/-- A conversion's format: an element type, or a tapered format in byte form (R161). -/
inductive Format where
  | elem (t : EType)
  | taper (t : Taper)
  deriving DecidableEq, Repr

/-- The format of VCVT's code F (R161). -/
def Format.ofCode (n : Nat) : Format :=
  if n == 9 then .taper .t8 else if n == 10 then .taper .t6 else .elem (EType.ofCode n)

/-- Width in bits; t8 and byte-form t6 count as 8-bit. -/
def Format.width : Format → Nat
  | .elem t => t.width
  | .taper _ => 8

/-- The exact value of an element. -/
def Format.decode (f : Format) (x : Nat) : FVal :=
  match f with
  | .taper t => t.decode x
  | .elem t => match t.fmt? with
    | some g => g.decode x
    | none => let i := toInt t.signed t.width x; if i == 0 then .zero false else .fin ⟨i, 0⟩

/-- The bits of an exact value in a format (R44, R48, R52): rounded once, and saturated into an integer type. -/
def Format.encode (f : Format) (r : Rnd) (v : FVal) : Nat :=
  match f with
  | .taper t => t.encode v
  | .elem t => match t.fmt? with
    | some g => g.encode r v
    | none => match v with
      | .nan => 0
      | .zero _ => 0
      | .inf n => saturate t.signed t.width (if n then -(2 ^ 64 : Nat) else (2 ^ 64 : Nat))
      | .fin d => saturate t.signed t.width (d.toInt r)

/-- One conversion (R52). -/
def convert (src dst : Format) (r : Rnd) (x : Nat) : Nat := dst.encode r (src.decode x)

/-! ## Element arithmetic (R155 to R158) -/

def EType.decode (t : EType) (x : Nat) : FVal := (Format.elem t).decode x

/-- An operation given on integers, which wraps, and on exact values, rounded once (R155). -/
def elemOp2 (t : EType) (r : Rnd) (iop : Int → Int → Int) (fop : FVal → FVal → FVal) (x y : Nat) : Nat :=
  match t.fmt? with
  | none => wrap t.width (iop (toInt t.signed t.width x) (toInt t.signed t.width y))
  | some f => f.encode r (fop (f.decode x) (f.decode y))

def elemOp3 (t : EType) (r : Rnd) (iop : Int → Int → Int → Int) (fop : FVal → FVal → FVal → FVal) (x y z : Nat) : Nat :=
  match t.fmt? with
  | none => wrap t.width (iop (toInt t.signed t.width x) (toInt t.signed t.width y) (toInt t.signed t.width z))
  | some f => f.encode r (fop (f.decode x) (f.decode y) (f.decode z))

def elemAdd (t : EType) (r : Rnd) : Nat → Nat → Nat := elemOp2 t r (· + ·) (FVal.add r)
def elemSub (t : EType) (r : Rnd) : Nat → Nat → Nat := elemOp2 t r (· - ·) (FVal.sub r)
def elemMul (t : EType) (r : Rnd) : Nat → Nat → Nat := elemOp2 t r (· * ·) FVal.mul
def elemMin (t : EType) (r : Rnd) : Nat → Nat → Nat := elemOp2 t r min FVal.min
def elemMax (t : EType) (r : Rnd) : Nat → Nat → Nat := elemOp2 t r max FVal.max
/-- |a|: the sign of a float is cleared, a NaN becomes canonical; s types wrap (R155). -/
def elemAbs (t : EType) (r : Rnd) (x : Nat) : Nat :=
  elemOp2 t r (fun a _ => (a.natAbs : Int)) (fun a _ => a.absolute) x 0
def elemNeg (t : EType) (r : Rnd) (x : Nat) : Nat := elemOp2 t r (fun a _ => -a) (fun a _ => a.negate) x 0
/-- a * b + d (R157). -/
def elemMad (t : EType) (r : Rnd) : Nat → Nat → Nat → Nat := elemOp3 t r (fun a b d => a * b + d) (FVal.fma r)
/-- a * b - d (R157). -/
def elemMsb (t : EType) (r : Rnd) : Nat → Nat → Nat → Nat :=
  elemOp3 t r (fun a b d => a * b - d) (fun a b d => FVal.fma r a b d.negate)
/-- d - a * b (R157). -/
def elemNmad (t : EType) (r : Rnd) : Nat → Nat → Nat → Nat :=
  elemOp3 t r (fun a b d => d - a * b) (fun a b d => d.add r (a.mul b).negate)

/-- Integer division of one width (R128, R171). -/
def elemDiv (t : EType) (r : Rnd) (x y : Nat) : Nat :=
  match t.fmt? with
  | some f => f.encode r ((f.decode x).div (f.decode y))
  | none =>
    let a := toInt t.signed t.width x
    let b := toInt t.signed t.width y
    if b == 0 then 2 ^ t.width - 1 else wrap t.width (a.tdiv b)

/-- Order of two elements: none when unordered (R159). -/
def elemCmp (t : EType) (x y : Nat) : Option Int :=
  match t.fmt? with
  | some f => (f.decode x).cmp (f.decode y)
  | none => some (toInt t.signed t.width x - toInt t.signed t.width y).sign

/-- The encoding of the natural number i in an element type (R16: LID, VIOTA). -/
def elemOfNat (t : EType) (i : Nat) : Nat :=
  match t.fmt? with
  | some f => f.encode .rne (if i == 0 then .zero false else .fin ⟨i, 0⟩)
  | none => i % 2 ^ t.width

/-- A scalar result of an element: sign-extended for s types, zero-extended otherwise (R163). -/
def elemScalar (t : EType) (x : Nat) : Word := BitVec.ofNat 64 (wrap 64 (toInt t.signed t.width x))

/-! ## The reduction tree and the scan (R57, R163, R164) -/

/-- One level of the pairwise tree. -/
def treeLevel (node : Nat → Nat → Nat) : List (Option Nat) → List (Option Nat)
  | a :: b :: rest =>
    (match a, b with
      | none, y => y
      | x, none => x
      | some x, some y => some (node x y)) :: treeLevel node rest
  | rest => rest

/-- `k` levels of the tree. -/
def treeFold (node : Nat → Nat → Nat) : Nat → List (Option Nat) → List (Option Nat)
  | 0, xs => xs
  | k + 1, xs => treeFold node k (treeLevel node xs)

/-- R57: the tree over the active elements; the identity when none is active. -/
def reduceTree (node : Nat → Nat → Nat) (identity : Nat) (xs : List (Option Nat)) : Nat :=
  match treeFold node 8 xs with
  | some x :: _ => x
  | _ => identity

/-- R164. -/
def scanFrom (add : Nat → Nat → Nat) : Option Nat → List (Option Nat) → List Nat
  | _, [] => []
  | run, x :: xs =>
    let run' := match run, x with
      | r, none => r
      | none, some v => some v
      | some r, some v => some (add r v)
    run'.getD 0 :: scanFrom add run' xs

/-- The lowest value of a type: minus infinity for floats (R57). -/
def EType.lowest (t : EType) : Nat :=
  match t.fmt? with
  | some f => f.signed true f.infBits
  | none => if t.signed then 2 ^ (t.width - 1) else 0

/-- The highest value of a type: plus infinity for floats (R57). -/
def EType.highest (t : EType) : Nat :=
  match t.fmt? with
  | some f => f.infBits
  | none => if t.signed then 2 ^ (t.width - 1) - 1 else 2 ^ t.width - 1

end Sys2Proof.Machine
end

