-- ==== Sys2Proof/Machine/State.lean ====
section
/-!
DEFINITION. The state of the device as plain data: the berths and tiles, the memory cores, the launches and their sequencers, the
partitions, the fabric, the steward, and the registers of each. Sparse tables are lists of (key, value) pairs in rising key order.
-/
namespace Sys2Proof.Machine

/-- Why a step stops the machine. -/
inductive Fault where
  /-- Raised by `step` when the package has stopped for good: the steward firmware stopped every agent for a fatal dump that has
  been written and the reboot was refused (R450, R452), or supply has gone (R462). Safe: nothing runs. -/
  | packageHalted
  deriving DecidableEq, Repr

/-- Why an instruction has no meaning here. -/
inductive Refusal where
  /-- An arm of `exec` that has no meaning yet. Safe: the machine stops. -/
  | notModelled (mnemonic : String)
  deriving DecidableEq, Repr

/-- Rows by number; an absent row is all zero. -/
abbrev Rows := List (Nat × Row)

/-! ## Berth state (R8 to R21) -/

/-- A slot of the result queue (R11): a value carries the cycle at which it expires (R12). -/
inductive QSlot where
  | empty
  | scalar (v : Word) (dead : Nat)
  | vector (v : Row) (dead : Nat)
  deriving DecidableEq, Repr

/-- The result queue (R11): 16 slots and the head that names the latest. -/
structure Queue where
  slots : Vector QSlot 16 := Vector.replicate 16 .empty
  head : Fin 16 := 0
  deriving DecidableEq, Repr

/-- The berth-scope control registers (R24) but for those that other fields of the context hold. -/
structure CRegs where
  vtype : BitVec 6 := 8
  accmode : BitVec 2 := 0
  fmta : BitVec 4 := 1
  fmtb : BitVec 4 := 1
  scla : BitVec 17 := 0
  sclb : BitVec 17 := 0
  mwb : BitVec 10 := 0
  mwl : BitVec 10 := 24
  fieldpos : BitVec 20 := 0
  fieldext : BitVec 21 := 0
  tilev : BitVec 12 := 0
  scbchk : Bool := false
  trapcause : BitVec 8 := 0
  trapval : Word := 0
  replayn : BitVec 4 := 0
  image : Word := 0
  dictbase : BitVec 48 := 0
  deriving DecidableEq, Repr

/-- A task record (R32), with what hardware carries beside it: the order key and entry (R296), the arrival and the CHRON it
carries (R309), the trap a continuation takes first (R188, R211, R249), and the mark of R358. -/
structure TaskRec where
  hpc : BitVec 48 := 0
  ts : Word := 0
  src : BitVec 13 := 0
  cls : BitVec 2 := 0
  chan : BitVec 4 := 0
  stage : BitVec 4 := 0
  poison : Bool := false
  cont : Bool := false
  inline : Bool := false
  migrated : Bool := false
  cmask : BitVec 16 := 0
  dest : BitVec 12 := 0
  launch : BitVec 16 := 0
  part : BitVec 6 := 0
  trig : Word := 0
  /-- Bytes 0x40 to 0xff: carried words 0 to 15 and payload words 0 to 7, or inline code. -/
  body : BitVec 1536 := 0
  /-- The context number of the launch. -/
  ctxnum : Nat := 0
  key : Option (Nat × Nat) := none
  entry : Nat := 0
  arrived : Nat := 0
  chron : Nat := 0
  startTrap : Option (Nat × Word) := none
  marked : Bool := false
  /-- Words of inline code (R208). -/
  inlineWords : Nat := 0
  /-- The object whose phase a continuation observed stays poisoned for it (R359). -/
  poisonSeen : Bool := false
  /-- Set for a record of the active-message or remote-command channels that names a context of its own (R422). -/
  amsg : Bool := false
  /-- The point of the record that a KIND 2 continuation consumed (R385), and the stage of a frontier notification (R392). -/
  fed : Option (Nat × Nat) := none
  notice : Option Nat := none
  deriving DecidableEq, Repr

/-- A captured operand. -/
inductive Val where
  | scalar (w : Word)
  | vector (r : Row)
  deriving DecidableEq, Repr

/-- The captured operands of an instruction (R149, R229): fields D, A and B and the governing or source mask. -/
structure Captured where
  d : Option Val := none
  a : Option Val := none
  b : Option Val := none
  mask : Option Mask := none
  /-- The main-file rows that the instruction names, which stay pinned while it is in flight (R281). -/
  rows : List Nat := []
  deriving DecidableEq, Repr

/-- Where a result goes, and the value it replaced there. -/
inductive Dest where
  | none
  | queue
  | g (n : Fin 32) (old : Word)
  | row (n : Nat) (old : Row)
  | mask (n : Fin 8) (old : Mask)
  | discard
  deriving DecidableEq, Repr

/-- A result that may still be pending (R71 to R75): what replaced it, until when it is uncovered, and what a replay entry needs. -/
structure Pend where
  word : BitVec 32
  epc : BitVec 48
  vt : BitVec 6
  am : BitVec 2
  dest : Dest
  /-- The queue slot it was pushed to and that slot's former entry. -/
  slot : Option (Fin 16 × QSlot)
  /-- The encoded distance at which a consumer is covered. -/
  due : Nat
  latency : Nat
  /-- The cycle at which the result exists. -/
  doneAt : Nat
  interlocked : Bool
  replayable : Bool
  ops : Captured
  deriving DecidableEq, Repr

/-- A replay entry as TRET takes it from the frame (R229). -/
structure Replay where
  word : BitVec 32
  epc : BitVec 48
  vt : BitVec 6
  am : BitVec 2
  dstKind : Nat
  dstNum : Nat
  qpos : Nat
  ops : Captured
  /-- The encoded distance count at its first issue. -/
  issued : Option Nat
  deriving DecidableEq, Repr

/-- A message as it waits in a send queue or travels (R206): the header's fields and the record it makes. -/
structure Message where
  kind : Nat
  destTile : Nat
  ts : Word
  stage : BitVec 4
  count : Nat
  poison : Bool
  src : Nat
  ctxnum : Nat
  payload : List Byte
  seq : BitVec 16 := 0
  chron : Nat := 0
  deriving DecidableEq, Repr

/-- One item of a segment or of an ordered task's buffer, in issue order (R294, R201). -/
inductive Item where
  /-- A near store: the bytes from a slice offset. -/
  | store (off : Nat) (data : List Byte)
  /-- A PUT (R186): pointer, control word, captured data. -/
  | put (ptr ctl : Word) (data : List Byte)
  /-- A posted atomic (R191): operation number, pointer, operand. -/
  | atomic (op : Nat) (ptr operand : Word)
  /-- A remote ACAS (R193): pointer, expected value, new value, barrier offset, row of the image. -/
  | acas (ptr expected new : Word) (bar : Nat) (row : Nat)
  | message (m : Message)
  | spawn (r : TaskRec)
  | continuation (r : TaskRec)
  | arrive (off : Nat) (bytes : Nat)
  | barInit (off : Nat) (expect : Nat)
  | barExpect (off : Nat) (expect : Nat)
  /-- An engine command: engine and the index of its entry in the tile's commands. -/
  | command (eng : Nat) (id : Nat)
  /-- Destination scale bytes that an RQT has written (R245): they take no entry of the store buffer. -/
  | rqtScales (off : Nat) (data : List Byte)
  /-- A DINS (R268): the descriptor, the record, and the bytes that the insertion writes as the berth sees the slice. -/
  | insert (desc : Nat) (record : List Byte) (writes : List (Nat × List Byte))
  deriving DecidableEq, Repr

/-- What a speculative instruction leaves until the branch ahead of it resolves (R78), in issue order. -/
inductive Deferred where
  /-- A GET that leaves at resolution: pointer, control word, first row. -/
  | get (ptr ctl : Word) (row : Nat)
  /-- A PRIO: channel and base priority. -/
  | prio (chan base : Nat)
  /-- A VSCT holds the slice for this many cycles (R182). -/
  | slice (cycles : Nat)
  /-- An engine command in the commit buffer: engine and the index of its entry in the tile's commands. -/
  | command (eng id : Nat)
  /-- A RINGC, by the index of its entry. -/
  | consume (id : Nat)
  /-- A RINGP: the segment that it releases, and the index of its entry. -/
  | produce (items : List Item) (id : Nat)
  /-- A RINGI: engine, ring and descriptor offset, with the descriptor that it read. -/
  | ringInit (ring eng base lg esl : Nat)
  deriving DecidableEq, Repr

/-- The context running in a berth (R8), with the rows of its image as they now stand. -/
structure Ctx where
  /-- Context number of its launch (R275). -/
  ctxnum : Nat := 0
  /-- Index of its image among the launch's images (R465). -/
  image : Nat := 0
  task : TaskRec := {}
  pc : BitVec 48 := 0
  g : Vector Word 32 := Vector.replicate 32 0
  q : Queue := {}
  k : Vector Mask 8 := Vector.replicate 8 0
  cr : CRegs := {}
  rows : Rows := []
  /-- Poisoned 8-byte words of rows: row and word (R288). -/
  rowPoison : List (Nat × Nat) := []
  /-- The sum of the spacings issued so far (R72). -/
  dist : Nat := 0
  /-- Results that may be pending, newest first. -/
  pend : List Pend := []
  inHandler : Bool := false
  savedQ : Queue := {}
  /-- The cycle at which the trap was taken, the distance there, and the distances at which the replay entries first issued. -/
  trapAt : Nat := 0
  savedDist : Nat := 0
  /-- The trap PC, and the spacing of the instruction that trapped, which counts once when the handler moves the resume PC past it (R75). -/
  savedTpc : BitVec 48 := 0
  savedSigma : Nat := 0
  savedIssued : List Nat := []
  /-- Results that had finished at the trap and are still uncovered by distance; and the cause being handled (R437). -/
  savedPend : List Pend := []
  handling : Nat := 0
  /-- Replay entries still to be issued after TRET. -/
  replay : List Replay := []
  /-- The open segment or the task's buffer, oldest first. -/
  buf : List Item := []
  /-- GETs whose checks have not been answered (R188), by flight number. -/
  unchecked : List Nat := []
  fault : Option (Nat × Word) := none
  /-- The issue number of the access or command that the pending fault came from: the earliest issued stands (R333). -/
  faultAt : Nat := 0
  /-- Traps the task takes before its first instruction (R188, R211, R249, R360). -/
  startTraps : List (Nat × Word) := []
  /-- The task's inline code holds a place of the inbox buffer (R208, R353). -/
  inlinePlace : Bool := false
  /-- Resident rows kept for an abort (R299), and how many rows are resident (R20). -/
  kept : Rows := []
  resident : Nat := 8
  poisoned : Bool := false
  /-- Held the first expansion or matrix use of an ordered task already (R235). -/
  mxReset : Bool := false
  xuReset : Bool := false
  /-- CHRON floor and the last reading (R309). -/
  floor : Nat := 0
  /-- Until this cycle an LDA's acquire holds later accesses (R179). -/
  acquireUntil : Nat := 0
  /-- Cycles at which the berth's dividers are free (R128, R171). -/
  divFree : Nat := 0
  vdivFree : Nat := 0
  /-- Lines whose read stamps wait for a branch, and what else waits for it (R78). -/
  stampsHeld : List Nat := []
  deferred : List Deferred := []
  /-- The cycle the task was taken: its age (R353). -/
  age : Nat := 0
  /-- Barrier arrivals of GETs held for the commit (R299). -/
  heldArrivals : List (Nat × Nat × Bool) := []
  /-- Stopped at a boundary by a pre-emption or a freeze (R438, R446): nothing issues until it resumes. -/
  stopped : Bool := false
  deriving DecidableEq, Repr

/-- An unresolved branch (R77, R144): the context at the target if it is taken, and whether it is. -/
structure Spec where
  taken : Bool
  checkpoint : Ctx
  nextIfTaken : Nat
  deriving DecidableEq, Repr

/-- One berth (R8) with what stays in it from task to task. -/
structure Berth where
  ctx : Option Ctx := none
  /-- The dictionary (R69); an absent entry is 0xffffffff. -/
  dict : List (Nat × BitVec 32) := []
  dictbase : BitVec 48 := 0
  /-- The earliest cycle of its next issue, and the cycle since which it has been ready. -/
  nextIssue : Nat := 0
  readySince : Nat := 0
  yielding : Bool := false
  yieldHeld : Bool := false
  /-- A dictionary parcel being issued: its entry and word (R68). -/
  latch : Option (Nat × BitVec 32) := none
  spec : Option Spec := none
  /-- Message sequence number (R206). -/
  seq : BitVec 16 := 0
  preemptReq : Option Nat := none
  energyReq : Option Nat := none
  /-- The chronometer count until which the latest release holds what becomes visible after it (R309). -/
  holdUntil : Nat := 0
  /-- The number of the commit unit that is open (R294). -/
  unit : Nat := 0
  /-- Frozen for the debugger (R227), for containment (R446), or for a warm reboot (R448). -/
  frozen : Bool := false
  /-- A record fetched from a depot or by a steal on its way to the berth. -/
  fetching : Bool := false
  deriving DecidableEq, Repr

/-! ## Tile state -/

/-- A ring's descriptor (R222) with the engine it is bound to. -/
structure Ring where
  valid : Bool := false
  eng : Nat := 0
  base : Nat := 0
  lg : Nat := 1
  esl : Nat := 3
  prod : BitVec 32 := 0
  cons : BitVec 32 := 0
  deriving DecidableEq, Repr

/-- What a barrier object's tile keeps beside it (R309, R359): the CHRON and writes' poison of the current and next phase. -/
structure BarrierSide where
  chron : Nat := 0
  chronNext : Nat := 0
  /-- The largest of the phases that have been observed. -/
  past : Nat := 0
  poison : Bool := false
  deriving DecidableEq, Repr

/-- The issuer of an engine operation: where a late failure goes (R217, R466). -/
structure Issuer where
  ctxnum : Nat := 0
  tile : Nat := 0
  berth : Nat := 0
  /-- The task's age and image, which tell whether that task still runs. -/
  age : Nat := 0
  image : Nat := 0
  poison : Bool := false
  chron : Nat := 0
  ordered : Bool := false
  key : Option (Nat × Nat) := none
  entry : Nat := 0
  /-- TS and SRC of the task (R335). -/
  ts : Word := 0
  src : BitVec 13 := 0
  /-- The commit unit of the berth (R294), and its closing scope: 0 tile, 1 die, 2 cube, 3 hitch, 4 system (R295). -/
  unit : Nat := 0
  scope : Nat := 2
  /-- The hitch position of another package whose access this one serves (R426). -/
  away : Option Nat := none
  deriving DecidableEq, Repr

/-- An engine operation from its acceptance (R215 to R225, R250). -/
inductive OpKind where
  /-- A CPUSH command record (R218, R219, R221, R337): its 64 bytes. -/
  | record (bytes : List Byte)
  /-- EOP: sub-function, a, b, the ring map sampled at acceptance (R224, R225), the matrix controls of R370, and the command built from
  a template for ENG 2. -/
  | eop (fn : Nat) (a b map : Word) (cr : CRegs) (record : List Byte)
  /-- RINGP or RINGC passing the bound engine's queue (R223): ring, count, whether it produces. -/
  | ringMove (ring : Nat) (count : BitVec 32) (produce : Bool)
  deriving DecidableEq, Repr

/-- Where an accepted operation stands. -/
inductive OpStage where
  /-- In the commit buffer or an ordered task's buffer: it occupies its queue entry (R216). -/
  | held
  /-- In the engine's queue. -/
  | queued
  /-- Taken by the engine; `pos` bytes or elements are done, and `ready` is the cycle of the next part. -/
  | running (pos ready : Nat)
  deriving DecidableEq, Repr

structure EngineOp where
  id : Nat
  eng : Nat
  kind : OpKind
  stage : OpStage
  issuer : Issuer
  /-- Its place in the order of issue (R333), and the granules whose translations its probes have pinned (R217). -/
  order : Nat := 0
  pins : List Nat := []
  /-- The issuing berth's checks of R217 have passed. -/
  checked : Bool := false
  failed : Bool := false
  poison : Bool := false
  /-- Bytes of its source that it has asked for, and bytes that it has sent on to its destination, while it moves them by requests (R328). -/
  asked : Nat := 0
  put : Nat := 0
  /-- Bytes that it counts into its barriers at its end; and the first matrix-unit operation that came after it (R375). -/
  counts : Nat := 0
  left : Nat := 0
  deriving DecidableEq, Repr

/-- An entry of the matrix unit's queue (R242). -/
inductive MxKind where
  | mma (zero : Bool) (tile : Nat) (slotw geow : Word)
  | macc (fn : Nat)
  | rqt (t6 : Bool) (slots scales : Word)
  | sfill (slot off : Nat) (data : List Byte)
  /-- Copy of an accumulator tile into ring elements (R250). -/
  | drain (tile : Nat) (op : Nat)
  deriving DecidableEq, Repr

structure MxOp where
  id : Nat
  kind : MxKind
  /-- The controls sampled (R370). -/
  cr : CRegs
  issuer : Issuer
  /-- An instruction of the berth sees the berth's own view of memory (R234); the others the tile's (R216). -/
  ownView : Bool
  /-- Started, with the cycle at which it completes. -/
  doneAt : Option Nat := none
  /-- The engine operation it belongs to. -/
  parent : Option Nat := none
  /-- The flight of a remote command, which brings the reply back (R248, R249). -/
  reply : Option Nat := none
  /-- Slots it names. -/
  slots : List Nat := []
  /-- Scale bytes of A and B, or source scales of RQT, as the unit read them when it began (R234); and whether one was poisoned. -/
  scaleA : List Byte := []
  scaleB : List Byte := []
  scalePoison : Bool := false
  /-- 16-byte units of its slots that a fill has written while it runs, as they stood (R241). -/
  overwritten : List (Nat × List Byte) := []
  deriving DecidableEq, Repr

/-- The matrix unit (R365). -/
structure MatrixUnit where
  holder : Option Nat := none
  claims : BitVec 16 := 0
  /-- Operand memory: bytes of the 64 KiB. -/
  slots : List Host.Cell := []
  slotPoison : List Nat := []
  /-- Accumulator rows 896 to 1023 by row number. -/
  acc : Rows := []
  accPoison : List Nat := []
  /-- Accumulator rows that speculative instructions of the holder have written, the latest first: the row, and the value and poison it had
  (R77). -/
  undo : List (Nat × Row × Bool) := []
  queue : List MxOp := []
  nextId : Nat := 0
  /-- The end of the occupancy of the operation that ran last. -/
  freeAt : Nat := 0
  /-- The cycle in which an operation last entered the queue (R372). -/
  entered : Option Nat := none
  /-- Refused replies (R249): barrier offset, target tile, reason. -/
  refusals : List (Nat × Nat × Nat) := []
  /-- Its holder is being pre-empted and waits for the queue to drain (R367). -/
  draining : Bool := false
  /-- A restore waits for the unit (R440). -/
  reserved : Bool := false
  deriving DecidableEq, Repr

/-- The expansion unit (R22, R251, R252). -/
structure ExpansionUnit where
  holder : Option Nat := none
  /-- e0 to e7: 256 f32 entries each. -/
  e : Vector (BitVec 8192) 8 := Vector.replicate 8 0
  tags : Vector (BitVec 32) 8 := Vector.replicate 8 0
  busyUntil : Nat := 0
  /-- A restore waits for the unit (R440). -/
  reserved : Bool := false
  deriving DecidableEq, Repr

/-- A main-file entry's state (R279). -/
inductive RowState where
  | awake | drowsy
  deriving DecidableEq, Repr

/-- A main-file entry (R279): which row of which context, whether it is dirty or evictable, and its last touch. -/
structure RowEntry where
  ctxnum : Nat
  image : Nat
  row : Nat
  state : RowState
  dirty : Bool
  lastTouch : Nat
  evictable : Bool
  deriving DecidableEq, Repr

/-- A row that has left its entry and is not yet gated (R280, R281): a dirty one holds a place of the write-back buffer until its write has
reached the image. -/
structure WriteBack where
  ctxnum : Nat
  image : Nat
  row : Nat
  /-- The cycle at which the row is gated. -/
  due : Nat
  dirty : Bool
  deriving DecidableEq, Repr

/-- A channel of the inbox (R352, R353): its base priority and aging raise, the cycle its count starts, and the SPLITs armed on it. -/
structure Channel where
  base : Nat := 0
  raise : Nat := 0
  since : Nat := 0
  /-- Records in the depot's overflow list of this channel. -/
  overflow : List TaskRec := []
  deriving DecidableEq, Repr

/-- An armed continuation (R211). -/
structure Armed where
  task : TaskRec
  kind : Nat
  num : Nat
  count : Nat
  bar : Nat
  phase : BitVec 16
  order : Nat
  inDepot : Bool := false
  deriving DecidableEq, Repr

/-- A retirement-tracker entry (R209): the task that has ended; an ordered task keeps its buffer, its kept rows and its record. -/
structure Tracker where
  id : Nat
  issuer : Issuer
  task : TaskRec
  buf : List Item := []
  kept : Rows := []
  heldArrivals : List (Nat × Nat × Bool) := []
  floor : Nat := 0
  committed : Bool := true
  emptyCommit : Bool := false
  /-- An aborted task that waits for its GETs before its rows are restored and it runs again (R299). -/
  aborted : Bool := false
  deriving DecidableEq, Repr

/-- Items held under R309: they leave once the chronometer reaches `release` and, where `after` is set, once the earlier writes of the
berth have been performed (R207, R295). -/
structure Held where
  issuer : Issuer
  release : Nat
  after : Bool
  items : List Item
  deriving DecidableEq, Repr

/-- A delta group held in an intake (R388). -/
structure IntakeGroup where
  ctxnum : Nat
  time : Word
  stage : Nat
  key : Word
  value : Word
  tag : BitVec 32
  /-- Exact sum of the multiplicities. -/
  sum : Int
  active : Bool
  poison : Bool := false
  deriving DecidableEq, Repr

/-- What a tile has released of a stage, for its notifications (R392): the value last notified, the least time released since, and whether
a raise found its notification outstanding. -/
structure Notice where
  ctxnum : Nat
  stage : Nat
  last : Word := 0
  released : Option Word := none
  owed : Bool := false
  deriving DecidableEq, Repr

/-- An open point (R388). -/
structure OpenPoint where
  ctxnum : Nat
  time : Word
  stage : Nat
  overflow : List IntakeGroup := []
  deriving DecidableEq, Repr

/-- A partial of the collective engine (R373 to R376). -/
structure Partial where
  op : Nat
  bytes : List Byte
  /-- Its poisoned 8-byte words. -/
  poison : List Nat := []
  deriving DecidableEq, Repr

/-- A collective round at its root (R374, R376). -/
structure Round where
  id : Nat
  ctxnum : Nat
  axis : Nat
  /-- The commands announced: slice, tile, operation number, command bytes, issuer. -/
  parts : List (Nat × Nat × Nat × List Byte × Issuer)
  acc : List Byte
  nextSlice : Nat
  started : Bool
  failed : Bool
  poison : List Nat
  /-- Receivers still to be delivered to. -/
  deliver : List Nat
  folded : Bool
  deriving DecidableEq, Repr

structure CollectiveUnit where
  partials : List Partial := []
  shadow : Vector (Option Partial) 2 := Vector.replicate 2 none
  rounds : List Round := []
  nextRound : Nat := 0
  deriving DecidableEq, Repr

/-- A TLB entry (R332): a page of a partition, its size, its table entry, and the pins that hold it (R333). -/
structure TlbEntry where
  part : Nat
  base : Nat
  size : Nat
  pte : Word
  pins : Nat := 0
  deriving DecidableEq, Repr

/-- The address generator, request queues, counters and tables of a memory core (R325 to R346). -/
structure CoreUnit where
  /-- Requests waiting for each of the two pseudo-channels, oldest first: numbers of external requests. -/
  queues : Vector (List Nat) 2 := Vector.replicate 2 []
  /-- TLB, most recently used first (R332). -/
  tlb : List TlbEntry := []
  /-- Table entries by partition and physical address; kept by the first core of a stack for its 96 cores. -/
  walkCache : List (Nat × Nat × Word) := []
  /-- Service inbox (R335). -/
  inbox : List TaskRec := []
  waitingService : List Nat := []
  /-- Round counters NEXT: context, axis, line, next slice (R341). -/
  next : List (Nat × Nat × Nat × Nat) := []
  /-- Held contributions: context, axis, line, slice, request. -/
  held : List (Nat × Nat × Nat × Nat × Nat) := []
  /-- Held contributions and round counters that stand in the partition's spill area (R342). -/
  spill : List (Nat × Nat × Nat × Nat × Nat) := []
  spillNext : List (Nat × Nat × Nat × Nat) := []
  bkconf : BitVec 32 := 0
  /-- The open row of each bank, and the cycle until which opening it keeps the bank busy (R339). -/
  openRows : List (Nat × Nat × Nat) := []
  deriving DecidableEq, Repr

/-- The router of a tile (R395 to R414): error counts, token buckets and soundings. -/
structure Router where
  soundings : Vector Nat 6 := Vector.replicate 6 0
  failedPorts : List Nat := []
  linkErrors : Nat := 0
  /-- Token buckets by 2 · partition + direction (R345): tokens granted and tokens left. -/
  buckets : List (Nat × Nat × Nat) := []
  /-- Charged flits passed in a cycle (R346): the cycle, and the flits upward and downward. -/
  passed : Nat × Nat × Nat := (0, 0, 0)
  /-- Outputs that a packet is crossing: port and the cycle at which it is free (R396). -/
  busy : List (Nat × Nat) := []
  /-- Uncorrectable replays on the links: port and chronometer (R411). -/
  replays : List (Nat × Nat) := []
  /-- Tags of delivered packets whose notices have not returned (R404). -/
  notices : List Nat := []
  deriving DecidableEq, Repr

/-- A tile, or a memory core (R7 numbers both). -/
structure Tile where
  berths : Vector Berth 4 := Vector.replicate 4 {}
  /-- The launch whose field holds the tile: context number. -/
  owner : Nat := 0
  rings : Vector Ring 16 := Vector.replicate 16 {}
  /-- Engine registers 0 to 7 of engines 0 to 4 (R224, R251). -/
  eregs : Vector (Vector Word 8) 5 := Vector.replicate 5 (Vector.replicate 8 0)
  ops : List EngineOp := []
  nextOp : Nat := 0
  mx : MatrixUnit := {}
  xu : ExpansionUnit := {}
  coll : CollectiveUnit := {}
  core : CoreUnit := {}
  router : Router := {}
  /-- Tag words of the slice's lines (R275); absent is zero. -/
  tags : List (Nat × BitVec 32) := []
  barriers : List (Nat × BarrierSide) := []
  -- tile-scope control registers (R24)
  curbLimit : Nat := 64
  curbCeil : Nat := 64
  curbst : Word := 0
  curbUsed : Nat := 0
  curbWindow : Nat := 64
  curbWaiting : List Nat := []
  xord : BitVec 7 := 0
  xkind : BitVec 2 := 0
  xtheta : BitVec 32 := 0
  issuepol : Bool := false
  mcapkey : Word := 0
  -- issue arbitration (R363)
  cur : Option (Fin 4) := none
  last : Fin 4 := 3
  issuedAt : Option Nat := none
  permuteAt : Option Nat := none
  /-- The slice is held by a VSCT until this cycle (R182). -/
  sliceHeld : Nat := 0
  -- scheduler (R351 to R356)
  inbox : List TaskRec := []
  inboxInline : Nat := 0
  channels : Vector Channel 16 := Vector.replicate 16 {}
  deque : List TaskRec := []
  armed : List Armed := []
  nextArmed : Nat := 0
  trackers : List Tracker := []
  nextTracker : Nat := 0
  held : List Held := []
  /-- Steal state (R355): the victim asked, the victims tried in this pass, the cycle before which no request goes out. -/
  stealAsked : Option Nat := none
  stealTried : Nat := 0
  stealWait : Nat := 0
  -- delta machinery (R388 to R392)
  intake : List IntakeGroup := []
  points : List OpenPoint := []
  activation : List (Nat × Nat × Word) := []
  frontierF : List (Nat × Nat × Word) := []
  frontierG : List (Nat × Nat × Word) := []
  phi : List (Nat × Word) := []
  notices : List Notice := []
  consolidatorFree : Nat := 0
  /-- Berths whose delta instructions wait for the consolidator, in issue order (R272). -/
  deltaWait : List Nat := []
  -- main file and errors (R279 to R289)
  mainFile : List RowEntry := []
  writeBack : List WriteBack := []
  correctable : Nat := 0
  rebuild : Bool := false
  failedBank : Option Nat := none
  /-- Words of the slice that a first uncorrectable error of their stripe took, which the other lines rebuild: data words by number, and those of
  parity lines from 16,384 on (R289). -/
  lostWords : List Nat := []
  /-- Lines whose tag word is poisoned (R275, R288). -/
  tagPoison : List Nat := []
  energyNoticeAt : Nat := 0
  deriving DecidableEq, Repr

/-! ## Launches (R117 to R124, R296, R348 to R358, R385 to R392) -/

/-- A handler table entry (R117). -/
structure Handler where
  entry : BitVec 48 := 0
  cls : BitVec 2 := 0
  mwl : BitVec 10 := 64
  resident : Nat := 0
  vtype : BitVec 6 := 8
  accmode : BitVec 2 := 0
  fmta : BitVec 4 := 1
  fmtb : BitVec 4 := 1
  scbchk : Bool := false
  deriving DecidableEq, Repr

/-- A stage table entry (R118): the channel and the handler. -/
structure StageEntry where
  chan : Nat
  handler : Nat
  deriving DecidableEq, Repr

/-- A saved context (R438): the context as it stood and the tile it belongs to. -/
structure Saved where
  ctx : Ctx
  tile : Nat
  /-- Its unit images (R440). -/
  claims : BitVec 16 := 0
  slots : List Host.Cell := []
  slotPoison : List Nat := []
  acc : Rows := []
  accPoison : List Nat := []
  hadMx : Bool := false
  curbst : Word := 0
  xu : Option ExpansionUnit := none
  xregs : Vector Word 8 := Vector.replicate 8 0
  xord : BitVec 7 := 0
  xkind : BitVec 2 := 0
  xtheta : BitVec 32 := 0
  deriving DecidableEq, Repr

/-- An image (R465): its locator and the rows as the last task left them. -/
structure Image where
  locator : Word := 0
  /-- The berth whose image it is: agent and berth. -/
  agent : Nat := 0
  berth : Nat := 0
  rows : Rows := []
  rowPoison : List (Nat × Nat) := []
  deriving DecidableEq, Repr

/-- The status of a launch (R124). -/
inductive LaunchStatus where
  | placed | nofit | badrec | noobj | held | fault
  deriving DecidableEq, Repr

/-- How a placed launch stands. -/
inductive LaunchState where
  | running
  /-- Its save is in progress: records arrive and none starts (R441). -/
  | saving
  /-- Its field is in the save area, and holds no tiles. -/
  | saved
  /-- Brought down or frozen (R446, R448). -/
  | down
  deriving DecidableEq, Repr

/-- A placed launch (R123, R348). -/
structure Launch where
  number : BitVec 16 := 0
  part : Nat := 0
  origin : Nat := 0
  ext : Nat × Nat × Nat := (1, 1, 1)
  handlers : List Handler := []
  stages : List (Nat × StageEntry) := []
  trapEntry : BitVec 48 := 0
  /-- The instruction region: runs of bytes (first, length). -/
  regions : List (Nat × Nat) := []
  slices : Nat × Nat × Nat × Nat := (0, 0, 0, 0)
  estimate : Nat := 0
  used : Nat := 0
  /-- The loaded object, and its dictionary (R69). -/
  object : Nat := 0
  dict : List (Nat × BitVec 32) := []
  /-- Images by index (4 a tile, then the active-message contexts). -/
  images : List (Nat × Image) := []
  saved : List Saved := []
  state : LaunchState := .running
  debugger : Bool := false
  /-- The request block that submitted it (R213): tile, block offset, barrier offset. -/
  request : Option (Nat × Nat × Nat) := none
  /-- Queue entry in the partition. -/
  entryId : Nat := 0
  -- sequencer (R296, R297)
  lastKey : Option (Nat × Nat) := none
  nextEntry : Nat := 0
  committing : Option Issuer := none
  /-- The largest CHRON of its commits, which a DFRONT acquires (R304, R309). -/
  commitChron : Nat := 0
  pubF : List (Nat × Word) := []
  pubG : List (Nat × Word) := []
  pubPhi : Word := 0
  /-- The field images of a save (R441, R442), by virtual number: the tile, its slice's bytes and poisoned words by offset, and its depot
  blocks. -/
  savedTiles : List (Nat × Tile) := []
  savedMem : List (Nat × List Host.Cell) := []
  savedPoison : List (Nat × List Nat) := []
  savedDepots : List (Nat × List (Nat × List TaskRec)) := []
  /-- Where its field images stand in the save area (R441). -/
  saveAt : Option Nat := none
  deriving DecidableEq, Repr

/-! ## Partitions, objects and launch queues (R112 to R124, R348, R449, R454) -/

structure LoadedObject where
  id : Nat
  memcore : Bool := false
  /-- Instruction addresses of its CODE sections, each rounded up to 4 KiB (R79), external ranges, and the ranges of its LAUNCH sections: first byte and length. -/
  regions : List (Nat × Nat) := []
  /-- Its part of the instruction store (R114): parcels by index; absent is 0xfb00. -/
  code : List (Nat × BitVec 16) := []
  ext : List (Nat × Nat) := []
  launches : List (Nat × Nat) := []
  dict : List (Nat × BitVec 32) := []
  /-- NEAR and CUBE contents by slice offset. -/
  near : List (Nat × List Byte) := []
  cube : List (Nat × List Byte) := []
  /-- The frames of external memory that its part of the instruction store takes (R114, R121). -/
  store : List Nat := []
  /-- The external address at which the steward keeps its DICT contents (R232). -/
  dictAt : Nat := 0
  deriving DecidableEq, Repr

/-- A ring declaration (R118). -/
structure RingDecl where
  ring : Nat
  base : Nat
  lg : Nat
  eng : Nat
  es : Nat
  deriving DecidableEq, Repr

/-- An inject entry (R118). -/
structure Inject where
  x : Nat
  y : Nat
  z : Nat
  stage : Nat
  ts : Word
  count : Nat
  payload : List Byte
  deriving DecidableEq, Repr

/-- What a launch record and the lists it names hold, as the command processor fetched them. -/
structure Fetched where
  ext : Nat × Nat × Nat
  auto : Bool
  handlers : List (List Byte)
  injects : List Inject
  barriers : List (Nat × Nat)
  energy : Nat
  trapEntry : BitVec 48
  capkey : Word
  capoff : Nat
  stages : List (Nat × StageEntry)
  prio : List Nat
  slices : Nat × Nat × Nat × Nat
  rings : List RingDecl
  object : Nat
  deriving DecidableEq, Repr

/-- An entry of a launch queue (R348). -/
structure QueueEntry where
  id : Nat
  record : BitVec 64
  request : Option (Nat × Nat × Nat)
  status : Option LaunchStatus := none
  ctxnum : Option Nat := none
  number : BitVec 16 := 0
  /-- Its record as it read when step 1 of R123 fetched and passed it. -/
  fetched : Option Fetched := none
  /-- In a hitch partition: the entry stands on all four packages (R427). -/
  mirrored : Bool := false
  /-- Statuses that the request block has not yet been told, in order (R213). -/
  tell : List LaunchStatus := []
  deriving DecidableEq, Repr

structure Partition where
  valid : Bool := false
  cpn : Nat := 0
  hpos : Option Nat := none
  dies : BitVec 64 := 0
  imgdies : BitVec 64 := 0
  ptroot : Word := 0
  lqueue : Word := 0
  save : Word := 0
  policy : Word := 0
  /-- The class table, 4 bits a class; its default (R399). -/
  classes : BitVec 32 := 0x54230160
  keyids : List Word := []
  areas : Word := 0
  svctab : Word := 0
  imgext : Word := 0
  objects : List LoadedObject := []
  nextObject : Nat := 0
  services : List (Nat × Handler) := []
  queue : List QueueEntry := []
  nextEntry : Nat := 0
  nextNumber : BitVec 16 := 0
  down : Bool := false
  precious : List (Nat × Nat) := []
  balance : Nat := 512
  /-- The admission pool in microjoules (R455 to R457). -/
  pool : Nat := 0
  deriving DecidableEq, Repr

/-! ## Fabric (R395 to R431) -/

/-- What a packet carries: a part of the request or the response of a flight, or of a request to a memory core or its completion. -/
inductive Cargo where
  | request (flight off len : Nat)
  | response (flight off : Nat)
  | ext (req off : Nat)
  | extReply (req off : Nat)
  deriving DecidableEq, Repr

/-- A packet in the fabric, with the fields of its route word (R397) that change nothing else. -/
structure Packet where
  id : Nat
  /-- The router it is at, where it stands there, and the cycle since which it does: 0 to 6 the input buffer of that port, of which 6 is the
  root port; 7 local injection; 8 above the root port, before it comes down; 9 the root port's buffer for flits without tokens (R344); 10 past
  the local or the root port, on its way out of the fabric; 11 on a rein (R426). -/
  at_ : Nat
  inPort : Nat := 7
  since : Nat := 0
  det : Nat := 0
  hops : Nat := 0
  part : Nat
  ctxnum : Nat
  stag : Option Nat := none
  stile : Nat
  cls : Nat
  dkind : Nat
  dtile : Nat
  flits : Nat
  /-- Injection cycle: the oldest packet of a tile is its lodestar (R404). -/
  born : Nat
  /-- Charged flits still to cross the up-port (R344). -/
  charged : Nat := 0
  upward : Bool := false
  cargo : Cargo
  /-- Poisoned 8-byte words of the payload (R409). -/
  poison : List Nat := []
  /-- It has crossed a lateral link (R407). -/
  lateral : Bool := false
  /-- The rein that it leaves by, or has come in by (R426), and the peer position that it goes to. -/
  rein : Option Nat := none
  device : Nat := 0
  /-- A detour's sidestep in progress (R413): the port it keeps to, the blocked axis, the chart entry. -/
  sidestep : Option (Nat × Nat × Word) := none
  deriving DecidableEq, Repr

/-- What a pointer of windows 0x2 to 0x5 names (R36). -/
inductive Place where
  | slice (agent off : Nat)
  | ext (va : Nat)
  /-- A slice on another package of the hitch (R427): position, virtual tile, offset. -/
  | away (device tile off : Nat)
  deriving DecidableEq, Repr

/-- A split-phase access, message or record in flight (R184 to R193, R206, R248, R355), or a part of an engine's work (R218, R328, R376). -/
inductive FlightKind where
  | get (ptr ctl : Word) (row : Nat)
  | put (ptr ctl : Word) (data : List Byte)
  | atomic (op : Nat) (ptr operand : Word)
  | acas (ptr expected new : Word) (bar row : Nat)
  | message (m : Message)
  | record (r : TaskRec) (tile : Nat)
  /-- The reply to a remote matrix command (R249): tile, barrier offset, reason of a refusal. -/
  | mxReply (tile bar reason : Nat)
  /-- A request for bytes of an engine operation's source: the operation, the place of its first byte in the run, where it reads, and how many. -/
  | fetch (op pos : Nat) (src : Place) (len : Nat)
  /-- A request that writes bytes of an engine operation, but for the 16-byte units that hold one of the words named (R466). -/
  | store (op pos : Nat) (dst : Place) (data : List Byte) (skip : List Nat)
  /-- An accumulating store's request (R340): the address, the bytes, SLICE and AXIS, and the 8-byte words of them that are not added (R466). -/
  | contrib (op pos va : Nat) (data : List Byte) (slice axis : Nat) (skip : List Nat)
  /-- A collective command's announcement to its root (R375), a pull of the partial of a root's round (R376), and a delivery of its result. -/
  | announce (op root : Nat) (command : List Byte)
  /-- The tile and operation that hold the partial, and the package of the hitch where they are (R430). -/
  | pull (round tile op : Nat) (device : Option Nat)
  /-- The receiver, where it writes, and the barrier that it counts into. -/
  | deliver (round receiver dst rbar : Nat) (data : List Byte)
  /-- A block of records on its way to a depot or back to a tile (R354): the block's number. -/
  | spill (home number : Nat) (block : List TaskRec)
  | block (tile berth : Nat) (block : List TaskRec)
  deriving DecidableEq, Repr

structure Flight where
  id : Nat
  kind : FlightKind
  issuer : Issuer
  /-- The bytes a GET has read, with its poisoned 8-byte words, and the old value of an ACAS. -/
  data : List Byte := []
  poison : List Nat := []
  old : Word := 0
  /-- Parts still to be performed, and the failure of the first part that failed. -/
  left : Nat := 1
  failure : Option (Nat × Word) := none
  checked : Bool := false
  performed : Bool := false
  deriving DecidableEq, Repr

/-- What a request does at its memory core (R328, R191, R193, R340). -/
inductive ExtKind where
  | read (len : Nat)
  /-- A write, but for the units that hold a word named (R466). -/
  | write (data : List Byte) (skip : List Nat)
  /-- Elements of one granule in one request (R338): their addresses with their lengths, or with their bytes and whether those are poisoned. -/
  | gather (parts : List (Nat × Nat))
  | scatter (parts : List (Nat × List Byte × Bool))
  /-- An accumulating contribution, with the words of it that are not added (R466). -/
  | acc (data : List Byte) (slice axis nsl : Nat) (skip : List Nat)
  | atomic (op : Nat) (operand : Word)
  | acas (expected new : Word)
  deriving DecidableEq, Repr

/-- A request to external memory, within one granule (R328). -/
structure ExtReq where
  id : Nat
  part : Nat
  ctxnum : Nat
  va : Nat
  kind : ExtKind
  /-- The flight that waits for it, and the place of its bytes there. -/
  flight : Nat
  off : Nat
  /-- The source tile. -/
  src : Nat
  /-- Its translation was probed, and a pin holds it (R333). -/
  pinned : Bool := false
  issuer : Issuer
  /-- Packets of it still on their way. -/
  left : Nat := 1
  /-- Poisoned words of its data (R409). -/
  poison : List Nat := []
  /-- A contribution that its core has taken (R341). -/
  accepted : Bool := false
  deriving DecidableEq, Repr

/-! ## Reckoner, steward and package (R432 to R464) -/

inductive Report where
  /-- A context that ended (R336, R436): its launch by context number and by launch number, SRC, TS, cause, TRAPVAL and the frame. -/
  | ended (ctxnum launch src : Nat) (ts : Word) (cause : Nat) (value : Word) (frame : List Byte)
  /-- A request that failed translation at a core (R333): partition, address and reason: 0 its walk failed, 1 the page does not permit it,
  2 it breaks R335 on a request page. -/
  | translate (part va reason : Nat)
  | poison (ctxnum src array offset : Nat)
  | late (ctxnum tile cause : Nat) (value : Word)
  | barrier (ctxnum src tile off : Nat)
  | accspill (ctxnum line : Nat)
  | launch (part entry status : Nat)
  | load (part object status : Nat)
  | saved (ctxnum : Nat)
  | restore (ctxnum status : Nat)
  | overrun (ctxnum amount : Nat)
  | bank (tile bank : Nat)
  | rounds (ctxnum count : Nat)
  | heldLines (ctxnum line : Nat)
  | split (part : Nat) (dies : List Nat)
  /-- A failed link (R411): its tile and port, and the design port and lane of it (R417, R418). -/
  | link (tile port design lane : Nat)
  | thermal (die level : Nat)
  | corrupt (part : Nat)
  | attest (bytes : List Byte)
  | note (code : Nat) (value : Word)
  deriving DecidableEq, Repr

structure Reckoner where
  /-- Die accounts in microjoules (R456). -/
  accounts : List (Nat × Int) := []
  /-- RKBUDGET, RKFIXED, RKDCAP (R455). -/
  pkgw : Nat := 10000
  fixw : Nat := 2000
  dcap : Nat := 125000
  /-- CEIL of every tile of a die (R458); absent is 64. -/
  ceil : List (Nat × Nat) := []
  /-- Activity counts of the current microsecond: 4096 · die + context number (R456). -/
  activity : List (Nat × Nat) := []
  /-- Latest readings of the hot-spot sensors, 16 · die + sensor, and the dies whose R is halved (R460). -/
  readings : List (Nat × Nat) := []
  hot : List Nat := []
  /-- RKHOLDUP: stored holdup energy in joules. -/
  holdup : Nat := 800
  deriving DecidableEq, Repr

structure Steward where
  /-- Boot status word (R452, R459) and the measurement register (R453). -/
  bootStatus : Nat := 0
  measurement : BitVec 512 := 0
  kernelUp : Bool := false
  /-- Chronometer of the latest kernel crash (R448). -/
  crashAt : Option Nat := none
  /-- A fatal dump that is kept (R450): the tiles and the memory as they stood. -/
  dumpKept : Bool := false
  dumpTiles : List (Nat × Tile) := []
  dumpMem : List Host.Cell := []
  /-- The registry's generation count (R449). -/
  generation : Nat := 0
  mailbox : List (Nat × Word) := []
  /-- The checkpoint target (R462): bytes by physical address, and the regions its header lists. -/
  checkpoint : List Host.Cell := []
  header : List (Nat × Nat × Nat) := []
  savedLaunches : List (Nat × Launch) := []
  /-- 64 KiB frames that the steward has granted (R454). -/
  frames : List Nat := []
  /-- Port shares (R344), failed reins (R429) and failed dies (R446). -/
  share : List (Nat × Nat) := []
  reinsDown : List Nat := []
  deadDies : List Nat := []
  /-- The registry (R449): an entry for each partition, its digest with it. -/
  registry : List (Nat × BitVec 2048) := []
  /-- The checkpoint header (R462) lists the save areas and the registry copy too, and carries a digest. -/
  headerSaves : List Nat := []
  headerRegistry : List (Nat × BitVec 2048) := []
  headerDigest : BitVec 512 := 0
  deriving DecidableEq, Repr

/-- The instruction or event being executed: where it was fetched, its word, its own length, its dictionary entry, and the
replay entry it came from. -/
structure Issue where
  tile : Nat := 0
  berth : Nat := 0
  word : BitVec 32 := 0
  len : Nat := 4
  dict : Option Nat := none
  replay : Option Replay := none
  deriving DecidableEq, Repr

/-- The whole device. -/
structure State where
  /-- Tile cycles since boot, and chronometer nanoseconds times the clock's fraction (R309, R459). -/
  now : Nat := 0
  chron : Nat := 0
  chronFrac : Nat := 0
  clock : Nat := 1500
  /-- Steps taken: the index of the free values (the model's own). -/
  steps : Nat := 0
  cur : Issue := {}
  tiles : List (Nat × Tile) := []
  mem : List Host.Cell := []
  /-- Poisoned 8-byte words by physical address / 8 (R288). -/
  memPoison : List Nat := []
  launches : List (Nat × Launch) := []
  parts : List (Nat × Partition) := []
  packets : List Packet := []
  flights : List Flight := []
  reqs : List ExtReq := []
  nextId : Nat := 1
  /-- The lodestar's packet number (R404); 0 when there is none. -/
  lodestar : Nat := 0
  /-- The chart that boot and the steward keep in every router (R412): entry and word. -/
  chart : List (Nat × Word) := []
  /-- Depots (R354): the blocks each tile has spilled to its home depot, the latest first, with the number of the spill. -/
  depots : List (Nat × List (Nat × List TaskRec)) := []
  nextSpill : Nat := 0
  /-- Each rein's time, in 25ths of a cycle, until which the packets that have entered it keep it busy (R426). -/
  reinBusy : List (Nat × Nat) := []
  /-- Events due at a cycle, and events that may come next in any order. -/
  timed : List (Nat × Event) := []
  agenda : List Event := []
  reports : List Report := []
  reck : Reckoner := {}
  stew : Steward := {}
  hitchPos : Option Nat := none
  hitchPeers : List Nat := []
  fuses : List (List Nat) := []
  halted : Bool := false
  deriving DecidableEq, Repr

/-- The machine right after reset: power has come on, nothing runs, and the boot sequence comes next (R452). Every register of a berth or a
tile has the value of its field's default, and memory lists nothing. -/
def State.reset : State := { agenda := [.powerOn [] 0] }

end Sys2Proof.Machine
end

