-- ==== Sys2Proof/Machine/Ops.lean ====
section
/-!
DEFINITION. The named operations over the state: sparse tables, memory (R41, R274, R292), the issuing berth's context, rows, the result
queue (R11, R12), and taking a trap and returning from one (R228 to R231, R436).
-/
namespace Sys2Proof.Machine

/-! ## Sparse tables -/

/-- The value of a key. -/
def lookup (k : Nat) : List (Nat × α) → Option α
  | [] => none
  | (j, a) :: l => if j = k then some a else lookup k l

/-- Sets a key, keeping keys in rising order. -/
def insertAt (k : Nat) (a : α) : List (Nat × α) → List (Nat × α)
  | [] => [(k, a)]
  | (j, b) :: l => if j = k then (k, a) :: l else if k < j then (k, a) :: (j, b) :: l else (j, b) :: insertAt k a l

/-- Removes a key. -/
def removeAt (k : Nat) : List (Nat × α) → List (Nat × α)
  | [] => []
  | (j, b) :: l => if j = k then removeAt k l else (j, b) :: removeAt k l

/-- The first `n` naturals from `a`. -/
def natsFrom (a : Nat) : Nat → List Nat
  | 0 => []
  | n + 1 => a :: natsFrom (a + 1) n

/-! ## Memory: one flat space of bytes -/

/-- What an unlisted byte reads as: boot stage 4 zeroes every array (R452). -/
def Mem.default : Byte := 0

/-- The canonical form: addresses strictly rising, and no entry equal to what an unlisted byte reads as. -/
def Mem.wf : List Host.Cell → Bool
  | [] => true
  | [(_, b)] => b != Mem.default
  | (a, b) :: (a', b') :: l => b != Mem.default && decide (a < a') && Mem.wf ((a', b') :: l)

def Mem.read (m : List Host.Cell) (a : Nat) : Byte := (lookup a m).getD Mem.default

/-- Writes one byte; writing the default removes the entry. -/
def Mem.write (m : List Host.Cell) (a : Nat) (b : Byte) : List Host.Cell :=
  if b = Mem.default then removeAt a m else insertAt a b m

def Mem.readBytes (m : List Host.Cell) (a : Nat) : Nat → List Byte
  | 0 => []
  | n + 1 => Mem.read m a :: Mem.readBytes m (a + 1) n

def Mem.writeBytes (m : List Host.Cell) (a : Nat) : List Byte → List Host.Cell
  | [] => m
  | b :: bs => Mem.writeBytes (Mem.write m a b) (a + 1) bs

/-- Where byte `off` of an agent's slice lies in the flat space: a tile's 128 KiB slice or a memory core's 64 KiB staging slice. -/
def slicePa (agent off : Nat) : Nat :=
  if agent < 4096 then 2 ^ 40 + agent * 2 ^ 17 + off else 2 ^ 41 + (agent - 4096) * 2 ^ 16 + off

/-- Bytes of an agent's slice. -/
def sliceSize (agent : Nat) : Nat := if agent < 4096 then 2 ^ 17 else 2 ^ 16

/-! ## The machine's parts -/

abbrev Out := Host.Outcome State Fault Refusal

def State.tile (s : State) (n : Nat) : Tile := (lookup n s.tiles).getD {}
def State.setTile (s : State) (n : Nat) (t : Tile) : State := { s with tiles := insertAt n t s.tiles }
def State.modTile (s : State) (n : Nat) (f : Tile → Tile) : State := s.setTile n (f (s.tile n))

/-- A berth's number as an index. -/
def berthIx (b : Nat) : Fin 4 := ⟨b % 4, Nat.mod_lt _ (by decide)⟩

def Tile.berth (t : Tile) (b : Nat) : Berth := t.berths[berthIx b]
def Tile.setBerth (t : Tile) (b : Nat) (x : Berth) : Tile := { t with berths := t.berths.set (berthIx b) x }

def State.berth (s : State) (n b : Nat) : Berth := (s.tile n).berth b
def State.setBerth (s : State) (n b : Nat) (x : Berth) : State := s.modTile n (·.setBerth b x)
def State.modBerth (s : State) (n b : Nat) (f : Berth → Berth) : State := s.setBerth n b (f (s.berth n b))

def State.ctx? (s : State) (n b : Nat) : Option Ctx := (s.berth n b).ctx
def State.setCtx (s : State) (n b : Nat) (c : Ctx) : State := s.modBerth n b fun x => { x with ctx := some c }
def State.modCtx (s : State) (n b : Nat) (f : Ctx → Ctx) : State :=
  s.modBerth n b fun x => { x with ctx := x.ctx.map f }

def State.launch? (s : State) (ctxnum : Nat) : Option Launch := lookup ctxnum s.launches
def State.setLaunch (s : State) (k : Nat) (l : Launch) : State := { s with launches := insertAt k l s.launches }
def State.modLaunch (s : State) (k : Nat) (f : Launch → Launch) : State :=
  match s.launch? k with
  | some l => s.setLaunch k (f l)
  | none => s

def State.part? (s : State) (p : Nat) : Option Partition := lookup p s.parts
def State.modPart (s : State) (p : Nat) (f : Partition → Partition) : State :=
  match s.part? p with
  | some x => { s with parts := insertAt p (f x) s.parts }
  | none => s

def State.report (s : State) (r : Report) : State := { s with reports := s.reports ++ [r] }
/-- Adds an event that may come next. -/
def State.soon (s : State) (i : Event) : State := { s with agenda := s.agenda ++ [i] }
/-- Puts an event into the agenda once. -/
def State.once (s : State) (e : Event) : State := if s.agenda.contains e then s else s.soon e
/-- Adds an event due at a cycle. -/
def State.atCycle (s : State) (c : Nat) (i : Event) : State := { s with timed := s.timed ++ [(c, i)] }

/-- Whether an agent is a memory core (R7). -/
def isCore (agent : Nat) : Bool := decide (4096 ≤ agent)

/-! ## What an instruction's evaluation works on -/

/-- How an instruction ends without its effect: a trap, or a bounded wait at issue (R70). -/
inductive Halt where
  | trap (cause : Nat) (value : Word)
  | hold
  deriving DecidableEq, Repr

abbrev Ex (α : Type) := Except Halt α

/-- The state, the issuing context, and the rows touched (R279). -/
structure View where
  s : State
  ctx : Ctx
  touched : List (Nat × Bool) := []

def View.cur (v : View) : Issue := v.s.cur
def View.tile (v : View) : Tile := v.s.tile v.s.cur.tile
def View.berth (v : View) : Berth := v.s.berth v.s.cur.tile v.s.cur.berth
def View.modTile (v : View) (f : Tile → Tile) : View := { v with s := v.s.modTile v.s.cur.tile f }
def View.modCtx (v : View) (f : Ctx → Ctx) : View := { v with ctx := f v.ctx }
def View.modBerth (v : View) (f : Berth → Berth) : View := { v with s := v.s.modBerth v.s.cur.tile v.s.cur.berth f }
def View.now (v : View) : Nat := v.s.now
/-- VTYPE and ACCMODE in effect: the captured ones of a replay entry (R149). -/
def View.vtype (v : View) : BitVec 6 := match v.s.cur.replay with | some r => r.vt | none => v.ctx.cr.vtype
def View.accmode (v : View) : BitVec 2 := match v.s.cur.replay with | some r => r.am | none => v.ctx.cr.accmode
def View.etype (v : View) : EType := EType.ofCode (v.vtype.toNat % 16)
def View.rnd (v : View) : Rnd := Rnd.ofCode (v.vtype.toNat / 16)
def View.holdsMx (v : View) : Bool := v.tile.mx.holder == some (v.s.cur.berth % 4)
def View.ordered (v : View) : Bool := v.ctx.task.cls != 0
def View.specOpen (v : View) : Bool := v.berth.spec.isSome

/-- The trap of a cause (R30). -/
def trapWith {α : Type} (cause : Nat) (value : Word) : Ex α := .error (.trap cause value)

namespace Cause
def illegal := 1
def illopnd := 2
def regwin := 3
def window := 4
def stallshort := 5
def expired := 6
def capability := 7
def translate := 8
def ringover := 9
def phaseover := 10
def fenceclass := 11
def poison := 12
def preempt := 13
def brk := 14
def soft := 15
def energy := 16
end Cause

/-- TRAPVAL of a decode ILLEGAL, and of an own ILLEGAL that reports the word (R80, R152). -/
def Issue.illegalValue (c : Issue) : Word :=
  match c.dict with
  | none => c.word.zeroExtend 64
  | some i => (1#1 ++ BitVec.ofNat 21 0 ++ BitVec.ofNat 10 i ++ c.word)

/-- TRAPVAL of FENCECLASS: the word (R179, R195). -/
def Issue.wordValue (c : Issue) : Word := c.word.zeroExtend 64

/-! ## Rows -/

def rowsGet (rs : Rows) (n : Nat) : Row := (lookup n rs).getD 0
def rowsSet (rs : Rows) (n : Nat) (r : Row) : Rows := if r = 0 then removeAt n rs else insertAt n r rs

/-- R13: whether a row number names a valid row. -/
def View.rowValid (v : View) (n : Nat) : Bool :=
  decide (n < v.ctx.cr.mwl.toNat) || (decide (896 ≤ n) && decide (n < 1024) && v.holdsMx)

def View.row (v : View) (n : Nat) : Row := if n < 896 then rowsGet v.ctx.rows n else rowsGet v.tile.mx.acc n

/-- Writes a row; a resident row of an ordered task is kept first (R299), and an accumulator row as it stood for a squash (R77). -/
def View.setRow (v : View) (n : Nat) (r : Row) : View :=
  if n < 896 then
    let kept := if v.ordered && decide (n < v.ctx.resident) && (lookup n v.ctx.kept).isNone
      then insertAt n (rowsGet v.ctx.rows n) v.ctx.kept else v.ctx.kept
    { v with ctx := { v.ctx with rows := rowsSet v.ctx.rows n r, kept := kept }, touched := v.touched ++ [(n, true)] }
  else
    let open_ := v.specOpen
    v.modTile fun t => { t with mx := { t.mx with
      acc := rowsSet t.mx.acc n r
      undo := if open_ then (n, rowsGet t.mx.acc n, t.mx.accPoison.contains n) :: t.mx.undo else t.mx.undo } }

/-- A write of a whole row clears its poison (R288). -/
def View.unpoisonRow (v : View) (n : Nat) : View :=
  if n < 896 then { v with ctx := { v.ctx with rowPoison := v.ctx.rowPoison.filter fun p => p.1 != n } }
  else v.modTile fun t => { t with mx := { t.mx with accPoison := t.mx.accPoison.filter fun r => r != n } }

/-- Bytes 0 to 7 of a row. -/
def Row.low (r : Row) : Word := r.extractLsb' 0 64
/-- A row with bytes 0 to 7 replaced (R16). -/
def Row.withLow (r : Row) (w : Word) : Row := r.extractLsb' 64 1984 ++ w

/-- A row group fails at its first invalid row (R15). -/
def View.firstBadRow (v : View) (first : Nat) : Nat → Option Nat
  | 0 => none
  | n + 1 => if v.rowValid first then v.firstBadRow (first + 1) n else some first

/-! ## The result queue (R11, R12) -/

/-- The slot that position n (1 to 16) names. -/
def Queue.slotOf (q : Queue) (n : Nat) : Fin 16 := q.head - Fin.ofNat 16 (n - 1)
/-- The position of a slot. -/
def Queue.posOf (q : Queue) (i : Fin 16) : Nat := (q.head - i).val + 1
def Queue.entry (q : Queue) (n : Nat) : QSlot := q.slots[q.slotOf n]
/-- Steps the head and writes the entry there. -/
def Queue.push (q : Queue) (e : QSlot) : Queue := { slots := q.slots.set (q.head + 1).val e (q.head + 1).isLt, head := q.head + 1 }

/-- The life of an entry in cycles (R12). -/
def queueLife : Nat := 4096

def QSlot.ofVal (x : Val) (now : Nat) : QSlot :=
  match x with
  | .scalar w => .scalar w (now + queueLife)
  | .vector r => .vector r (now + queueLife)

def QSlot.dead (e : QSlot) (now : Nat) : Bool :=
  match e with
  | .empty => false
  | .scalar _ d => decide (d ≤ now)
  | .vector _ d => decide (d ≤ now)

def QSlot.val : QSlot → Val
  | .empty => .scalar 0
  | .scalar w _ => .scalar w
  | .vector r _ => .vector r

/-- Shifts every expiry by the cycles of an absence (R12, R40). -/
def Queue.shift (q : Queue) (k : Nat) : Queue :=
  { q with slots := q.slots.map fun e => match e with
      | .empty => .empty
      | .scalar v d => .scalar v (d + k)
      | .vector v d => .vector v (d + k) }

/-! ## The main file (R279 to R281) -/

/-- A row of a context, as the main file names it: context number, image and row. -/
abbrev RowKey := Nat × Nat × Nat

def RowEntry.is (e : RowEntry) (k : RowKey) : Bool := e.ctxnum == k.1 && e.image == k.2.1 && e.row == k.2.2
def RowEntry.key (e : RowEntry) : RowKey := (e.ctxnum, e.image, e.row)

/-- The least recently touched of the entries that a test admits. -/
def oldestEntry (f : RowEntry → Bool) : List RowEntry → Option RowEntry
  | [] => none
  | e :: es => match oldestEntry f es with
    | some x => if f e && decide (e.lastTouch ≤ x.lastTouch) then some e else some x
    | none => if f e then some e else none

/-- The victim of a fill (R281), which is never a pinned entry: an evictable one, else a clean one, else any, each the least recently touched. -/
def victim (pinned : RowKey → Bool) (es : List RowEntry) : Option RowEntry :=
  let pick (f : RowEntry → Bool) : Option RowEntry := oldestEntry (fun e => !(pinned e.key) && f e) es
  ((pick (·.evictable)).or (pick fun e => !e.dirty)).or (pick fun _ => true)

/-- A touch of a row (R279, R280): its entry is awake, and dirty after a write; a gated row gets an entry, a victim making room when all
896 are in use. The second part is the victims, each with whether it is dirty. -/
def touchRow (pinned : RowKey → Bool) (k : RowKey) (now : Nat) (write : Bool) (es : List RowEntry) (out : List (RowKey × Bool)) :
    List RowEntry × List (RowKey × Bool) :=
  if es.any fun e => e.is k then
    (es.map fun e => if e.is k then { e with state := .awake, dirty := e.dirty || write, lastTouch := now } else e, out)
  else
    let new : RowEntry := { ctxnum := k.1, image := k.2.1, row := k.2.2, state := .awake, dirty := write, lastTouch := now, evictable := false }
    if es.length < 896 then (es ++ [new], out)
    else match victim pinned es with
      | some v => (es.erase v ++ [new], out ++ [(v.key, v.dirty)])
      | none => (es ++ [new], out)

/-- An element added to a list once. -/
def addOnce (x : Nat) (xs : List Nat) : List Nat := if xs.contains x then xs else xs ++ [x]

/-- The rows of a context that instructions in flight name (R281). -/
def Ctx.pinnedRows (c : Ctx) (now : Nat) : List Nat :=
  (c.pend.flatMap fun p => if now < p.doneAt then p.ops.rows else []).foldl (fun xs x => addOnce x xs) []

/-- A row is one of the frame's, which the handler pins (R230, R281). -/
def Ctx.framePins (c : Ctx) (row : Nat) : Bool := c.inHandler && decide (c.cr.mwl.toNat ≤ row + 16 ∧ row < c.cr.mwl.toNat)

/-- A row that no fill may take the entry of (R281): one that an instruction in flight names, or of the frame during the handler. -/
def State.pinnedRow (s : State) (n : Nat) (k : RowKey) : Bool :=
  (natsFrom 0 4).any fun b => (s.ctx? n b).any fun c =>
    c.ctxnum == k.1 && c.image == k.2.1 && ((c.pinnedRows s.now).contains k.2.2 || c.framePins k.2.2)

/-- Touches rows of one context, each with whether it writes: a tile's entries, and the victims. -/
def State.touchedFile (s : State) (n ctxnum image : Nat) (rows : List (Nat × Bool)) : List RowEntry × List (RowKey × Bool) :=
  let pinned (k : RowKey) : Bool := (k.1 == ctxnum && k.2.1 == image && rows.any fun r => r.1 == k.2.2) || s.pinnedRow n k
  rows.foldl (fun (es, out) (r, w) => touchRow pinned (ctxnum, image, r) s.now w es out) ((s.tile n).mainFile, [])

/-- The cycle at which a row that leaves its entry is gated (R280, R281): at once where it is clean; 40 cycles on where its image lies in the
image area; and for an external image when its memory core has performed the write. -/
def State.gatedAt (s : State) (k : RowKey) (dirty : Bool) : Nat :=
  if !dirty then s.now
  else match (s.launch? k.1).bind fun l => lookup k.2.1 l.images with
    | some im => s.now + if im.locator.extractLsb' 60 4 = 0xe then 40 else Config.rowWriteTime s.steps
    | none => s.now + 40

/-- Rows that leave their entries: the dirty ones through the write-back buffer (R281). -/
def State.writeBackRows (s : State) (n : Nat) (ks : List (RowKey × Bool)) : State :=
  let s' := s.modTile n fun t => { t with writeBack := t.writeBack ++ ks.map fun k => ⟨k.1.1, k.1.2.1, k.1.2.2, s.gatedAt k.1 k.2, k.2⟩ }
  { s' with timed := s'.timed ++ ks.map fun k => (s.gatedAt k.1 k.2, .writeBackDrain n) }

/-- Touches rows of one context on a tile, each with whether it writes. -/
def State.touchRows (s : State) (n ctxnum image : Nat) (rows : List (Nat × Bool)) : State :=
  let (es, out) := s.touchedFile n ctxnum image rows
  (s.modTile n fun t => { t with mainFile := es }).writeBackRows n out

/-- Rows of a frame past the row area, which the trap and save logic writes in this cycle (R39, R228, R438). -/
def State.saveArea (s : State) (n ctxnum image first count : Nat) : State :=
  (s.modTile n fun t => { t with writeBack := t.writeBack ++ (natsFrom first count).map fun r => ⟨ctxnum, image, r, s.now, true⟩ }).atCycle s.now
    (.writeBackDrain n)

/-- Dirty rows that stand in a tile's write-back buffer of 4 (R281). -/
def Tile.writingBack (t : Tile) : Nat := (t.writeBack.filter fun w => w.dirty && decide (w.row < 896)).length

/-- A row of a context has no entry, and its last write has reached its image (R280). -/
def Tile.rowGated (t : Tile) (k : RowKey) : Bool :=
  !(t.mainFile.any fun e => e.is k) && !(t.writeBack.any fun w => w.dirty && (w.ctxnum, w.image, w.row) == k)

/-- Deliveries write a row's entry where it has one, and the image itself where it is gated (R284). -/
def State.touchPresent (s : State) (n ctxnum image : Nat) (rows : List Nat) : State :=
  s.modTile n fun t =>
    { t with mainFile := t.mainFile.map fun e =>
        if e.ctxnum == ctxnum && e.image == image && rows.contains e.row then { e with state := .awake, dirty := true, lastTouch := s.now } else e }

/-! ## The frame of a trap (R229, R230, R291) -/

def Val.units : Val → Nat
  | .scalar _ => 1
  | .vector _ => 8

def Captured.units (c : Captured) : Nat :=
  let u (x : Option Val) : Nat := (x.map Val.units).getD 0
  u c.d + u c.a + u c.b + (if c.mask.isSome then 1 else 0)

/-- The bytes of an operand's units, and its 16-bit reference. -/
def Val.frame (x : Val) (unit : Nat) : Nat × List Byte :=
  match x with
  | .scalar w => (0x8000 + unit, leBytes 32 w.toNat)
  | .vector r => (0xc000 + unit, rowBytes r)

/-- References and unit bytes of an entry's operands, in the order D, A, B and mask (R291). -/
def Captured.frame (c : Captured) (unit : Nat) : Nat × List Byte :=
  let step (acc : Nat × Nat × Nat × List Byte) (x : Option Val) : Nat × Nat × Nat × List Byte :=
    let (shift, refs, u, bs) := acc
    match x with
    | none => (shift + 16, refs, u, bs)
    | some y => let (r, b) := y.frame u; (shift + 16, refs + r * 2 ^ shift, u + y.units, bs ++ b)
  let (_, refs, u, bs) := [c.d, c.a, c.b].foldl step (0, 0, unit, [])
  match c.mask with
  | none => (refs, bs)
  | some m => (refs + (0x8000 + u) * 2 ^ 48, bs ++ leBytes 32 m.toNat)

/-- One replay entry's fields as the frame holds them. -/
structure FrameEntry where
  word : BitVec 32
  epc : BitVec 48
  vt : BitVec 6
  am : BitVec 2
  dst : Nat
  qpos : Nat
  ops : Captured
  issued : Nat

def Dest.code : Dest → Nat
  | .queue => 0
  | .g n _ => 0x1000 + n.val
  | .row n _ => 0x2000 + n
  | .mask n _ => 0x3000 + n.val
  | .discard => 0x4000
  | .none => 0x4000

/-- Whether two results write one register, row or mask. -/
def Dest.same : Dest → Dest → Bool
  | .g m _, .g n _ => m == n
  | .row m _, .row n _ => m == n
  | .mask m _, .mask n _ => m == n
  | _, _ => false

/-- A later result has been pushed into a result's slot, so that its position is out of the queue (R11, R66). -/
def Pend.outOfQueue (p : Pend) (newer : List Pend) : Bool :=
  match p.slot with
  | some (i, _) => newer.any fun q => (q.slot.map Prod.fst) == some i
  | none => false

/-- A later result that stands has been written where a result goes (R66). -/
def Pend.overtaken (p : Pend) (finishedNewer : List Pend) : Bool := finishedNewer.any fun q => q.dest.same p.dest

/-- The replay entry of an unfinished result: what a later result has already written it leaves alone, so that it goes to the queue only, and
its position is none where a later push has taken its slot (R66, R75, R229). -/
def Pend.frameEntry (p : Pend) (q : Queue) (newer finishedNewer : List Pend) : FrameEntry :=
  { word := p.word, epc := p.epc, vt := p.vt, am := p.am, dst := if p.overtaken finishedNewer then 0 else p.dest.code,
    qpos := match p.slot with | some (i, _) => if p.outOfQueue newer then 0 else q.posOf i | none => 0, ops := p.ops,
    issued := if p.interlocked then p.due else p.due - p.latency }

/-- The replay entries of the results to keep, oldest first, out of the pending ones, newest first. -/
def frameOf (keep : List Pend) (q : Queue) : List Pend → List Pend → List FrameEntry
  | _, [] => []
  | newer, p :: ps =>
    frameOf keep q (p :: newer) ps ++
      if keep.contains p then [p.frameEntry q newer (newer.filter fun x => !(keep.contains x))] else []

def Replay.frameEntry (r : Replay) : FrameEntry :=
  { word := r.word, epc := r.epc, vt := r.vt, am := r.am, dst := r.dstKind * 0x1000 + r.dstNum, qpos := r.qpos,
    ops := r.ops, issued := r.issued.getD 0 }

/-- The 24 bytes of an entry (R229), its operands from `unit` on. -/
def FrameEntry.bytes (e : FrameEntry) (unit : Nat) : List Byte :=
  leBytes 4 e.word.toNat ++ leBytes 6 e.epc.toNat ++ leBytes 1 e.vt.toNat ++ leBytes 1 e.am.toNat ++
  leBytes 2 e.dst ++ leBytes 1 e.qpos ++ leBytes 1 0 ++ leBytes 8 (e.ops.frame unit).1

/-- Entry bytes and unit bytes of a list of entries (R291: units from 0 upward, entries in issue order). -/
def frameEntries : List FrameEntry → Nat → List Byte × List Byte
  | [], _ => ([], [])
  | e :: es, u =>
    let (a, b) := frameEntries es (u + e.ops.units)
    (e.bytes u ++ a, (e.ops.frame u).2 ++ b)

/-- Rows written one after another from bytes, padded with zeros. -/
def writeRows (rs : Rows) (first : Nat) : Nat → List Byte → Rows
  | 0, _ => rs
  | n + 1, bs => writeRows (rowsSet rs first (rowOfBytes (bs.take 256))) (first + 1) n (bs.drop 256)

/-- The frame's 16 rows (R229, R230). -/
def writeFrame (rs : Rows) (mwl cause : Nat) (value : Word) (tpc rpc : BitVec 48) (chron : Nat) (es : List FrameEntry) : Rows :=
  let (ents, units) := frameEntries es 0
  let header := leBytes 8 cause ++ leBytes 8 value.toNat ++ leBytes 8 tpc.toNat ++ leBytes 8 rpc.toNat ++
    leBytes 8 chron ++ leBytes 1 es.length ++ leBytes 23 0
  writeRows rs (mwl - 16) 16 (header ++ ents ++ leBytes (192 - ents.length) 0 ++ units)

/-- Puts a result's slot and location back to what they held, unless a later result stands there (R66, R228). -/
def undoPend (newer finishedNewer : List Pend) (c : Ctx) (p : Pend) : Ctx :=
  let c := match p.slot with
    | some (i, _) => if p.outOfQueue newer then c else { c with q := { c.q with slots := c.q.slots.set i .empty } }
    | none => c
  if p.overtaken finishedNewer then c
  else match p.dest with
    | .g n old => { c with g := c.g.set n old }
    | .row n old => { c with rows := if n < 896 then rowsSet c.rows n old else c.rows }
    | .mask n old => { c with k := c.k.set n old }
    | _ => c

/-- Splits the pending results, newest first, into those that re-enter at TRET and those that complete: an unfinished replayable
result is kept unless it is among the oldest that must complete first for at most 8 entries and 120 units to remain (R228). -/
def unfinished (now : Nat) (room units : Nat) : List Pend → List Pend
  | [] => []
  | p :: ps =>
    if p.replayable && decide (now < p.doneAt) then
      if room = 0 ∨ units < p.ops.units then []
      else p :: unfinished now (room - 1) (units - p.ops.units) ps
    else unfinished now room units ps

/-- Undoes the unfinished results, newest first. -/
def undoAll (keep : List Pend) : List Pend → List Pend → Ctx → Ctx
  | _, [], c => c
  | newer, p :: ps, c =>
    undoAll keep (p :: newer) ps (if keep.contains p then undoPend newer (newer.filter fun x => !(keep.contains x)) c p else c)

/-- The accumulator rows put back likewise (tile state). -/
def undoAcc (keep : List Pend) : List Pend → List Pend → Rows → Rows
  | _, [], acc => acc
  | newer, p :: ps, acc =>
    undoAcc keep (p :: newer) ps (match p.dest with
      | .row n old =>
        if 896 ≤ n ∧ keep.contains p = true ∧ p.overtaken (newer.filter fun x => !(keep.contains x)) = false then rowsSet acc n old else acc
      | _ => acc)

/-- CHRON as a berth reads it (R309). -/
def chronOf (s : State) (c : Ctx) : Nat := max s.chron c.floor

/-- Steps 1 to 4 of taking a trap (R228): results complete or are undone, the frame and the queue are saved, and the trap registers set. -/
def saveTrap (s : State) (n b cause : Nat) (value : Word) (tpc rpc : BitVec 48) (sigma : Nat := 0) : State :=
  match s.ctx? n b with
  | none => s
  | some c =>
    let follow := c.replay.map Replay.frameEntry
    let keep := unfinished s.now (8 - follow.length) (120 - (c.replay.map fun r => r.ops.units).sum) c.pend
    let ents := frameOf keep c.q [] c.pend ++ follow
    let c1 := undoAll keep [] c.pend c
    let rows := writeFrame c1.rows c1.cr.mwl.toNat cause value tpc rpc (chronOf s c) ents
    let c2 := { c1 with
      rows := rows, rowPoison := c1.rowPoison.filter (fun p => !(decide (c1.cr.mwl.toNat ≤ p.1 + 16) && decide (p.1 < c1.cr.mwl.toNat))),
      savedQ := c1.q, q := {}, pend := [], replay := [], savedDist := c1.dist, savedTpc := tpc, savedSigma := sigma,
      savedPend := c1.pend.filter (fun p => !(keep.contains p)), handling := cause,
      savedIssued := ents.map FrameEntry.issued, trapAt := s.now,
      cr := { c1.cr with trapcause := BitVec.ofNat 8 cause, trapval := value, replayn := BitVec.ofNat 4 ents.length } }
    let s1 := if keep.isEmpty then s else s.modTile n fun t => { t with mx := { t.mx with acc := undoAcc keep [] c.pend t.mx.acc } }
    let s2 := s1.setCtx n b c2
    if isCore n then s2
    else (s2.touchRows n c.ctxnum c.image ((natsFrom (c.cr.mwl.toNat - 16) 16).map fun r => (r, true))).saveArea n c.ctxnum c.image 900 17

/-- The berth occupies its tile's issue slot in this cycle (R361, R363): it becomes current, and the yielding of every berth ends. -/
def occupySlot (s : State) (n b : Nat) : State :=
  s.modTile n fun t =>
    { t with cur := some (berthIx b), last := berthIx b, issuedAt := some s.now, deltaWait := t.deltaWait.erase b,
             berths := t.berths.map fun x => { x with yielding := false } }

/-- Whether a tile's queued matrix work names a slot in a set. -/
def MxOp.names (o : MxOp) (slots : BitVec 16) : Bool := o.slots.any fun k => slots.getLsbD k

/-- Releases the berth's claims and units (R209, R366, R22). -/
def releaseUnits (t : Tile) (b : Nat) : Tile :=
  let t := if t.mx.holder == some (b % 4) then { t with mx := { t.mx with holder := none, claims := 0 } } else t
  if t.xu.holder == some (b % 4) then { t with xu := { t.xu with holder := none } } else t

/-! ## Pins of translations (R217, R327, R333) -/

/-- The global pseudo-channel of an address, and the memory core that serves it (R327). -/
def channelOf (va : Nat) : Nat := va / 256 % 2304
def servingCore (va : Nat) : Nat := 4096 + channelOf va / 2

/-- Whether an entry holds the page of an address. -/
def TlbEntry.hits (e : TlbEntry) (part va : Nat) : Bool := e.part == part && decide (e.base ≤ va ∧ va < e.base + e.size)

/-- Adds to or takes from the pins of an entry. -/
def TlbEntry.pinned (e : TlbEntry) (up : Bool) : TlbEntry := { e with pins := if up then e.pins + 1 else e.pins - 1 }

/-- Pins or unpins the entry of an address at its serving core (R333). -/
def State.pin (s : State) (part va : Nat) (up : Bool) : State :=
  s.modTile (servingCore va) fun t =>
    { t with core := { t.core with tlb := t.core.tlb.map fun e => if e.hits part va then e.pinned up else e } }

/-! ## Translation (R327 to R334) -/

/-- The bytes of HBM (R2). -/
def hbmSize : Nat := 12 * 2 ^ 36

/-- A page-table entry's fields (R331). -/
def pteValid (e : Word) : Bool := e.getLsbD 63
def pteType (e : Word) : Nat := (e.extractLsb' 61 2).toNat
def pteWrite (e : Word) : Bool := e.getLsbD 60
def pteSvc (e : Word) : Nat := (e.extractLsb' 56 4).toNat
def pteAddr (e : Word) : Nat := (e.extractLsb' 8 32).toNat * 256
/-- The zero fields: [55:40] and [7:0], and SVC of an entry that is no request page. -/
def pteZeros (e : Word) : Bool := e.extractLsb' 40 16 == 0 && e.extractLsb' 0 8 == 0 && (pteType e == 2 || pteSvc e == 0)

/-- Index of a level (R330). -/
def walkIndex (va level : Nat) : Nat :=
  match level with
  | 1 => va / 2 ^ 39 % 512
  | 2 => va / 2 ^ 30 % 512
  | 3 => va / 2 ^ 21 % 512
  | _ => va / 2 ^ 16 % 32

/-- Bytes of the table that a level's table entry names. -/
def tableBytes (level : Nat) : Nat := if level = 3 then 256 else 4096

/-- A walk from a level on (R330, R331), reading each entry with `fetch`: the entry of the page, its size, and the entries read. -/
def walkFrom (fetch : Nat → Word) (va : Nat) : Nat → Nat → Nat → List (Nat × Word) → Option (Word × Nat) × List (Nat × Word)
  | 0, _, _, used => (none, used)
  | n + 1, level, table, used =>
    let pa := table + 8 * walkIndex va level
    let e := fetch pa
    let used := used ++ [(pa, e)]
    if !pteValid e || !pteZeros e || pteType e == 3 then (none, used)
    else if pteType e = 0 then
      if level = 4 ∨ pteAddr e % tableBytes level ≠ 0 ∨ hbmSize < pteAddr e + tableBytes level then (none, used)
      else walkFrom fetch va n (level + 1) (pteAddr e) used
    else
      let size := if level = 3 then 2 ^ 21 else 2 ^ 16
      if level < 3 ∨ pteAddr e % size ≠ 0 ∨ hbmSize < pteAddr e + size
        ∨ (pteAddr e / 2 ^ 16) % 9 ≠ (va / size * size / 2 ^ 16) % 9 then (none, used)
      else (some (e, size), used)

/-- The first core of a core's stack, which keeps the stack's walk cache (R332). -/
def stackHead (core : Nat) : Nat := 4096 + (core - 4096) / 96 * 96

/-- A walk by a core: cached table entries are used, and those read are cached, at most 1,024. -/
def State.walk (s : State) (core part va : Nat) : State × Option (Word × Nat) :=
  let head := stackHead core
  let cache := (s.tile head).core.walkCache
  let fetch (pa : Nat) : Word :=
    match cache.find? fun x => x.1 == part && x.2.1 == pa with
    | some x => x.2.2
    | none => BitVec.ofNat 64 (leNat (Mem.readBytes s.mem pa 8))
  let root := ((s.part? part).map fun p => p.ptroot.toNat).getD 0
  let (r, used) := walkFrom fetch va 4 1 root []
  match r with
  | none => (s, none)
  | some x =>
    let tables := (used.filter fun u => pteType u.2 == 0).filter fun u => !(cache.any fun c => c.1 == part && c.2.1 == u.1)
    (s.modTile head fun t => { t with core := { t.core with walkCache := (tables.map (fun u => (part, u.1, u.2)) ++ cache).take 1024 } }, some x)

/-- Makes room in a TLB of 256 entries: the least recently used entry that nothing pins goes (R332, R333); with every entry pinned, the new
one stands beside them. -/
def tlbInsert (e : TlbEntry) (tlb : List TlbEntry) : List TlbEntry :=
  if tlb.length < 256 then e :: tlb
  else match tlb.reverse.find? fun x => x.pins == 0 with
    | some old => e :: tlb.erase old
    | none => e :: tlb

/-- The TLB entry of an address at its serving core: a hit, or a walk. -/
def State.tlbOf (s : State) (part va : Nat) : State × Option TlbEntry :=
  let core := servingCore va
  let tlb := (s.tile core).core.tlb
  match tlb.find? fun e => e.hits part va with
  | some e => (s.modTile core fun t => { t with core := { t.core with tlb := e :: tlb.erase e } }, some e)
  | none =>
    match s.walk core part va with
    | (s, none) => (s, none)
    | (s, some (pte, size)) =>
      let e : TlbEntry := { part := part, base := va / size * size, size := size, pte := pte }
      (s.modTile core fun t => { t with core := { t.core with tlb := tlbInsert e t.core.tlb } }, some e)

def TlbEntry.pa (e : TlbEntry) (va : Nat) : Nat := pteAddr e.pte + (va - e.base)

/-- The parts of an external run, one in each granule (R328). -/
def granules (va len : Nat) : List (Nat × Nat) :=
  if len = 0 then []
  else (natsFrom (va / 256) ((va + len - 1) / 256 + 1 - va / 256)).map fun g =>
    let a := max va (256 * g)
    (a, min (va + len) (256 * g + 256) - a)

/-- How an access uses a page: a read, a write, or a service request's write (R333, R335). -/
inductive PageUse where
  | read | write | service
  deriving DecidableEq, Repr

/-- Whether a page admits a use: a request page admits only a service request, and writes need W. -/
def TlbEntry.admits (e : TlbEntry) (u : PageUse) : Bool :=
  match u with
  | .read => pteType e.pte == 1
  | .write => pteType e.pte == 1 && pteWrite e.pte
  | .service => pteWrite e.pte

/-- Translates every part of a run: none where one fails (R333). -/
def State.probe (s : State) (part : Nat) (use : PageUse) : List (Nat × Nat) → Option State
  | [] => some s
  | (va, _) :: rest =>
    match s.tlbOf part va with
    | (s, some e) => if e.admits use then s.probe part use rest else none
    | (_, none) => none

/-- The physical bytes of a run, part by part: none where translation fails. -/
def State.extPas (s : State) (part : Nat) (use : PageUse) : List (Nat × Nat) → Option (State × List (Nat × Nat))
  | [] => some (s, [])
  | (va, len) :: rest =>
    match s.tlbOf part va with
    | (s, some e) =>
      if e.admits use then (s.extPas part use rest).map fun (s, l) => (s, (e.pa va, len) :: l) else none
    | (_, none) => none

/-- A check that has failed translation is logged for the steward (R333): the partition, the address and the reason. -/
def State.logWalk (s : State) (ctxnum cause : Nat) (p : Word) : State :=
  if cause = Cause.translate then
    let part := ((s.launch? ctxnum).map Launch.part).getD 0
    let va := (p.extractLsb' 0 48).toNat
    match (s.tlbOf part va).2 with
    | none => s.report (.translate part va 0)
    | some e => s.report (.translate part va (if pteType e.pte = 2 then 2 else 1))
  else s

/-! ## Commands that are given up -/

/-- Discards the commands that an uncommitted buffer holds, and lets go of what their probes pinned (R216, R217, R299, R436). -/
def State.dropCommands (s : State) (n : Nat) (buf : List Item) : State :=
  let ids := buf.filterMap fun i => match i with | .command _ k => some k | _ => none
  let out := (s.tile n).ops.filter fun o => ids.contains o.id && o.stage == .held
  let s := out.foldl (fun s o => o.pins.foldl (fun s va => s.pin (((s.launch? o.issuer.ctxnum).map Launch.part).getD 0) va false) s) s
  let free (x : Option Partial) : Option Partial := x.filter fun p => !(out.any fun o => o.id == p.op)
  s.modTile n fun t =>
    { t with ops := t.ops.filter fun o => !(out.contains o), coll := { t.coll with shadow := t.coll.shadow.map free } }

/-- The engine commands that a speculative instruction has put into the commit buffer (R78). -/
def Deferred.commands : Deferred → List Item
  | .command eng id => [.command eng id]
  | .consume id => [.command 0 id]
  | .produce _ id => [.command 0 id]
  | _ => []

/-- What a context has not committed, with the commands that wait for a branch. -/
def Ctx.uncommitted (c : Ctx) : List Item := c.buf ++ c.deferred.flatMap Deferred.commands

/-- The rows of a context go back to its image, and the berth is free (R20, R209). -/
def freeBerth (s : State) (n b : Nat) (c : Ctx) : State :=
  let s := s.modLaunch c.ctxnum fun l =>
    { l with images := match lookup c.image l.images with
        | some i => insertAt c.image { i with rows := c.rows, rowPoison := c.rowPoison } l.images
        | none => l.images }
  let s := if c.inlinePlace then s.modTile n fun t => { t with inboxInline := t.inboxInline - 1 } else s
  s.modBerth n b fun x => { x with ctx := none, spec := none, latch := none, yielding := false, yieldHeld := false,
                                   preemptReq := none, energyReq := none, nextIssue := s.now + 1 }

/-- An empty commit keeps an ended ordered task's place in the sequence (R436). -/
def emptyTracker (t : Tile) (n b : Nat) (c : Ctx) : Tracker :=
  { id := t.nextTracker, issuer := { ctxnum := c.ctxnum, tile := n, berth := b, age := c.age, image := c.image, ordered := true },
    task := c.task, floor := c.floor, committed := false, emptyCommit := true }

/-- A context ends instead of entering a handler (R436): its uncommitted work is discarded, its units are released, and a report with
the frame goes to the steward. -/
def endContext (s : State) (n b cause : Nat) (value : Word) : State :=
  match s.ctx? n b with
  | none => s
  | some c =>
    let s := (s.modTile n fun t => releaseUnits t b).dropCommands n c.uncommitted
    let s := s.modTile n fun t =>
      if c.task.cls != 0 then { t with trackers := t.trackers ++ [emptyTracker t n b c], nextTracker := t.nextTracker + 1 } else t
    let frame := (natsFrom (c.cr.mwl.toNat - 16) 16).flatMap fun r => rowBytes (rowsGet c.rows r)
    (freeBerth s n b c).report (.ended c.ctxnum c.task.launch.toNat c.task.src.toNat c.task.ts cause value frame)

/-- TAKING A TRAP (R228, R436): the trapped context's frame and queue are saved, TRAPCAUSE, TRAPVAL and REPLAYN set, and the berth enters
the launch's trap handler 16 cycles on. A trap inside the handler, in a launch with no trap entry, or on a memory core ends the context (R336).
A failed translation that nothing has logged before is logged (R333). -/
def takeTrap (s : State) (n b cause : Nat) (value : Word) (tpc rpc : BitVec 48) (sigma : Nat := 0) (logged : Bool := false) : State :=
  match s.ctx? n b with
  | none => s
  | some c =>
    let s := occupySlot (if logged || c.fault.isSome then s else s.logWalk c.ctxnum cause value) n b
    if c.inHandler then
      endContext s n b cause value
    else
      let entry := ((s.launch? c.ctxnum).map Launch.trapEntry).getD 0
      let s := saveTrap s n b cause value tpc rpc sigma
      if entry = 0 || isCore n then endContext s n b cause value
      else
        (s.modCtx n b fun c => { c with pc := entry, inHandler := true }).modBerth n b
          fun x => { x with latch := none, nextIssue := s.now + 16, readySince := s.now + 16 }

/-- The replay entry being issued leaves the replay queue (R231). -/
def popReplay (s : State) : State :=
  if s.cur.replay.isSome then s.modCtx s.cur.tile s.cur.berth fun c => { c with replay := c.replay.tail } else s

/-- A bounded wait at issue: the berth tries again in the next cycle and is not ready in this one (R70, R361). -/
def holdIssue (s : State) : State :=
  s.modBerth s.cur.tile s.cur.berth fun x => { x with nextIssue := s.now + 1, readySince := s.now + 1 }

/-- Writes the view back: the context into its berth, and the touches into the main file. -/
def View.commit (v : View) : State :=
  let s := v.s.setCtx v.s.cur.tile v.s.cur.berth v.ctx
  if v.touched.isEmpty || isCore v.s.cur.tile then s else s.touchRows v.s.cur.tile v.ctx.ctxnum v.ctx.image v.touched

/-- The spacing that the issuing word's SC encodes (R70). -/
def issueSigma (s : State) : Nat := 1 + (s.cur.word.extractLsb' 0 3).toNat

/-- The trap PC and resume PC of the issuing instruction (R227, R231): a replay entry's stand at its EPC. -/
def trapPcs (s : State) (c : Ctx) (cause : Nat) : BitVec 48 × BitVec 48 :=
  match s.cur.replay with
  | some r => (r.epc, if cause = Cause.soft ∨ cause = Cause.brk then r.epc + BitVec.ofNat 48 s.cur.len else r.epc)
  | none => (c.pc, if cause = Cause.soft ∨ cause = Cause.brk then c.pc + BitVec.ofNat 48 s.cur.len else c.pc)

/-- Runs an instruction of the issuing berth: its effect, its trap, or its wait. A trap that a speculative instruction raises waits for the
branch (R77). A berth that runs no task issues nothing. -/
def runView (f : View → Ex View) (s : State) : Out :=
  match s.ctx? s.cur.tile s.cur.berth with
  | none => .next s
  | some c =>
    match f { s := s, ctx := c } with
    | .ok v => .next v.commit
    | .error .hold => .next (holdIssue s)
    | .error (.trap cause value) =>
      if (s.berth s.cur.tile s.cur.berth).spec.isSome then .next (holdIssue s)
      else .next (takeTrap (popReplay s) s.cur.tile s.cur.berth cause value (trapPcs s c cause).1 (trapPcs s c cause).2 (issueSigma s))

/-- The spacing of a stall count (R70). -/
def spacing (sc : BitVec 3) : Nat := 1 + sc.toNat

/-- Results no longer pending by distance and finished are dropped from the oldest end. -/
def dropSettled (dist now : Nat) (ps : List Pend) : List Pend :=
  (ps.reverse.dropWhile fun p => decide (p.due ≤ dist) && decide (p.doneAt ≤ now)).reverse

/-- The issue completes (R61, R70, R72): PC moves past the instruction and the next issue is spaced. A replay entry moves neither PC nor
the encoded distance (R75). -/
def View.advance (v : View) (sc : BitVec 3) : View :=
  let s := occupySlot v.s v.s.cur.tile v.s.cur.berth
  let s := s.modBerth s.cur.tile s.cur.berth fun x =>
    { x with nextIssue := s.now + spacing sc, readySince := s.now + spacing sc, latch := none }
  match v.s.cur.replay with
  | some _ => { v with s := s, ctx := { v.ctx with replay := v.ctx.replay.tail } }
  | none => { v with s := s, ctx := { v.ctx with
      pc := v.ctx.pc + BitVec.ofNat 48 v.s.cur.len, dist := v.ctx.dist + spacing sc,
      pend := dropSettled (v.ctx.dist + spacing sc) v.s.now v.ctx.pend } }

/-- Waits at issue while a condition does not hold. -/
def waitUntil (ready : Bool) : Ex Unit := if ready then .ok () else .error .hold

/-- Waits for every earlier branch of the berth (R78, R236). -/
def View.resolved (v : View) : Ex Unit := waitUntil (!v.specOpen)

end Sys2Proof.Machine
end

