-- ==== Sys2Proof/Machine/Operands.lean ====
section
/-!
DEFINITION. Operand specifiers (R64, R16), row numbers (R14), pending results and stale reads (R72 to R74), the operand traps in the order
of R80, reading sources (R125, R149) and writing results (R66, R125, R150).
-/
namespace Sys2Proof.Machine

/-- A 7-bit operand specifier (R64). -/
inductive Opnd where
  | q (n : Nat)
  | g (n : Fin 32)
  | z
  | lid
  | bad
  | wi (i : Nat)
  | w (n : Nat)
  deriving DecidableEq, Repr

def Opnd.of (c : BitVec 7) : Opnd :=
  let n := c.toNat
  if n < 16 then .q (n + 1)
  else if n < 48 then .g (Fin.ofNat 32 (n - 16))
  else if n = 48 then .z
  else if n = 49 then .lid
  else if n < 56 then .bad
  else if n < 64 then .wi (n - 56)
  else .w (n - 64)

/-- How an instruction uses an operand field (R83). -/
inductive Role where
  /-- A source read as a scalar or a vector. -/
  | src (vec : Bool)
  /-- A destination of a scalar or vector result. -/
  | dst (vec : Bool)
  /-- Read as a source and then written (R66). -/
  | rw (vec : Bool)
  /-- Base of eight registers (R10), or also Z. -/
  | octet (orZ : Bool)
  deriving DecidableEq, Repr

/-- A used field: 1 D, 2 A, 3 B (R73). -/
structure Use where
  field : Nat
  code : BitVec 7
  role : Role
  deriving DecidableEq, Repr

def Role.reads : Role → Bool
  | .src _ | .rw _ | .octet _ => true
  | .dst _ => false
def Role.writes : Role → Bool
  | .dst _ | .rw _ => true
  | _ => false
def Role.isVec : Role → Bool
  | .src v | .dst v | .rw v => v
  | .octet _ => false

/-! ## Pending results and stale reads (R72 to R74) -/

/-- The value a location had for a consumer at a distance: past every newest producer that is not covered (R74). -/
def staleValue (dist : Nat) : α → List (Nat × α) → α
  | cur, [] => cur
  | cur, (due, old) :: l => if dist < due then staleValue dist old l else cur

def Ctx.staleG (c : Ctx) (n : Fin 32) : Word :=
  staleValue c.dist c.g[n] (c.pend.filterMap fun p => match p.dest with
    | .g m old => if m = n then some (p.due, old) else none
    | _ => none)

def Ctx.staleMask (c : Ctx) (n : Fin 8) : Mask :=
  staleValue c.dist c.k[n] (c.pend.filterMap fun p => match p.dest with
    | .mask m old => if m = n then some (p.due, old) else none
    | _ => none)

def Ctx.staleSlot (c : Ctx) (i : Fin 16) : QSlot :=
  staleValue c.dist c.q.slots[i] (c.pend.filterMap fun p => match p.slot with
    | some (j, old) => if j = i then some (p.due, old) else none
    | none => none)

def View.staleRow (v : View) (n : Nat) : Row :=
  staleValue v.ctx.dist (v.row n) (v.ctx.pend.filterMap fun p => match p.dest with
    | .row m old => if m = n then some (p.due, old) else none
    | _ => none)

/-- A place a pending result writes. -/
inductive Loc where
  | g (n : Fin 32)
  | row (n : Nat)
  | mask (n : Fin 8)
  | slot (i : Fin 16)
  deriving DecidableEq, Repr

def Pend.writes (p : Pend) : Loc → Bool
  | .g n => match p.dest with | .g m _ => m == n | _ => false
  | .row n => match p.dest with | .row m _ => m == n | _ => false
  | .mask n => match p.dest with | .mask m _ => m == n | _ => false
  | .slot i => match p.slot with | some (j, _) => j == i | none => false

/-- The shortfall of a location: the largest L minus distance over its uncovered producers (R72, R73); 0 when covered. -/
def Ctx.shortfall (c : Ctx) (l : Loc) : Nat :=
  ((c.pend.filter (·.writes l)).map fun p => p.due - c.dist).foldl max 0

/-- An interlocked producer of the location whose value does not exist yet (R71). -/
def Ctx.awaits (c : Ctx) (now : Nat) (l : Loc) : Bool :=
  c.pend.any fun p => p.interlocked && p.writes l && decide (now < p.doneAt)

/-! ## Rows named by operands (R14) -/

def View.indexReg (i : Nat) : Fin 32 := Fin.ofNat 32 (24 + i)

/-- The row number an operand names. -/
def View.rowOf (v : View) (o : Opnd) : Option Nat :=
  match o with
  | .w n => some (v.ctx.cr.mwb.toNat + n)
  | .wi i => some (v.ctx.cr.mwb.toNat + (v.ctx.staleG (View.indexReg i)).toNat)
  | _ => none

/-- The locations a source operand depends on, the row before its index register (R72, R73). -/
def View.locs (v : View) (o : Opnd) : List Loc :=
  match o with
  | .q n => [.slot (v.ctx.q.slotOf n)]
  | .g n => [.g n]
  | .wi i => (match v.rowOf o with | some r => [.row r] | none => []) ++ [.g (View.indexReg i)]
  | .w _ => match v.rowOf o with | some r => [.row r] | none => []
  | _ => []

/-- TRAPVAL of an operand trap (R80). -/
def opndValue (u : Use) : Word := BitVec.ofNat 64 (u.field * 256 + u.code.toNat)

/-! ## The operand traps in order (R80) -/

/-- R64, R10, R16: an operand code its field does not admit. -/
def Use.badCode (u : Use) : Bool :=
  let o := Opnd.of u.code
  let badDst := match o with
    | .q n => n != 1
    | .lid => true
    | .bad => true
    | .g _ => u.role.isVec
    | _ => false
  match u.role with
  | .src _ => o == .bad
  | .dst _ => badDst
  | .rw _ => o == .bad || badDst
  | .octet orZ => match o with
    | .g n => n.val % 8 != 0
    | .z => !orZ
    | _ => true

/-- The first use that satisfies a test. -/
def firstUse (f : Use → Bool) (us : List Use) : Option Use := us.find? f

/-- R17: an accumulator row under a VTYPE whose element width is not ACCMODE's. -/
def View.accMismatch (v : View) (w : Nat) (u : Use) : Bool :=
  match v.rowOf (Opnd.of u.code) with
  | some n => decide (896 ≤ n) && v.rowValid n && decide (w ≠ if v.accmode.getLsbD 0 then 16 else 32)
  | none => false

/-- The rows of a run that field D names (R184): the first row and how many. -/
abbrev Run := Option (Nat × Nat)

/-- The first row of a run that does not lie below MWL (R184). -/
def View.badRunRow (v : View) (first : Nat) : Nat → Option Nat
  | 0 => none
  | n + 1 => if first < v.ctx.cr.mwl.toNat then v.badRunRow (first + 1) n else some first

/-- The rows of a run beside the row of the operand itself. -/
def Run.rows (run : Run) (u : Use) : List Nat :=
  match run with
  | some (first, n) => if u.field = 1 then natsFrom first n else []
  | none => []

/-- R14, R15, R184: the first row of a used row operand, or of the run it begins, that is not valid. -/
def View.badRow (v : View) (run : Run) (u : Use) : Option Nat :=
  match run, u.field with
  | some (first, n), 1 => v.badRunRow first n
  | _, _ => match v.rowOf (Opnd.of u.code) with
    | some n => if v.rowValid n then none else some n
    | none => none

def firstSome (f : α → Option β) : List α → Option β
  | [] => none
  | a :: l => match f a with | some b => some b | none => firstSome f l

/-- R12: the position of an expired entry that a source names. An uncovered position reads its former entry, and no expiry traps there (R73,
R74). -/
def View.expiredPos (v : View) (u : Use) : Option Nat :=
  match Opnd.of u.code with
  | .q n =>
    let i := v.ctx.q.slotOf n
    if u.role.reads && v.ctx.shortfall (.slot i) == 0 && (v.ctx.q.slots[i]).dead v.now then some n else none
  | _ => none

/-- R73: an uncovered operand, or row of the run it begins: its code, field and shortfall. -/
def View.shortUse (v : View) (run : Run) (u : Use) : Option Word :=
  if !u.role.reads then
    -- a destination row named through an index register still reads that register
    match Opnd.of u.code with
    | .wi i => let s := v.ctx.shortfall (.g (View.indexReg i)); if s = 0 then none else some (BitVec.ofNat 64 (s * 65536) ||| opndValue u)
    | _ => none
  else firstSome (fun l => let s := v.ctx.shortfall l; if s = 0 then none else some (BitVec.ofNat 64 (s * 65536) ||| opndValue u))
    (match u.role with
      | .octet _ => match Opnd.of u.code with
        | .g n => (natsFrom n.val 8).map fun k => .g (Fin.ofNat 32 k)
        | _ => []
      | _ => (run.rows u).map Loc.row ++ v.locs (Opnd.of u.code))

/-- R73: an uncovered mask: the mask's number, field 0 and the shortfall. -/
def View.shortMask (v : View) (k : Fin 8) : Option Word :=
  let s := v.ctx.shortfall (.mask k)
  if s = 0 then none else some (BitVec.ofNat 64 (s * 65536 + k.val))

/-- A collective command whose shadow copy of accumulator tile `a` has not been made (R375). -/
def Tile.shadowPending (t : Tile) (a : Nat) : Bool :=
  t.ops.any fun o => o.eng == 2 && (o.stage == .queued || o.stage == .held) && ((t.coll.shadow[Fin.ofNat 2 a]).map Partial.op != some o.id) && match o.kind with
    | .record bs => bs.getD 2 0 == BitVec.ofNat 8 (a + 1)
    | _ => false

/-- R18, R375: a queued operation of the matrix unit that works on accumulator tile `a`, or a shadow copy that waits. -/
def Tile.accBusy (t : Tile) (a : Nat) : Bool :=
  t.shadowPending a || t.mx.queue.any fun o => match o.kind with
    | .mma _ x _ _ => x == a
    | .macc _ => true
    | .drain x _ => x == a
    | _ => false

/-- Whether an operand must be waited for: an interlocked value, or an accumulator row under operations (R18, R71). -/
def View.waits (v : View) (run : Run) (u : Use) : Bool :=
  let o := Opnd.of u.code
  (u.role.reads && (run.rows u).any fun r => v.ctx.awaits v.now (.row r)) ||
  (u.role.reads && (match u.role, o with
    | .octet _, .g n => (natsFrom n.val 8).any fun k => v.ctx.awaits v.now (.g (Fin.ofNat 32 k))
    | _, _ => (v.locs o).any (v.ctx.awaits v.now))) ||
  (match o with
    | .wi i => v.ctx.awaits v.now (.g (View.indexReg i))
    | _ => false) ||
  (match v.rowOf o with
    | some n => decide (896 ≤ n) && v.tile.accBusy ((n - 896) / 64)
    | none => false)

/-- The main-file rows that an instruction names, in the order D, A, B and then those of its group (R282). -/
def View.rowNames (v : View) (us : List Use) (run : Run := none) : List Nat :=
  (us.filterMap (fun u => v.rowOf (Opnd.of u.code)) ++ us.flatMap run.rows).filter fun n => decide (n < 896)

/-- R281: a berth pins at most 48 entries, and a fill waits while the write-back buffer has no place for its victims. -/
def View.fileHeld (v : View) (us : List Use) (run : Run) : Bool :=
  let rows := v.rowNames us run
  let pins := v.ctx.pinnedRows v.now
  if rows.isEmpty || isCore v.s.cur.tile then false
  else (!pins.isEmpty && decide (48 < (rows.foldl (fun xs x => addOnce x xs) pins).length)) ||
    (decide (0 < v.tile.writingBack) && decide (4 < v.tile.writingBack +
      ((v.s.touchedFile v.s.cur.tile v.ctx.ctxnum v.ctx.image (rows.map fun r => (r, false))).2.filter Prod.snd).length))

/-- R288: a source row that holds a poisoned word. -/
def View.poisonedRow (v : View) (run : Run) (u : Use) : Option Nat :=
  ((v.rowOf (Opnd.of u.code)).toList ++ run.rows u).find? fun n =>
    u.role.reads && ((v.ctx.rowPoison.any fun p => p.1 == n) || (decide (896 ≤ n) && v.tile.mx.accPoison.contains n))

/-- The destination row of a replay entry (R229). -/
def Replay.badRow (v : View) (r : Replay) : Option Nat :=
  if r.dstKind = 2 ∧ ¬ v.rowValid r.dstNum then some r.dstNum else none

/-- Every operand check of an instruction, in the order of R80, with `width` the element width R17 holds a use's accumulator row to (none
where it holds it to none), `bad` the codes the instruction itself does not admit, `masks` the masks it reads and `run` the rows that D
begins. Operands of a replay entry are captured, so only its codes and its destination row are checked. -/
def View.checkWith (v : View) (us : List Use) (masks : List (Fin 8)) (width : Use → Option Nat) (bad : Use → Bool) (run : Run := none) : Ex Unit :=
  match firstUse (fun u => u.badCode || bad u || (v.s.cur.replay.isNone && (width u).any fun w => v.accMismatch w u)) us with
  | some u => trapWith Cause.illopnd (opndValue u)
  | none =>
    match v.s.cur.replay with
    | some r => match (r.badRow v).or (run.bind fun x => v.badRunRow x.1 x.2) with
      | some n => trapWith Cause.regwin (BitVec.ofNat 64 n)
      | none => .ok ()
    | none =>
      match firstSome (v.badRow run) us with
        | some n => trapWith Cause.regwin (BitVec.ofNat 64 n)
        | none => match firstSome v.expiredPos us with
          | some n => trapWith Cause.expired (BitVec.ofNat 64 n)
          | none => match (if v.ctx.cr.scbchk then firstSome (v.shortUse run) us else none) with
            | some x => trapWith Cause.stallshort x
            | none => match (if v.ctx.cr.scbchk then firstSome v.shortMask masks else none) with
              | some x => trapWith Cause.stallshort x
              | none =>
                if us.any (v.waits run) || masks.any (fun k => v.ctx.awaits v.now (.mask k)) || v.fileHeld us run then .error .hold
                else match firstSome (v.poisonedRow run) us with
                  | some n => trapWith Cause.poison (BitVec.ofNat 64 n)
                  | none => .ok ()

/-- The checks of an instruction with one element width, or of a scalar instruction. -/
def View.check (v : View) (us : List Use) (masks : List (Fin 8)) (width : Option Nat) : Ex Unit :=
  v.checkWith us masks (fun _ => width) (fun _ => false)

/-! ## Reading sources -/

/-- The element count of VTYPE: LID as a scalar (R16). -/
def View.lidScalar (v : View) : Word := BitVec.ofNat 64 v.etype.count

def Val.low : Val → Word
  | .scalar w => w
  | .vector r => Row.low r

/-- A scalar broadcast to every element (R16). -/
def broadcast (w : Nat) (x : Nat) : Row := rowOfElems w ((natsFrom 0 (2048 / w)).map fun _ => x)

/-- LID as a vector in a format (R16, R161). -/
def lidRow (t : EType) : Row := rowOfElems t.width ((natsFrom 0 t.count).map (elemOfNat t))

def Val.asRow (w : Nat) : Val → Row
  | .scalar x => broadcast w x.toNat
  | .vector r => r

/-- The captured value of a replay entry's field; a reference the frame lacks is a free value. -/
def Replay.field (r : Replay) (free : Word) (field : Nat) : Val :=
  ((match field with | 1 => r.ops.d | 2 => r.ops.a | _ => r.ops.b)).getD (.scalar free)

/-- The value of a source operand, a row or a queue entry as it stands (R64, R65, R74). -/
def View.operand (v : View) (o : Opnd) : Val :=
  match o with
  | .q n => (v.ctx.staleSlot (v.ctx.q.slotOf n)).val
  | .g n => .scalar (v.ctx.staleG n)
  | .z => .scalar 0
  | .lid => .scalar v.lidScalar
  | .bad => .scalar 0
  | o => match v.rowOf o with
    | some n => .vector (v.staleRow n)
    | none => .scalar 0

/-- A scalar source (R125). -/
def View.scalar (v : View) (field : Nat) (c : BitVec 7) : Word :=
  match v.s.cur.replay with
  | some r => (r.field (Config.freeWord v.s.steps field) field).low
  | none => (v.operand (Opnd.of c)).low

/-- A vector source of element type `t` (R149). -/
def View.vector (v : View) (t : EType) (field : Nat) (c : BitVec 7) : Row :=
  match v.s.cur.replay with
  | some r => (r.field (Config.freeWord v.s.steps field) field).asRow t.width
  | none => match Opnd.of c with
    | .lid => lidRow t
    | o => (v.operand o).asRow t.width

/-- The value a source gives a frame (R229): the scalar it passes, or the vector it passes. -/
def View.captured (v : View) (t : EType) (u : Use) : Val :=
  if u.role.isVec then
    match v.s.cur.replay with
    | some r => r.field (Config.freeWord v.s.steps u.field) u.field
    | none => match Opnd.of u.code with
      | .lid => .vector (lidRow t)
      | o => v.operand o
  else .scalar (v.scalar u.field u.code)

/-- The captured operands of an instruction's uses (R149, R291). -/
def View.capture (v : View) (t : EType) (us : List Use) (mask : Option Mask) : Captured :=
  let get (f : Nat) : Option Val := (us.find? fun u => u.field == f && u.role.reads).map (v.captured t)
  { d := get 1, a := get 2, b := get 3, mask := mask, rows := if v.s.cur.replay.isSome then [] else v.rowNames us }

/-- A governing mask, for which k0 reads as all ones (R21). -/
def View.governing (v : View) (k : Fin 8) : Mask :=
  match v.s.cur.replay with
  | some r => r.ops.mask.getD (Config.freeRow v.s.steps 4 |>.extractLsb' 0 256)
  | none => if k = 0 then BitVec.allOnes 256 else v.ctx.staleMask k

/-- A mask read as an ordinary register (R172). -/
def View.maskReg (v : View) (k : Fin 8) : Mask :=
  match v.s.cur.replay with
  | some r => r.ops.mask.getD (Config.freeRow v.s.steps 4 |>.extractLsb' 0 256)
  | none => v.ctx.staleMask k

/-! ## Writing results -/

/-- Where a result goes and whether it is pushed: by the destination code, or by DST and QPOS of a replay entry (R64, R229). -/
inductive Target where
  | queue | g (n : Fin 32) | row (n : Nat) | mask (n : Fin 8) | discard
  deriving DecidableEq, Repr

def View.target (v : View) (d : BitVec 7) : Target :=
  match v.s.cur.replay with
  | some r => match r.dstKind with
    | 0 => .queue
    | 1 => .g (Fin.ofNat 32 r.dstNum)
    | 2 => .row r.dstNum
    | 3 => .mask (Fin.ofNat 8 r.dstNum)
    | _ => .discard
  | none => match Opnd.of d with
    | .g n => .g n
    | .z => .discard
    | o => match v.rowOf o with
      | some n => .row n
      | none => .queue

/-- The pending entry of a result with latency `l` (R71). -/
def View.pendOf (v : View) (dest : Dest) (slot : Option (Fin 16 × QSlot)) (l : Nat) (inter replayable : Bool) (ops : Captured) : Pend :=
  { word := v.s.cur.word, epc := match v.s.cur.replay with | some r => r.epc | none => v.ctx.pc,
    vt := v.vtype, am := v.accmode, dest := dest, slot := slot,
    due := (match v.s.cur.replay with
      | some r => r.issued.getD v.ctx.dist
      | none => v.ctx.dist) + if inter then 0 else l,
    latency := l, doneAt := v.now + l, interlocked := inter, replayable := replayable, ops := ops }

/-- Pushes a value, or puts it at a replay entry's position (R11, R229); gives the slot and what it held. -/
def View.pushVal (v : View) (x : Val) : View × Option (Fin 16 × QSlot) :=
  match v.s.cur.replay with
  | some r =>
    if 1 ≤ r.qpos ∧ r.qpos ≤ 16 then
      let i := v.ctx.q.slotOf r.qpos
      ({ v with ctx := { v.ctx with q := { v.ctx.q with slots := v.ctx.q.slots.set i (.ofVal x v.now) } } }, some (i, v.ctx.q.slots[i]))
    else (v, none)
  | none =>
    let q' := v.ctx.q.push (.ofVal x v.now)
    ({ v with ctx := { v.ctx with q := q' } }, some (q'.head, v.ctx.q.slots[q'.head]))

/-- Adds a pending result; a write of the trap handler supersedes an older uncovered one of the same place. -/
def View.addPend (v : View) (p : Pend) : View :=
  { v with ctx := { v.ctx with pend := p :: v.ctx.pend, savedPend := v.ctx.savedPend.filter fun q => !p.dest.same q.dest } }

/-- Writes a result under the destination column of R64 with latency `l`: the location, the push, and the pending entry. -/
def View.result (v : View) (d : BitVec 7) (x : Val) (l : Nat) (ops : Captured) (inter : Bool := false) (replayable : Bool := true) : View :=
  match v.target d with
  | .discard => v.addPend (v.pendOf .discard none l inter replayable ops)
  | .mask n =>
    let old := v.ctx.k[n]
    let v := { v with ctx := { v.ctx with k := v.ctx.k.set n (x.asRow 8 |>.extractLsb' 0 256) } }
    v.addPend (v.pendOf (.mask n old) none l inter replayable ops)
  | .queue =>
    let (v', slot) := v.pushVal x
    v'.addPend (v.pendOf .queue slot l inter replayable ops)
  | .g n =>
    let old := v.ctx.g[n]
    let (v', slot) := v.pushVal x
    let v' := { v' with ctx := { v'.ctx with g := v'.ctx.g.set n x.low } }
    v'.addPend (v.pendOf (.g n old) slot l inter replayable ops)
  | .row n =>
    let old := v.row n
    let (v', slot) := v.pushVal x
    let v' := match x with
      | .scalar w => v'.setRow n (Row.withLow old w)
      | .vector r => (v'.setRow n r).unpoisonRow n
    v'.addPend (v.pendOf (.row n old) slot l inter replayable ops)

/-- Writes all 256 bits of a mask register with latency `l` (R159, R172). -/
def View.setMask (v : View) (k : Fin 8) (m : Mask) (l : Nat) (ops : Captured) : View :=
  match v.s.cur.replay with
  | some _ => v.result 0 (.vector (m.zeroExtend 2048)) l ops
  | none =>
    let old := v.ctx.k[k]
    let v := { v with ctx := { v.ctx with k := v.ctx.k.set k m } }
    v.addPend (v.pendOf (.mask k old) none l false true ops)

/-- The rows that an instruction names are touched in the order in which their fills come (R279, R282); the write of D follows with its
result. -/
def View.touchSources (v : View) (us : List Use) (run : Run := none) : View :=
  match v.s.cur.replay with
  | some _ => v
  | none => { v with touched := v.touched ++ (v.rowNames us run).map fun n => (n, false) }

def kIx (k : BitVec 3) : Fin 8 := Fin.ofNat 8 k.toNat

/-- The kept rows and buffered lines of an ordered task must fit the store buffer (R302): four entries for each kept row. -/
def addLines (ls : List Nat) (i : Item) : List Nat :=
  let add (ls : List Nat) (w : Nat × List Byte) : List Nat :=
    (natsFrom (w.1 / 64) ((w.1 + w.2.length - 1) / 64 + 1 - w.1 / 64)).foldl (fun ls l => if ls.contains l then ls else l :: ls) ls
  match i with
  | .store off data => add ls (off, data)
  | .insert _ _ ws => ws.foldl add ls
  | _ => ls

def storeLines (buf : List Item) : List Nat := buf.foldl addLines []

/-- The items of a RINGP that waits for a branch (R78). -/
def Deferred.items : Deferred → List Item
  | .produce is _ => is
  | _ => []

/-- Entries of the store buffer in use (R302). -/
def Ctx.storeEntries (c : Ctx) : Nat := (storeLines (c.deferred.flatMap Deferred.items ++ c.buf)).length + 4 * c.kept.length

/-- The store-buffer check of an instruction that would write a resident row of an ordered task (R299, R302). -/
def View.keepRoom (v : View) (us : List Use) : Ex Unit :=
  match firstSome (fun u => if u.role.writes then v.rowOf (Opnd.of u.code) else none) us with
  | some n =>
    if v.ordered && decide (n < v.ctx.resident) && (lookup n v.ctx.kept).isNone && decide (256 < v.ctx.storeEntries + 4)
    then trapWith Cause.ringover (BitVec.ofNat 64 (256 * n)) else .ok ()
  | none => .ok ()

end Sys2Proof.Machine
end

