-- ==== Sys2Proof/Machine/Flags.lean ====
section
/-!
DEFINITION. Conditions. The device has no condition codes, carry flag or overflow flag (R125); what stands in their place are the branch
conditions (R139), the set-on-compare values (R132) and the masks the vector compares write (R159).
-/
namespace Sys2Proof.Machine

/-- 1 or 0 (R132). -/
def bit (b : Bool) : Word := if b then 1 else 0

/-- A branch condition over A and q1 (R139). -/
inductive Cond where
  | eq | ne | lt | ge | ltn | gen
  deriving DecidableEq, Repr

def Cond.holds (c : Cond) (a q : Word) : Bool :=
  match c with
  | .eq => a == q
  | .ne => a != q
  | .lt => a.slt q
  | .ge => !a.slt q
  | .ltn => a.ult q
  | .gen => !a.ult q

/-- A mask of the positions below 256 at which a test holds. -/
def maskOf (f : Nat → Bool) : Nat → Nat
  | 0 => 0
  | n + 1 => maskOf f n + (if f n then 2 ^ n else 0)

/-- A vector compare's mask (R159): positions at or past n, and inactive positions, are 0. -/
def compareMask (cond : Option Int → Bool) (t : EType) (m : Mask) (a b : Row) : Mask :=
  let bits := (((rowElems t.width a).zip (rowElems t.width b)).zipIdx).map fun ((x, y), i) =>
    if m.getLsbD i && cond (elemCmp t x y) then 1 else 0
  BitVec.ofNat 256 (pack 1 bits)

end Sys2Proof.Machine
end

