-- ==== Sys2Proof/Machine/Scalar.lean ====
section
/-!
DEFINITION. Scalar and address instructions, opcodes 0x00 to 0x2c (R125 to R138).
-/
namespace Sys2Proof.Machine

/-- Checks a scalar instruction's operands, evaluates it on its sources and writes the result with latency `l` (R125, R126). -/
def scalarResult (us : List Use) (l : Nat) (d : BitVec 7) (f : View → Word) (sc : BitVec 3) (v : View) : Ex View := do
  v.check us [] none
  v.keepRoom us
  .ok (((v.touchSources us).result d (.scalar (f v)) l (v.capture v.etype us none)).advance sc)

def usesDA (d a : BitVec 7) : List Use := [⟨1, d, .dst false⟩, ⟨2, a, .src false⟩]
def usesDAB (d a b : BitVec 7) : List Use := [⟨1, d, .dst false⟩, ⟨2, a, .src false⟩, ⟨3, b, .src false⟩]
def usesRwAB (d a b : BitVec 7) : List Use := [⟨1, d, .rw false⟩, ⟨2, a, .src false⟩, ⟨3, b, .src false⟩]

/-- One source. -/
def scalar1 (f : Word → Word) (l : Nat) (d a : BitVec 7) (sc : BitVec 3) : View → Ex View :=
  scalarResult (usesDA d a) l d (fun v => f (v.scalar 2 a)) sc

/-- Two sources. -/
def scalar2 (f : Word → Word → Word) (l : Nat) (d a b : BitVec 7) (sc : BitVec 3) : View → Ex View :=
  scalarResult (usesDAB d a b) l d (fun v => f (v.scalar 2 a) (v.scalar 3 b)) sc

/-- Two sources and D, read under R66. -/
def scalar3 (f : Word → Word → Word → Word) (l : Nat) (d a b : BitVec 7) (sc : BitVec 3) : View → Ex View :=
  scalarResult (usesRwAB d a b) l d (fun v => f (v.scalar 1 d) (v.scalar 2 a) (v.scalar 3 b)) sc

/-- A sign-extended IMM7 (R63). -/
def simm7 (imm : BitVec 7) : Word := imm.signExtend 64

/-! ## The values (R127 to R137) -/

/-- Significant bits of a natural. -/
def sigBits (n : Nat) : Nat := if n = 0 then 0 else Nat.log2 n + 1

/-- R127. -/
def mulHigh (a b : Word) : Word := BitVec.ofInt 64 (a.toInt * b.toInt / 2 ^ 64)
def mulHighN (a b : Word) : Word := BitVec.ofNat 64 (a.toNat * b.toNat / 2 ^ 64)

/-- R128: trunc rounds towards zero; the divisor zero and the overflow have the values the rule lists. -/
def divS (a b : Word) : Word := if b = 0 then BitVec.allOnes 64 else BitVec.ofInt 64 (a.toInt.tdiv b.toInt)
def remS (a b : Word) : Word := if b = 0 then a else BitVec.ofInt 64 (a.toInt - b.toInt * a.toInt.tdiv b.toInt)
def divN (a b : Word) : Word := if b = 0 then BitVec.allOnes 64 else BitVec.ofNat 64 (a.toNat / b.toNat)
def remN (a b : Word) : Word := if b = 0 then a else BitVec.ofNat 64 (a.toNat % b.toNat)

/-- R128: L is 4, or 4 and the dividend's significant bits when the divisor is not zero. -/
def divLatency (signed : Bool) (a b : Word) : Nat :=
  if b = 0 then 4 else 4 + sigBits (if signed then a.toInt.natAbs else a.toNat)

/-- The divide family (R128): one at a time in a berth, interlocked. -/
def divide (signed : Bool) (f : Word → Word → Word) (d a b : BitVec 7) (sc : BitVec 3) (v : View) : Ex View := do
  let us := usesDAB d a b
  v.check us [] none
  v.keepRoom us
  waitUntil (decide (v.ctx.divFree ≤ v.now))
  let x := v.scalar 2 a
  let y := v.scalar 3 b
  let l := divLatency signed x y
  let v1 := (v.touchSources us).result d (.scalar (f x y)) l (v.capture v.etype us none) true
  .ok ((v1.modCtx fun c => { c with divFree := v.now + l }).advance sc)

/-- R131. -/
def clz (a : Word) : Word := BitVec.ofNat 64 (64 - sigBits a.toNat)
def ctzFrom (a : Nat) : Nat → Nat → Nat
  | 0, k => k
  | n + 1, k => if a.testBit k then k else ctzFrom a n (k + 1)
def ctz (a : Word) : Word := BitVec.ofNat 64 (ctzFrom a.toNat 64 0)
def popFrom (a : Nat) : Nat → Nat
  | 0 => 0
  | n + 1 => popFrom a n + (if a.testBit n then 1 else 0)
def popc (a : Word) : Word := BitVec.ofNat 64 (popFrom a.toNat 64)

/-- R134. -/
def signExtendFrom (w : Nat) (a : Word) : Word := BitVec.ofInt 64 (toInt true w a.toNat)
def zeroExtendFrom (w : Nat) (a : Word) : Word := BitVec.ofNat 64 (a.toNat % 2 ^ w)

/-- R135: POS, and the effective width min(WID, 64 - POS). -/
def fieldPos (b : Word) : Nat := (b.extractLsb' 0 6).toNat
def fieldWidth (b : Word) : Nat := min (b.extractLsb' 8 7).toNat (64 - fieldPos b)
def bfx (a b : Word) : Word :=
  let we := fieldWidth b
  if we = 0 then 0
  else
    let f := (a >>> fieldPos b).toNat % 2 ^ we
    if b.getLsbD 16 then BitVec.ofInt 64 (toInt true we f) else BitVec.ofNat 64 f
def bfi (d a b : Word) : Word :=
  let we := fieldWidth b
  if we = 0 then d
  else
    let m : Word := BitVec.ofNat 64 (2 ^ we - 1) <<< fieldPos b
    (d &&& ~~~m) ||| ((a <<< fieldPos b) &&& m)

/-- R137: the width of a pointer's offset field. -/
def offsetBits (p : Word) : Nat :=
  match (p.extractLsb' 60 4).toNat with
  | 1 | 2 | 3 | 5 => 17
  | 4 => 48
  | _ => 60

/-- A pointer stepped by signed bytes within its offset field (R137, R175). -/
def stepPointer (p : Word) (bytes : Int) : Word :=
  let n := offsetBits p
  let off := ((p.toNat % 2 ^ n : Nat) + bytes) % (2 ^ n : Nat)
  BitVec.ofNat 64 (p.toNat / 2 ^ n * 2 ^ n + off.toNat)

/-! ## The instructions -/

/-- ADD (R127). -/
def execAdd (d a b : BitVec 7) (sc : BitVec 3) (s : State) : Out := runView (scalar2 (fun a b => a + b) 1 d a b sc) s

/-- SUB (R127). -/
def execSub (d a b : BitVec 7) (sc : BitVec 3) (s : State) : Out := runView (scalar2 (fun a b => a - b) 1 d a b sc) s

/-- MUL (R127). -/
def execMul (d a b : BitVec 7) (sc : BitVec 3) (s : State) : Out := runView (scalar2 (fun a b => a * b) 3 d a b sc) s

/-- MULH (R127). -/
def execMulh (d a b : BitVec 7) (sc : BitVec 3) (s : State) : Out := runView (scalar2 (mulHigh) 3 d a b sc) s

/-- MULHN (R127). -/
def execMulhn (d a b : BitVec 7) (sc : BitVec 3) (s : State) : Out := runView (scalar2 (mulHighN) 3 d a b sc) s

/-- AND (R129). -/
def execAnd (d a b : BitVec 7) (sc : BitVec 3) (s : State) : Out := runView (scalar2 (fun a b => a &&& b) 1 d a b sc) s

/-- OR (R129). -/
def execOr (d a b : BitVec 7) (sc : BitVec 3) (s : State) : Out := runView (scalar2 (fun a b => a ||| b) 1 d a b sc) s

/-- XOR (R129). -/
def execXor (d a b : BitVec 7) (sc : BitVec 3) (s : State) : Out := runView (scalar2 (fun a b => a ^^^ b) 1 d a b sc) s

/-- ANDN (R129). -/
def execAndn (d a b : BitVec 7) (sc : BitVec 3) (s : State) : Out := runView (scalar2 (fun a b => a &&& ~~~b) 1 d a b sc) s

/-- SHL (R130): the count is b[5:0]. -/
def execShl (d a b : BitVec 7) (sc : BitVec 3) (s : State) : Out := runView (scalar2 (fun a b => a <<< (b.toNat % 64)) 1 d a b sc) s

/-- SHR (R130). -/
def execShr (d a b : BitVec 7) (sc : BitVec 3) (s : State) : Out := runView (scalar2 (fun a b => a >>> (b.toNat % 64)) 1 d a b sc) s

/-- SHRA (R130). -/
def execShra (d a b : BitVec 7) (sc : BitVec 3) (s : State) : Out := runView (scalar2 (fun a b => a.sshiftRight (b.toNat % 64)) 1 d a b sc) s

/-- ROTR (R130). -/
def execRotr (d a b : BitVec 7) (sc : BitVec 3) (s : State) : Out := runView (scalar2 (fun a b => a.rotateRight (b.toNat % 64)) 1 d a b sc) s

/-- MIN (R132). -/
def execMin (d a b : BitVec 7) (sc : BitVec 3) (s : State) : Out := runView (scalar2 (fun a b => if b.slt a then b else a) 1 d a b sc) s

/-- MAX (R132). -/
def execMax (d a b : BitVec 7) (sc : BitVec 3) (s : State) : Out := runView (scalar2 (fun a b => if a.slt b then b else a) 1 d a b sc) s

/-- MINN (R132). -/
def execMinn (d a b : BitVec 7) (sc : BitVec 3) (s : State) : Out := runView (scalar2 (fun a b => if b.ult a then b else a) 1 d a b sc) s

/-- MAXN (R132). -/
def execMaxn (d a b : BitVec 7) (sc : BitVec 3) (s : State) : Out := runView (scalar2 (fun a b => if a.ult b then b else a) 1 d a b sc) s

/-- SLT (R132). -/
def execSlt (d a b : BitVec 7) (sc : BitVec 3) (s : State) : Out := runView (scalar2 (fun a b => bit (a.slt b)) 1 d a b sc) s

/-- SLTN (R132). -/
def execSltn (d a b : BitVec 7) (sc : BitVec 3) (s : State) : Out := runView (scalar2 (fun a b => bit (a.ult b)) 1 d a b sc) s

/-- SEQ (R132). -/
def execSeq (d a b : BitVec 7) (sc : BitVec 3) (s : State) : Out := runView (scalar2 (fun a b => bit (a == b)) 1 d a b sc) s

/-- BFX (R135). -/
def execBfx (d a b : BitVec 7) (sc : BitVec 3) (s : State) : Out := runView (scalar2 (bfx) 1 d a b sc) s

/-- ADDI (R127). -/
def execAddi (d a : BitVec 7) (imm : BitVec 7) (sc : BitVec 3) (s : State) : Out := runView (scalar1 (fun a => a + simm7 imm) 1 d a sc) s

/-- ANDI (R129). -/
def execAndi (d a : BitVec 7) (imm : BitVec 7) (sc : BitVec 3) (s : State) : Out := runView (scalar1 (fun a => a &&& simm7 imm) 1 d a sc) s

/-- ORI (R129). -/
def execOri (d a : BitVec 7) (imm : BitVec 7) (sc : BitVec 3) (s : State) : Out := runView (scalar1 (fun a => a ||| simm7 imm) 1 d a sc) s

/-- XORI (R129). -/
def execXori (d a : BitVec 7) (imm : BitVec 7) (sc : BitVec 3) (s : State) : Out := runView (scalar1 (fun a => a ^^^ simm7 imm) 1 d a sc) s

/-- SHLI (R130). -/
def execShli (d a : BitVec 7) (imm : BitVec 7) (sc : BitVec 3) (s : State) : Out := runView (scalar1 (fun a => a <<< imm.toNat) 1 d a sc) s

/-- SHRI (R130). -/
def execShri (d a : BitVec 7) (imm : BitVec 7) (sc : BitVec 3) (s : State) : Out := runView (scalar1 (fun a => a >>> imm.toNat) 1 d a sc) s

/-- SHRAI (R130). -/
def execShrai (d a : BitVec 7) (imm : BitVec 7) (sc : BitVec 3) (s : State) : Out := runView (scalar1 (fun a => a.sshiftRight imm.toNat) 1 d a sc) s

/-- ROTRI (R130). -/
def execRotri (d a : BitVec 7) (imm : BitVec 7) (sc : BitVec 3) (s : State) : Out := runView (scalar1 (fun a => a.rotateRight imm.toNat) 1 d a sc) s

/-- SLTI (R132). -/
def execSlti (d a : BitVec 7) (imm : BitVec 7) (sc : BitVec 3) (s : State) : Out := runView (scalar1 (fun a => bit (a.slt (simm7 imm))) 1 d a sc) s

/-- SEXT (R134). -/
def execSext (d a : BitVec 7) (imm : BitVec 7) (sc : BitVec 3) (s : State) : Out := runView (scalar1 (signExtendFrom imm.toNat) 1 d a sc) s

/-- ZEXT (R134). -/
def execZext (d a : BitVec 7) (imm : BitVec 7) (sc : BitVec 3) (s : State) : Out := runView (scalar1 (zeroExtendFrom imm.toNat) 1 d a sc) s

/-- LEA (R137). -/
def execLea (d a : BitVec 7) (imm : BitVec 7) (sc : BitVec 3) (s : State) : Out := runView (scalar1 (fun a => stepPointer a (8 * imm.toInt)) 1 d a sc) s

/-- CLZ (R131). -/
def execClz (d a : BitVec 7) (sc : BitVec 3) (s : State) : Out := runView (scalar1 (clz) 1 d a sc) s

/-- CTZ (R131). -/
def execCtz (d a : BitVec 7) (sc : BitVec 3) (s : State) : Out := runView (scalar1 (ctz) 1 d a sc) s

/-- POPC (R131). -/
def execPopc (d a : BitVec 7) (sc : BitVec 3) (s : State) : Out := runView (scalar1 (popc) 1 d a sc) s

/-- MOV (R138). -/
def execMov (d a : BitVec 7) (sc : BitVec 3) (s : State) : Out := runView (scalar1 (fun a => a) 1 d a sc) s

/-- DIV (R128). -/
def execDiv (d a b : BitVec 7) (sc : BitVec 3) (s : State) : Out := runView (divide true divS d a b sc) s

/-- DIVN (R128). -/
def execDivn (d a b : BitVec 7) (sc : BitVec 3) (s : State) : Out := runView (divide false divN d a b sc) s

/-- REM (R128). -/
def execRem (d a b : BitVec 7) (sc : BitVec 3) (s : State) : Out := runView (divide true remS d a b sc) s

/-- REMN (R128). -/
def execRemn (d a b : BitVec 7) (sc : BitVec 3) (s : State) : Out := runView (divide false remN d a b sc) s

/-- SEL (R133): D is the condition. -/
def execSel (d a b : BitVec 7) (sc : BitVec 3) (s : State) : Out :=
  runView (scalar3 (fun c a b => if c ≠ 0 then a else b) 1 d a b sc) s

/-- BFI (R135). -/
def execBfi (d a b : BitVec 7) (sc : BitVec 3) (s : State) : Out := runView (scalar3 bfi 1 d a b sc) s

/-- LDI (R136). -/
def execLdi (d : BitVec 7) (imm : BitVec 14) (sc : BitVec 3) (s : State) : Out :=
  runView (scalarResult [⟨1, d, .dst false⟩] 1 d (fun _ => imm.signExtend 64) sc) s

/-- LDHI (R136): D is read under R66. -/
def execLdhi (d : BitVec 7) (imm : BitVec 14) (sc : BitVec 3) (s : State) : Out :=
  runView (scalarResult [⟨1, d, .rw false⟩] 1 d (fun v => (v.scalar 1 d <<< 14) ||| imm.zeroExtend 64) sc) s

end Sys2Proof.Machine
end

