-- ==== Sys2Proof/Machine/Control.lean ====
section
/-!
DEFINITION. Control flow, opcodes 0x30 to 0x3e (R139 to R147), and the resolution of branches (R77, R144, R145).
-/
namespace Sys2Proof.Machine

/-- The instruction's own parcel address (R63, R68). -/
def View.ownPc (v : View) : BitVec 48 := match v.s.cur.replay with | some r => r.epc | none => v.ctx.pc

/-- The link value: the own address plus the instruction's length (R141). -/
def View.link (v : View) : Word := (v.ownPc + BitVec.ofNat 48 v.s.cur.len).zeroExtend 64

/-- The target of an offset in parcels (R63). -/
def View.targetOf (v : View) (off : BitVec n) : BitVec 48 := v.ownPc + BitVec.ofInt 48 (2 * off.toInt)

/-- A register target: bits [47:0] with bit 0 cleared (R9, R142). -/
def jumpAddress (a : Word) : BitVec 48 := (a.extractLsb' 1 47) ++ 0#1

/-- The spacing after a taken transfer (R70). -/
def takenSpacing (sc : BitVec 3) : Nat := max (spacing sc) 3

/-- A transfer that resolves 2 cycles after issue (R77, R144): the fall-through goes on, and the state at the target is kept. -/
def View.transfer (before after : View) (taken : Bool) (target : BitVec 48) (sc : BitVec 3) : View :=
  let chk := { after.ctx with pc := target, dist := before.ctx.dist + takenSpacing sc }
  let v := after.modBerth fun x =>
    { x with spec := some { taken := taken, checkpoint := chk, nextIfTaken := before.now + takenSpacing sc } }
  { v with s := v.s.atCycle (before.now + 2) (.branchResolve before.s.cur.tile before.s.cur.berth) }

/-- A conditional branch of two operands: A against q1 (R139). -/
def condBranch (c : Cond) (a : BitVec 7) (off : BitVec 14) (sc : BitVec 3) (v : View) : Ex View := do
  v.resolved
  let us : List Use := [⟨2, a, .src false⟩, ⟨3, 0, .src false⟩]
  v.check us [] none
  .ok (v.transfer ((v.touchSources us).advance sc) (c.holds (v.scalar 2 a) (v.scalar 3 0)) (v.targetOf off) sc)

/-- BZ and BNZ: q1 is not read (R139). -/
def zeroBranch (onZero : Bool) (a : BitVec 7) (off : BitVec 14) (sc : BitVec 3) (v : View) : Ex View := do
  v.resolved
  let us : List Use := [⟨2, a, .src false⟩]
  v.check us [] none
  .ok (v.transfer ((v.touchSources us).advance sc) ((v.scalar 2 a == 0) == onZero) (v.targetOf off) sc)

/-- The counter of LOOP may be a g register or a row only (R83, R140). -/
def loopCode (a : BitVec 7) : Bool :=
  match Opnd.of a with
  | .g _ | .wi _ | .w _ => true
  | _ => false

/-- LOOP (R140). -/
def loopBranch (a : BitVec 7) (off : BitVec 14) (sc : BitVec 3) (v : View) : Ex View := do
  v.resolved
  let us : List Use := [⟨2, a, .rw false⟩]
  if !loopCode a then trapWith Cause.illopnd (opndValue ⟨2, a, .rw false⟩)
  v.check us [] none
  v.keepRoom us
  let c := v.scalar 2 a - 1
  let v1 := (v.touchSources us).result a (.scalar c) 1 (v.capture v.etype us none) false false
  .ok (v.transfer (v1.advance sc) (c != 0) (v.targetOf off) sc)

/-- A jump resolved at issue (R141). -/
def View.jumpNow (before after : View) (target : BitVec 48) (sc : BitVec 3) : View :=
  let v := after.advance sc
  let v := v.modCtx fun c => { c with pc := target, dist := before.ctx.dist + takenSpacing sc }
  v.modBerth fun x => { x with nextIssue := before.now + takenSpacing sc, readySince := before.now + takenSpacing sc }

/-- J, and JL which pushes its link (R141). -/
def jump (push : Bool) (off : BitVec 21) (sc : BitVec 3) (v : View) : Ex View := do
  v.resolved
  let v1 := if push then v.result 0 (.scalar v.link) 1 {} false false else v
  .ok (v.jumpNow v1 (v.targetOf off) sc)

/-- JR and JLR (R142): the target is read before the link is written, and nothing issues until the transfer resolves (R144). -/
def jumpRegister (us : List Use) (link : Option (BitVec 7)) (a : BitVec 7) (sc : BitVec 3) (v : View) : Ex View := do
  v.resolved
  v.check us [] none
  v.keepRoom us
  let target := jumpAddress (v.scalar 2 a)
  let v1 := match link with
    | some d => (v.touchSources us).result d (.scalar v.link) 1 (v.capture v.etype us none) false false
    | none => v.touchSources us
  let v2 := v.transfer (v1.advance sc) true target sc
  .ok (v2.modBerth fun x => { x with nextIssue := v.now + takenSpacing sc, readySince := v.now + takenSpacing sc })

/-- BEQ (R139). -/
def execBeq (d : BitVec 7) (off : BitVec 14) (sc : BitVec 3) (s : State) : Out := runView (condBranch .eq d off sc) s

/-- BNE (R139). -/
def execBne (d : BitVec 7) (off : BitVec 14) (sc : BitVec 3) (s : State) : Out := runView (condBranch .ne d off sc) s

/-- BLT (R139). -/
def execBlt (d : BitVec 7) (off : BitVec 14) (sc : BitVec 3) (s : State) : Out := runView (condBranch .lt d off sc) s

/-- BGE (R139). -/
def execBge (d : BitVec 7) (off : BitVec 14) (sc : BitVec 3) (s : State) : Out := runView (condBranch .ge d off sc) s

/-- BLTN (R139). -/
def execBltn (d : BitVec 7) (off : BitVec 14) (sc : BitVec 3) (s : State) : Out := runView (condBranch .ltn d off sc) s

/-- BGEN (R139). -/
def execBgen (d : BitVec 7) (off : BitVec 14) (sc : BitVec 3) (s : State) : Out := runView (condBranch .gen d off sc) s

/-- BZ (R139). -/
def execBz (a : BitVec 7) (off : BitVec 14) (sc : BitVec 3) (s : State) : Out := runView (zeroBranch true a off sc) s

/-- BNZ (R139). -/
def execBnz (a : BitVec 7) (off : BitVec 14) (sc : BitVec 3) (s : State) : Out := runView (zeroBranch false a off sc) s

/-- LOOP (R140). -/
def execLoop (a : BitVec 7) (off : BitVec 14) (sc : BitVec 3) (s : State) : Out := runView (loopBranch a off sc) s

/-- J (R141). -/
def execJ (off : BitVec 21) (sc : BitVec 3) (s : State) : Out := runView (jump false off sc) s

/-- JL (R141). -/
def execJl (off : BitVec 21) (sc : BitVec 3) (s : State) : Out := runView (jump true off sc) s

/-- JR (R142). -/
def execJr (a : BitVec 7) (sc : BitVec 3) (s : State) : Out := runView (jumpRegister [⟨2, a, .src false⟩] none a sc) s

/-- JLR (R142). -/
def execJlr (d a : BitVec 7) (sc : BitVec 3) (s : State) : Out := runView (jumpRegister (usesDA d a) (some d) a sc) s

/-- YIELD (R146): the berth becomes yielding once the YIELD is no longer speculative. -/
def execYield (sc : BitVec 3) (s : State) : Out :=
  runView (fun v =>
    let v' := v.advance sc
    .ok (v'.modBerth fun x => if v.specOpen then { x with yieldHeld := true } else { x with yielding := true })) s

/-- NOP (R147). -/
def execNop (sc : BitVec 3) (s : State) : Out := runView (fun v => .ok (v.advance sc)) s

/-! ## Read stamps (R298) -/

/-- The stamp base B: the largest multiple of 2^16 not above the ordered frontier. -/
def stampBase (phi : Nat) : Nat := phi / 2 ^ 16 * 2 ^ 16

/-- tau of a line's tag word under base B (R298). -/
def tauOf (base : Nat) (tag : BitVec 32) : Nat :=
  let etag := tag.toNat / 2 ^ 18 % 4
  let back := (base / 2 ^ 16 + 4 - etag) % 4
  base - back * 2 ^ 16 + tag.toNat % 2 ^ 18

/-- A stamping read of a line by a task of key time `kt` (R298). -/
def stampTag (base kt : Nat) (tag : BitVec 32) : BitVec 32 :=
  if tauOf base tag < kt then
    BitVec.ofNat 32 (tag.toNat / 2 ^ 20 * 2 ^ 20 + (base / 2 ^ 16 % 4) * 2 ^ 18 + (kt - base) % 2 ^ 18)
  else tag

/-- The oldest uncommitted or pending ordered time of a launch as its sequencer last computed it (R296). -/
def State.phiOf (s : State) (ctxnum : Nat) : Nat := ((s.launch? ctxnum).map fun l => l.pubPhi.toNat).getD 0

/-- The order key time of a task. -/
def Ctx.keyTime (c : Ctx) : Nat := (c.task.key.map Prod.fst).getD c.task.ts.toNat

/-- Sets the read stamps of lines of a slice for a task (R298). -/
def State.stampLines (s : State) (agent : Nat) (c : Ctx) (lines : List Nat) : State :=
  if c.task.cls = 0 then s
  else
    let base := stampBase (s.phiOf c.ctxnum)
    s.modTile agent fun t =>
      { t with tags := lines.foldl (fun ts l => insertAt l (stampTag base c.keyTime ((lookup l ts).getD 0)) ts) t.tags }

/-- Puts back the accumulator rows that squashed instructions have written (R77). -/
def MatrixUnit.squash (m : MatrixUnit) : MatrixUnit :=
  m.undo.foldl (fun m (n, r, p) =>
    { m with acc := rowsSet m.acc n r, accPoison := if p && !m.accPoison.contains n then m.accPoison ++ [n] else m.accPoison }) { m with undo := [] }

/-- The matrix unit of a tile once a branch of berth `b` has resolved: only its holder writes accumulator rows. -/
def Tile.settleAcc (t : Tile) (b : Nat) (taken : Bool) : Tile :=
  if t.mx.holder == some (b % 4) then { t with mx := if taken then t.mx.squash else { t.mx with undo := [] } } else t

/-- A change of a context made by something other than its own instructions reaches the copy a branch kept as well. -/
def State.modCtxAll (s : State) (n b : Nat) (f : Ctx → Ctx) : State :=
  s.modBerth n b fun x => { x with ctx := x.ctx.map f, spec := x.spec.map fun p => { p with checkpoint := f p.checkpoint } }

end Sys2Proof.Machine
end

