-- ==== Sys2Proof/Machine/Image.lean ====
section
/-!
DEFINITION. A context image beside its rows (R39) and its pending-write block (R438, R465), as rows of 256 bytes from the frame's start: rows 896
to 898 hold g, k, PC and the control registers, rows 900 to 916 the queue, and rows 928 to 1,119 the pending writes. The fields of the context
are the one home of these values; here stands what memory shows of them, and what a write of that memory by the steward changes.
-/
namespace Sys2Proof.Machine

/-! ## The state area (R39) -/

/-- A berth-scope control register of a context, by its number (R24). -/
def Ctx.regWord (c : Ctx) (number : Nat) : Option Word :=
  match number with
  | 0x000 => some (c.cr.vtype.zeroExtend 64)
  | 0x001 => some (c.cr.accmode.zeroExtend 64)
  | 0x002 => some (c.cr.fmta.zeroExtend 64)
  | 0x003 => some (c.cr.fmtb.zeroExtend 64)
  | 0x004 => some (c.cr.scla.zeroExtend 64)
  | 0x005 => some (c.cr.sclb.zeroExtend 64)
  | 0x008 => some (c.cr.mwb.zeroExtend 64)
  | 0x009 => some (c.cr.mwl.zeroExtend 64)
  | 0x100 => some c.task.ts
  | 0x101 => some (BitVec.ofNat 64 (c.task.src.toNat * 65536 + (if c.task.poison then 4 else 0) + c.task.cls.toNat))
  | 0x102 => some (c.task.chan.zeroExtend 64)
  | 0x103 => some (c.task.stage.zeroExtend 64)
  | 0x104 => some (c.cr.fieldpos.zeroExtend 64)
  | 0x105 => some (c.cr.fieldext.zeroExtend 64)
  | 0x106 => some (c.cr.tilev.zeroExtend 64)
  | 0x300 => some (bit c.cr.scbchk)
  | 0x301 => some (c.cr.trapcause.zeroExtend 64)
  | 0x302 => some c.cr.trapval
  | 0x303 => some (c.cr.replayn.zeroExtend 64)
  | 0x304 => some c.cr.image
  | _ => none

/-- The berth-scope control registers in catalogue order, and DICTBASE after them. -/
def Ctx.areaWords (c : Ctx) (dictbase : BitVec 48) : List Word :=
  [0x000, 0x001, 0x002, 0x003, 0x004, 0x005, 0x008, 0x009, 0x100, 0x101, 0x102, 0x103, 0x104, 0x105, 0x106, 0x300, 0x301, 0x302, 0x303,
   0x304].filterMap c.regWord ++ [dictbase.zeroExtend 64]

def wordsBytes (ws : List Word) : List Byte := ws.flatMap fun w => leBytes 8 w.toNat

/-- The life that an entry of the saved queue has left, up to 4,096 cycles. -/
def Ctx.lifeLeft (c : Ctx) (deadline : Nat) : Nat := min queueLife (deadline - c.trapAt)

/-- The word that the state area keeps of a queue entry: valid, the vector tag, and the remaining life. -/
def Ctx.tagWord (c : Ctx) (e : QSlot) : Word :=
  match e with
  | .empty => 0
  | .scalar _ d => BitVec.ofNat 64 (1 + 65536 * c.lifeLeft d)
  | .vector _ d => BitVec.ofNat 64 (3 + 65536 * c.lifeLeft d)

/-! ## The pending-write block (R438) -/

/-- Whether a byte is written by an item. -/
def Item.covers (i : Item) (off : Nat) : Option Byte :=
  let in_ (w : Nat × List Byte) : Option Byte := if w.1 ≤ off then w.2[off - w.1]? else none
  match i with
  | .store o d => in_ (o, d)
  | .rqtScales o d => in_ (o, d)
  | .insert _ _ ws => firstSome in_ ws
  | _ => none

/-- A store-buffer entry: line address, byte mask and data. -/
def lineEntry (buf : List Item) (line : Nat) : List Byte :=
  let byte (i : Nat) : Option Byte := buf.foldl (fun b x => (x.covers (64 * line + i)).or b) none
  leBytes 8 (64 * line) ++ leBytes 8 ((natsFrom 0 64).foldl (fun m i => if (byte i).isSome then m + 2 ^ i else m) 0) ++
    (natsFrom 0 64).map fun i => (byte i).getD 0

/-- Bytes whose layout the spec leaves open. -/
def openBytes (form n : Nat) : List Byte := (natsFrom 0 n).map (Config.blockByte form)

/-- A list of bytes filled up with zeros. -/
def padTo (n : Nat) (bs : List Byte) : List Byte := bs ++ List.replicate (n - bs.length) 0

/-- A split-phase entry: control word, pointer, kind and captured data. -/
def splitEntry (i : Item) : Option (List Byte) :=
  match i with
  | .put p ctl d => some (padTo 1088 (wordsBytes [ctl, p] ++ openBytes 0 8 ++ d))
  | .atomic op p x => some (padTo 1088 (openBytes 1 8 ++ wordsBytes [p] ++ openBytes (2 + op) 8 ++ wordsBytes [x]))
  | .acas p e w bar _ => some (padTo 1088 (wordsBytes [BitVec.ofNat 64 bar, p] ++ openBytes 16 8 ++ wordsBytes [e, w]))
  | _ => none

/-- A message of the send queue: header and payload. -/
def sendEntry (i : Item) : Option (List Byte) :=
  match i with
  | .message m => some (openBytes (32 + m.kind) 32 ++ padTo 256 m.payload)
  | _ => none

/-- A buffered BARARR, BARINIT or BAREXP. -/
def barEntry (i : Item) : Option (List Byte) :=
  match i with
  | .arrive .. => some (openBytes 64 16)
  | .barInit .. => some (openBytes 65 16)
  | .barExpect .. => some (openBytes 66 16)
  | _ => none

/-- Byte `o` of the pending-write block of a buffer. -/
def blockByteAt (buf : List Item) (o : Nat) : Byte :=
  let of (es : List (List Byte)) (size o : Nat) : Byte := ((es[o / size]?).getD []).getD (o % size) 0
  if o < 0x5000 then of (((storeLines buf).reverse.take 256).map (lineEntry buf)) 80 o
  else if o < 0x9400 then of (buf.filterMap splitEntry) 1088 (o - 0x5000)
  else if o < 0x9d00 then of (buf.filterMap sendEntry) 288 (o - 0x9400)
  else if o < 0x9e00 then of (buf.filterMap barEntry) 16 (o - 0x9d00)
  else 0

/-- A row of the frame past the row area. -/
def Ctx.areaRow (c : Ctx) (dictbase : BitVec 48) (row : Nat) : Row :=
  if row = 896 then rowOfBytes (wordsBytes c.g.toList)
  else if row = 897 then rowOfBytes (c.k.toList.flatMap fun m => leBytes 32 m.toNat)
  else if row = 898 then rowOfBytes (wordsBytes (c.pc.zeroExtend 64 :: c.areaWords dictbase))
  else if 900 ≤ row ∧ row < 916 then
    match c.savedQ.entry (row - 899) with
    | .empty => 0
    | .scalar w _ => w.zeroExtend 2048
    | .vector r _ => r
  else if row = 916 then rowOfBytes (wordsBytes ((natsFrom 1 16).map fun n => c.tagWord (c.savedQ.entry n)))
  else if 928 ≤ row ∧ row < 1120 then rowOfBytes ((natsFrom (256 * (row - 928)) 256).map (blockByteAt c.buf))
  else 0

/-! ## What a write of the area changes (R39) -/

/-- A word of a row. -/
def areaWord (r : Row) (i : Nat) : Word := r.extractLsb' (64 * i) 64

/-- The control registers as the area holds them; the words of placement, of the record's fields and of IMAGE follow in their order. -/
def Ctx.withAreaWords (c : Ctx) (r : Row) : Ctx :=
  let w (i : Nat) : Word := areaWord r (i + 1)
  { c with
    pc := (areaWord r 0).extractLsb' 0 48,
    cr := { c.cr with
      vtype := (w 0).extractLsb' 0 6, accmode := (w 1).extractLsb' 0 2, fmta := (w 2).extractLsb' 0 4, fmtb := (w 3).extractLsb' 0 4,
      scla := (w 4).extractLsb' 0 17, sclb := (w 5).extractLsb' 0 17, mwb := (w 6).extractLsb' 0 10, mwl := (w 7).extractLsb' 0 10,
      fieldpos := (w 12).extractLsb' 0 20, fieldext := (w 13).extractLsb' 0 21, tilev := (w 14).extractLsb' 0 12, scbchk := (w 15).getLsbD 0,
      trapcause := (w 16).extractLsb' 0 8, trapval := w 17, replayn := (w 18).extractLsb' 0 4, image := w 19,
      dictbase := (w 20).extractLsb' 0 48 },
    task := { c.task with
      ts := w 8, cls := (w 9).extractLsb' 0 2, poison := (w 9).getLsbD 2, src := (w 9).extractLsb' 16 13, chan := (w 10).extractLsb' 0 4,
      stage := (w 11).extractLsb' 0 4 } }

/-- A queue entry with the data that the area holds. -/
def QSlot.withData (e : QSlot) (r : Row) : QSlot :=
  match e with
  | .empty => .empty
  | .scalar _ d => .scalar (areaWord r 0) d
  | .vector _ d => .vector r d

/-- A queue entry with the word that the area keeps of it. -/
def QSlot.withTag (e : QSlot) (trapAt : Nat) (w : Word) : QSlot :=
  let data : Row := match e with | .empty => 0 | .scalar x _ => x.zeroExtend 2048 | .vector r _ => r
  let d := trapAt + min queueLife (w.extractLsb' 16 13).toNat
  if !w.getLsbD 0 then .empty else if w.getLsbD 1 then .vector data d else .scalar (areaWord data 0) d

/-- The queue of a context with one entry changed, by position. -/
def Queue.modEntry (q : Queue) (n : Nat) (f : QSlot → QSlot) : Queue := { q with slots := q.slots.set (q.slotOf n) (f q.slots[q.slotOf n]) }

/-- A context whose state area the steward or the debugger has written (R39): a saved context changes in all that the area holds, and one whose
berth is in its trap handler in the saved queue. -/
def Ctx.withAreaRow (c : Ctx) (saved : Bool) (row : Nat) (r : Row) : Ctx :=
  if 900 ≤ row ∧ row < 916 then { c with savedQ := c.savedQ.modEntry (row - 899) fun e => e.withData r }
  else if row = 916 then
    { c with savedQ := (natsFrom 1 16).foldl (fun q n => q.modEntry n fun e => e.withTag c.trapAt (areaWord r (n - 1))) c.savedQ }
  else if !saved then c
  else if row = 896 then { c with g := Vector.ofFn fun i : Fin 32 => areaWord r i.val }
  else if row = 897 then { c with k := Vector.ofFn fun i : Fin 8 => r.extractLsb' (256 * i.val) 256 }
  else if row = 898 then c.withAreaWords r
  else c

end Sys2Proof.Machine
end

