-- ==== Sys2Proof/Machine/Access.lean ====
section
/-!
DEFINITION. Where storage is and how it is reached: fields and virtual tiles (R3, R6, R35), pointers and windows (R36 to R38, R175), slices
with their tag words and poison (R274, R275, R288), barrier objects (R196 to R199), and translation (R327 to R334).
-/
namespace Sys2Proof.Machine

/-! ## Fields (R3, R6, R35) -/

def tileX (n : Nat) : Nat := n % 16
def tileY (n : Nat) : Nat := n / 16 % 16
def tileZ (n : Nat) : Nat := n / 256 % 16
def tileAt (x y z : Nat) : Nat := x % 16 + 16 * (y % 16) + 256 * (z % 16)

/-- Quadrant of a logical position (R3). -/
def quadrantOf (x y : Nat) : Nat := if y < 8 then (if x < 8 then 0 else 1) else (if x < 8 then 3 else 2)
/-- The die of a tile: 4·z + quadrant (R2). -/
def dieOf (n : Nat) : Nat := 4 * tileZ n + quadrantOf (tileX n) (tileY n)
/-- The tile of a die with a die-relative number (R36). -/
def dieTile (die rel : Nat) : Nat :=
  let q := die % 4
  tileAt (rel % 8 + (if q = 1 ∨ q = 2 then 8 else 0)) (rel / 8 % 8 + (if q = 2 ∨ q = 3 then 8 else 0)) (die / 4)
/-- The die-relative number of a tile. -/
def dieRel (n : Nat) : Nat := tileX n % 8 + 8 * (tileY n % 8)

/-! ## Physical sites (R4, R415, R416) -/

/-- Design position of a tile on its die: column and row. -/
def designAt (n : Nat) : Nat × Nat :=
  let lx := tileX n % 8
  let ly := tileY n % 8
  match quadrantOf (tileX n) (tileY n) with
  | 0 => (lx, ly)
  | 1 => (ly, 7 - lx)
  | 2 => (7 - lx, 7 - ly)
  | _ => (7 - ly, lx)

/-- The physical tier position of a logical z (R4). -/
def tierPosition (z : Nat) : Nat := if z < 8 then 2 * z else 2 * (15 - z) + 1

/-- TILEP (R28): physical die, row and column; fuses name the unused site of each row of each die, column 8 where none failed. -/
def tilep (fuses : List (List Nat)) (n : Nat) : Word :=
  let (a, b) := designAt n
  let f := ((fuses[dieOf n]?).bind fun r => r[b]?).getD 8
  let pc := if a < f then a else a + 1
  BitVec.ofNat 64 ((4 * tierPosition (tileZ n) + dieOf n % 4) * 128 + b * 16 + pc)

/-! ## The field of a launch -/

def Launch.tileCount (l : Launch) : Nat := l.ext.1 * l.ext.2.1 * l.ext.2.2

/-- Field coordinates of a virtual number (R35). -/
def Launch.coords (l : Launch) (v : Nat) : Nat × Nat × Nat :=
  (v % l.ext.1, v / l.ext.1 % l.ext.2.1, v / (l.ext.1 * l.ext.2.1))
def Launch.virtualAt (l : Launch) (x y z : Nat) : Nat := x + l.ext.1 * y + l.ext.1 * l.ext.2.1 * z

/-- The cube tile number of a virtual tile: the box wraps across the torus edges (R35). -/
def Launch.physical (l : Launch) (v : Nat) : Nat :=
  let (x, y, z) := l.coords v
  tileAt (tileX l.origin + x) (tileY l.origin + y) (tileZ l.origin + z)

/-- The virtual number of a tile of the field. -/
def Launch.virtual? (l : Launch) (n : Nat) : Option Nat :=
  let x := (tileX n + 16 - tileX l.origin) % 16
  let y := (tileY n + 16 - tileY l.origin) % 16
  let z := (tileZ n + 16 - tileZ l.origin) % 16
  if n < 4096 ∧ x < l.ext.1 ∧ y < l.ext.2.1 ∧ z < l.ext.2.2 then some (l.virtualAt x y z) else none

/-- The declared slice count of an axis (R118, R340); 0 when the launch does not declare it. -/
def Launch.sliceCount (l : Launch) (axis : Nat) : Nat :=
  match axis with
  | 0 => l.slices.1
  | 1 => l.slices.2.1
  | 2 => l.slices.2.2.1
  | _ => l.slices.2.2.2

/-- The tiles of the field in order of virtual number. -/
def Launch.field (l : Launch) : List Nat := (natsFrom 0 l.tileCount).map l.physical

/-! ## Pointers (R36 to R38) -/

def winOf (p : Word) : Nat := (p.extractLsb' 60 4).toNat
def tagOf (p : Word) : Nat := (p.extractLsb' 48 12).toNat
def offOf (p : Word) : Nat := (p.extractLsb' 0 17).toNat
/-- Bits [47:17], zero in the slice windows. -/
def midZero (p : Word) : Bool := p.extractLsb' 17 31 == 0

/-- The near pointer of a tile's tag and a slice offset. -/
def nearPtr (tag off : Nat) : Word := BitVec.ofNat 64 (2 ^ 60 + tag * 2 ^ 48 + off)

/-- Bytes of a slice that an access may reach: 112 KiB in bank-rebuild mode (R289). -/
def State.sliceLimit (s : State) (agent : Nat) : Nat := if (s.tile agent).rebuild then 0x1c000 else sliceSize agent

/-- The window checks of a pointer in windows 0x2 to 0x5 for `len` bytes (R36, R37, R184, R326): the place, or none where it traps. -/
def State.place (s : State) (agent ctxnum : Nat) (p : Word) (len : Nat) : Option Place :=
  match s.launch? ctxnum with
  | none => none
  | some l =>
    let fits (a : Nat) : Option Place := if offOf p + len ≤ s.sliceLimit a then some (.slice a (offOf p)) else none
    match winOf p with
    | 2 =>
      let t := dieTile (dieOf agent) (tagOf p)
      if !isCore agent && decide (tagOf p < 64) && midZero p && (l.virtual? t).isSome then fits t else none
    | 3 => if midZero p && decide (tagOf p < l.tileCount) then fits (l.physical (tagOf p)) else none
    | 4 => if p.extractLsb' 48 12 == 0 && decide ((p.extractLsb' 0 48).toNat + len ≤ 2 ^ 48) then some (.ext (p.extractLsb' 0 48).toNat) else none
    | 5 =>
      let dev := (p.extractLsb' 58 2).toNat
      let v := (p.extractLsb' 46 12).toNat
      match (s.part? l.part).bind Partition.hpos with
      | some h =>
        if p.extractLsb' 17 29 == 0 && decide (v < l.tileCount) then
          if dev = h then fits (l.physical v) else if offOf p + len ≤ 0x20000 then some (.away dev v (offOf p)) else none
        else none
      | none => none
    | _ => none

/-- Whether a tag names no tile of a launch's field: 0xfff does where the field has fewer than 4,096 tiles (R36, R422). -/
def State.namesNone (s : State) (ctxnum tag : Nat) : Bool :=
  tag == 0xfff && decide (((s.launch? ctxnum).map Launch.tileCount).getD 0 < 4096)

/-- A near pointer that this tile may dereference for `len` bytes at an alignment (R38, R175): the slice offset. -/
def View.nearOff (v : View) (p : Word) (len align : Nat) : Option Nat :=
  if winOf p = 1 ∧ tagOf p = v.ctx.cr.tilev.toNat ∧ v.s.namesNone v.ctx.ctxnum (tagOf p) = false ∧ midZero p = true ∧ offOf p % align = 0
     ∧ offOf p + len ≤ v.s.sliceLimit v.s.cur.tile then some (offOf p) else none

/-- A run of a slice that wraps from its end to offset 0 (R50, R245). -/
def wrapRuns (off len : Nat) : List (Nat × Nat) :=
  if off + len ≤ 2 ^ 17 then [(off, len)] else [(off, 2 ^ 17 - off), (0, off + len - 2 ^ 17)]

/-- Runs of bytes that meet. -/
def meets (a n b m : Nat) : Bool := decide (a < b + m ∧ b < a + n)

/-- Columns of B (R237, R26). -/
def CRegs.columns (c : CRegs) : Nat := if c.accmode.getLsbD 0 then 128 else 64

/-- The scale bytes that a matrix operation will still read or write (R234, R241, R245). -/
def MxOp.scaleRuns (o : MxOp) : List (Nat × Nat) :=
  match o.kind with
  | .mma _ _ _ geo =>
    let nb := geo.toNat % 4096 / 32
    if o.doneAt.isSome then []
    else (if o.cr.fmta.getLsbD 3 then wrapRuns o.cr.scla.toNat (64 * nb) else []) ++
      (if o.cr.fmtb.getLsbD 3 then wrapRuns o.cr.sclb.toNat (o.cr.columns * nb) else [])
  | .rqt _ _ scales =>
    (if o.doneAt.isSome then [] else wrapRuns (scales.toNat % 2 ^ 17) 128) ++ wrapRuns (scales.toNat / 2 ^ 32 % 2 ^ 17) 128
  | _ => []

/-- A matrix operation of the berth has not yet read or written bytes of a run (R234). -/
def View.scaleBusy (v : View) (off len : Nat) : Bool :=
  v.tile.mx.queue.any fun o => o.ownView && o.issuer.berth == v.s.cur.berth &&
    o.scaleRuns.any fun r => meets off len r.1 r.2

/-- The same, trapping with WINDOW (R37, R38, R175); an access to bytes that a matrix operation of the berth will read or write waits. -/
def View.near (v : View) (p : Word) (len align : Nat) : Ex Nat :=
  match v.nearOff p len align with
  | some o => if v.scaleBusy o len then .error .hold else .ok o
  | none => trapWith Cause.window p

/-- A barrier's slice offset given as a number: aligned and inside the slice (R184, R196). -/
def barOffset (x : Nat) : Bool := decide (x % 16 = 0)

/-! ## Slices: tag words, poison and writes (R275, R288, R298) -/

/-- Lines of a run of bytes. -/
def linesOf (off len : Nat) : List Nat := if len = 0 then [] else natsFrom (off / 64) ((off + len - 1) / 64 + 1 - off / 64)

/-- The 8-byte words of a run of bytes. -/
def wordsOf (pa len : Nat) : List Nat := if len = 0 then [] else natsFrom (pa / 8) ((pa + len - 1) / 8 + 1 - pa / 8)

/-- Whether a run of physical bytes holds a poisoned word. -/
def State.poisoned (s : State) (pa len : Nat) : Bool := (wordsOf pa len).any fun w => s.memPoison.contains w

/-- Sets OWNER of lines (R275). -/
def setOwner (ts : List (Nat × BitVec 32)) (owner : Nat) (lines : List Nat) : List (Nat × BitVec 32) :=
  lines.foldl (fun ts l => insertAt l (BitVec.ofNat 12 owner ++ ((lookup l ts).getD 0).extractLsb' 0 20) ts) ts

/-- The lines that a run covers whole: a write of them clears their poison (R288). -/
def wholeLines (pa len : Nat) : List Nat := (linesOf pa len).filter fun l => decide (pa ≤ 64 * l ∧ 64 * l + 64 ≤ pa + len)

def clearPoison (ps : List Nat) (pa len : Nat) : List Nat :=
  let ls := wholeLines pa len
  ps.filter fun w => !(ls.contains (w / 8))

/-- Writes bytes of physical memory. -/
def State.writePa (s : State) (pa : Nat) (bs : List Byte) : State :=
  { s with mem := Mem.writeBytes s.mem pa bs, memPoison := clearPoison s.memPoison pa bs.length }

/-- The stripe of a word of a slice in bank-rebuild mode, data words by number and parity words from 16,384 on (R289). -/
def stripeOf (word : Nat) : Nat := if word < 16384 then word / 8 / 7 else (word - 16384) / 8

/-- A write that commits to a slice: its bytes, OWNER of its lines, and the poison of whole lines; words that were lost are written anew, and
with a rebuilt stripe's parity (R275, R288, R289). -/
def State.writeSlice (s : State) (agent off : Nat) (bs : List Byte) (owner : Nat) : State :=
  let whole := wholeLines off bs.length
  (s.writePa (slicePa agent off) bs).modTile agent fun t =>
    { t with
      tags := setOwner t.tags owner (linesOf off bs.length), tagPoison := t.tagPoison.filter fun l => !(whole.contains l),
      lostWords := t.lostWords.filter fun w => !(decide (w < 16384) && whole.contains (w / 8)) }

/-- A write of physical memory: one that lies in a slice, as a slice of an image die does, counts as a write that commits there (R275). -/
def State.writeOwned (s : State) (pa : Nat) (bs : List Byte) (owner : Nat) : State :=
  if 2 ^ 40 ≤ pa ∧ pa < 2 ^ 40 + 4096 * 2 ^ 17 then s.writeSlice ((pa - 2 ^ 40) / 2 ^ 17) (pa % 2 ^ 17) bs owner else s.writePa pa bs

def State.readSlice (s : State) (agent off len : Nat) : List Byte := Mem.readBytes s.mem (slicePa agent off) len

/-- Marks words of physical memory poisoned. -/
def State.poisonPa (s : State) (words : List Nat) : State :=
  { s with memPoison := words.foldl (fun ps x => if ps.contains x then ps else x :: ps) s.memPoison }

/-- Marks words of a slice poisoned. -/
def State.poisonSlice (s : State) (agent off : Nat) (words : List Nat) : State :=
  s.poisonPa (words.map fun w => slicePa agent off / 8 + w)

/-- The poisoned words of a run of physical bytes, numbered from its first word. -/
def State.poisonIn (s : State) (pa len : Nat) : List Nat :=
  ((wordsOf pa len).filter fun w => s.memPoison.contains w).map fun w => w - pa / 8

/-! ## Where a context's rows stand (R20, R278, R284) -/

/-- Reads external memory by physical address, 8 bytes. -/
def State.entryAt (s : State) (pa : Nat) : Word := BitVec.ofNat 64 (leNat (Mem.readBytes s.mem pa 8))

/-- The physical address of an external byte, walked afresh. -/
def State.physOf (s : State) (p va : Nat) : Option Nat :=
  let root := ((s.part? p).map fun x => x.ptroot.toNat).getD 0
  (walkFrom s.entryAt va 4 1 root []).1.map fun (e, size) => pteAddr e + va % size

/-- The parts of an external run that lie in one 64 KiB page each. -/
def pagesOf (va len : Nat) : List (Nat × Nat) :=
  if len = 0 then []
  else (natsFrom (va / 65536) ((va + len - 1) / 65536 + 1 - va / 65536)).map fun g =>
    let a := max va (65536 * g)
    (a, min (va + len) (65536 * g + 65536) - a)

/-- The physical runs of a part of an image. -/
def State.imageRuns (s : State) (part : Nat) (locator : Word) (len : Nat) : List (Nat × Nat) :=
  if winOf locator = 0xe then
    let run := (locator.extractLsb' 0 23).toNat
    (natsFrom (run / 2 ^ 17) ((run + len - 1) / 2 ^ 17 + 1 - run / 2 ^ 17)).map fun t =>
      let a := max run (2 ^ 17 * t)
      (slicePa (dieTile (locator.extractLsb' 48 6).toNat t) (a % 2 ^ 17), min (run + len) (2 ^ 17 * t + 2 ^ 17) - a)
  else (pagesOf (locator.extractLsb' 0 48).toNat len).filterMap fun (a, n) => (s.physOf part a).map fun pa => (pa, n)

/-- The rows of an image as they now stand: in the berth that runs its context, in the saved context, or in the image. -/
def State.rowsNow (s : State) (ctxnum image : Nat) : Rows :=
  match s.launch? ctxnum with
  | none => []
  | some l =>
    match lookup image l.images with
    | none => []
    | some im =>
      match (s.ctx? im.agent im.berth).filter fun c => c.ctxnum == ctxnum && c.image == image with
      | some c => c.rows
      | none => ((l.saved.find? fun x => x.ctx.image == image).map fun x => x.ctx.rows).getD im.rows

/-- The physical address of a byte of an image (R31, R278): none where an external image's page does not translate. -/
def State.imagePa (s : State) (part : Nat) (locator : Word) (off : Nat) : Option Nat :=
  if winOf locator = 0xe then
    let run := (locator.extractLsb' 0 23).toNat + off
    some (slicePa (dieTile (locator.extractLsb' 48 6).toNat (run / 2 ^ 17)) (run % 2 ^ 17))
  else
    let va := (locator.extractLsb' 0 48).toNat + off
    (s.tlbOf part va).2.map fun e => e.pa va

/-- The words of a row that are poisoned where it stands (R288). -/
def State.rowPoisonNow (s : State) (k : RowKey) : List Nat :=
  let now : List (Nat × Nat) := match (s.launch? k.1).bind fun l => (lookup k.2.1 l.images).map fun im => (l, im) with
    | none => []
    | some (l, im) => match (s.ctx? im.agent im.berth).filter fun (c : Ctx) => c.ctxnum == k.1 && c.image == k.2.1 with
      | some c => c.rowPoison
      | none => ((l.saved.find? fun (x : Saved) => x.ctx.image == k.2.1).map fun (x : Saved) => x.ctx.rowPoison).getD im.rowPoison
  (now.filter fun p => p.1 == k.2.2).map Prod.snd

/-- What memory shows of a row of a frame: a row of the row area, or one past it as the context that was trapped or saved there gives it. -/
def State.frameRowNow (s : State) (l : Launch) (im : Image) (k : RowKey) : Row :=
  if k.2.2 < 896 then rowsGet (s.rowsNow k.1 k.2.1) k.2.2
  else match (s.ctx? im.agent im.berth).filter fun (c : Ctx) => c.ctxnum == k.1 && c.image == k.2.1 with
    | some c => c.areaRow (s.berth im.agent im.berth).dictbase k.2.2
    | none => ((l.saved.find? fun (x : Saved) => x.ctx.image == k.2.1).map fun (x : Saved) => x.ctx.areaRow x.ctx.cr.dictbase k.2.2).getD 0

/-- A row's write reaches its image: its bytes, and the poison of its words (R281, R288). A memory-core task has no image (R326). -/
def State.writeImageRow (s : State) (k : RowKey) : State :=
  match s.launch? k.1 with
  | none => s
  | some l =>
    match (lookup k.2.1 l.images).filter fun im => !isCore im.agent with
    | none => s
    | some im => match s.imagePa l.part im.locator (256 * k.2.2) with
      | some pa => (s.writeOwned pa (rowBytes (s.frameRowNow l im k)) k.1).poisonPa ((s.rowPoisonNow k).map fun w => pa / 8 + w)
      | none => s

/-! ## The berth's own view (R176) -/

/-- A write of the near slice by its own berth. -/
def Item.isNear : Item → Bool
  | .store .. => true
  | .rqtScales .. => true
  | .insert .. => true
  | _ => false

/-- A byte as later items leave it. -/
def overlay (base : Byte) (off : Nat) (items : List Item) : Byte :=
  items.foldl (fun b i => (i.covers off).getD b) base

/-- What the berth has released and the hold of an earlier release still keeps back (R309). -/
def View.heldItems (v : View) : List Item := (v.tile.held.filter fun h => h.issuer.berth == v.s.cur.berth).flatMap Held.items

/-- The items of a berth that have not left it: held ones, then those of RINGPs that wait for a branch. -/
def View.releasedItems (v : View) : List Item := v.heldItems ++ v.ctx.deferred.flatMap Deferred.items

/-- The near stores of a berth that are not yet visible to others: released ones, then the open buffer. -/
def View.ownItems (v : View) : List Item := v.releasedItems ++ v.ctx.buf

/-- Slice bytes with everything that the berth has released: what an engine command of it sees at tile scope (R216). -/
def View.readReleased (v : View) (off len : Nat) : List Byte :=
  (natsFrom off len).map fun o => overlay (Mem.read v.s.mem (slicePa v.s.cur.tile o)) o v.heldItems

/-- Reads slice bytes as the berth sees them. -/
def View.readNear (v : View) (off len : Nat) : List Byte :=
  let items := v.ownItems
  (natsFrom off len).map fun o => overlay (Mem.read v.s.mem (slicePa v.s.cur.tile o)) o items

/-- Whether a poisoned word meets the bytes read, other than bytes the berth's own buffer supplies (R288). -/
def View.nearPoison (v : View) (off len : Nat) : Bool :=
  let items := v.ownItems
  (natsFrom off len).any fun o =>
    v.s.memPoison.contains (slicePa v.s.cur.tile o / 8) && !(items.any fun i => (i.covers o).isSome)

/-- A read stamp: at once, or at the resolution of the branch (R78, R298). -/
def View.stamp (v : View) (off len : Nat) : View :=
  if v.ctx.task.cls = 0 then v
  else if v.specOpen then { v with ctx := { v.ctx with stampsHeld := v.ctx.stampsHeld ++ linesOf off len } }
  else { v with s := v.s.stampLines v.s.cur.tile v.ctx (linesOf off len) }

/-! ## Barrier objects (R196, R197) -/

structure Bar where
  done : Bool
  ovr : Bool
  phase : BitVec 16
  ncount : Nat
  expect : Nat
  count : Nat
  deriving DecidableEq, Repr

def Bar.ofNat (x : Nat) : Bar :=
  { done := x.testBit 127, ovr := x.testBit 126, phase := BitVec.ofNat 16 (x / 2 ^ 96), ncount := x / 2 ^ 64 % 2 ^ 32,
    expect := x / 2 ^ 32 % 2 ^ 32, count := x % 2 ^ 32 }

def Bar.bytes (b : Bar) : List Byte :=
  leBytes 16 ((if b.done then 2 ^ 127 else 0) + (if b.ovr then 2 ^ 126 else 0) + b.phase.toNat * 2 ^ 96 +
    b.ncount % 2 ^ 32 * 2 ^ 64 + b.expect % 2 ^ 32 * 2 ^ 32 + b.count % 2 ^ 32)

/-- Two phases ahead (R197). -/
def Bar.tooFar (o : Bar) (b : Nat) : Bool :=
  (!o.done && decide (2 * o.expect < o.count + b)) || (o.done && decide (o.expect < o.ncount + b))

/-- An arrival of b bytes from a source that does not trap (R197). -/
def Bar.arrive (o : Bar) (b : Nat) : Bar :=
  if o.tooFar b then
    if o.done then { o with ovr := true }
    else { o with ovr := true, count := o.expect, ncount := o.expect, done := true }
  else if o.done then { o with ncount := o.ncount + b }
  else if o.expect ≤ o.count + b then { o with ncount := o.count + b - o.expect, count := o.expect, done := true }
  else { o with count := o.count + b }

/-- The observation of a completed phase (R199). -/
def Bar.advance (o : Bar) : Bar :=
  { o with phase := o.phase + 1, count := o.ncount, ncount := 0, done := decide (o.expect ≤ o.ncount) }

def State.bar (s : State) (agent off : Nat) : Bar := Bar.ofNat (leNat (s.readSlice agent off 16))
def State.setBar (s : State) (agent off : Nat) (o : Bar) (owner : Nat) : State := s.writeSlice agent off o.bytes owner
def State.barSide (s : State) (agent off : Nat) : BarrierSide := (lookup off (s.tile agent).barriers).getD {}
def State.modBarSide (s : State) (agent off : Nat) (f : BarrierSide → BarrierSide) : State :=
  s.modTile agent fun t => { t with barriers := insertAt off (f ((lookup off t.barriers).getD {})) t.barriers }

/-- What an arrival leaves beside the object: the CHRON of the phases that count it, and poison (R309, R359). A discarded arrival
carries nothing. -/
def BarrierSide.arrive (x : BarrierSide) (o : Bar) (b chron : Nat) (poison : Bool) : BarrierSide :=
  if o.done && o.tooFar b then x
  else
    let x := { x with poison := x.poison || poison }
    if o.done then { x with chronNext := max x.chronNext chron }
    else if o.expect < o.count + b then { x with chron := max x.chron chron, chronNext := max x.chronNext chron }
    else { x with chron := max x.chron chron }

/-- A KIND 0 trigger holds (R211). -/
def State.barFires (s : State) (agent off : Nat) (phase : BitVec 16) : Bool :=
  (s.bar agent off).done || (s.bar agent off).phase != phase

/-- A ring's occupancy (R222). -/
def Ring.occ (r : Ring) : Nat := (r.prod - r.cons).toNat

/-- Whether an armed continuation's trigger holds: a barrier, a ring, or a record waiting on the channel for which it is the oldest. -/
def State.triggered (s : State) (agent : Nat) (a : Armed) : Bool :=
  let t := s.tile agent
  match a.kind with
  | 0 => s.barFires agent a.bar a.phase
  | 1 => decide (a.count ≤ (t.rings[Fin.ofNat 16 a.num]).occ)
  | _ => (t.inbox.any fun r => r.chan.toNat == a.num && !r.marked) &&
      (t.armed.all fun x => !(x.kind == 2 && x.num == a.num && decide (x.order < a.order)))

/-- Announces the armed continuations of an agent whose triggers hold (R211); those the depot holds wait for the tile's test. -/
def State.wake (s : State) (agent : Nat) : State :=
  ((s.tile agent).armed.filter fun a => !a.inDepot && s.triggered agent a).foldl
    (fun s a => if s.agenda.contains (.continuationFire agent a.order) then s else s.soon (.continuationFire agent a.order)) s

/-- An arrival at a barrier object of an agent's slice (R197, R305). -/
def State.arrive (s : State) (agent off b : Nat) (iss : Issuer) (poison : Bool) : State :=
  let o := s.bar agent off
  let s := s.setBar agent off (o.arrive b) iss.ctxnum
  (s.modBarSide agent off fun x => x.arrive o b iss.chron (poison || iss.poison)).wake agent

end Sys2Proof.Machine
end

