-- ==== Sys2Proof/Machine/Arrange.lean ====
section
/-!
DEFINITION. Delta records and arrangements as they stand in memory (R264, R267 to R269, R271).
-/
namespace Sys2Proof.Machine

/-! ## Fields of a record in memory -/

/-- The number in `n` bytes of a record. -/
def fieldAt (bs : List Byte) (off n : Nat) : Nat := leNat ((bs.drop off).take n)
def wordAt (bs : List Byte) (off : Nat) : Word := BitVec.ofNat 64 (fieldAt bs off 8)
def zerosAt (bs : List Byte) (off n : Nat) : Bool := fieldAt bs off n == 0

/-! ## Delta records (R264) -/

structure DeltaRec where
  key : Nat := 0
  value : Nat := 0
  time : Nat := 0
  mult : Int := 0
  tag : Nat := 0
  deriving DecidableEq, Repr

def DeltaRec.ofBytes (bs : List Byte) : DeltaRec :=
  { key := fieldAt bs 0 8, value := fieldAt bs 8 8, time := fieldAt bs 16 8, mult := toInt true 32 (fieldAt bs 24 4), tag := fieldAt bs 28 4 }

def DeltaRec.bytes (r : DeltaRec) : List Byte :=
  leBytes 8 r.key ++ leBytes 8 r.value ++ leBytes 8 r.time ++ leBytes 4 (wrap 32 r.mult) ++ leBytes 4 r.tag

def DeltaRec.live (r : DeltaRec) : Bool := r.mult != 0

/-- Equal on KEY, VALUE and TIME. -/
def DeltaRec.same (a b : DeltaRec) : Bool := a.key == b.key && a.value == b.value && a.time == b.time

/-- A sum clamped to s32, and whether it was. -/
def clampMult (i : Int) : Int × Bool :=
  if i < -(2 ^ 31) then (-(2 ^ 31), true) else if 2 ^ 31 - 1 < i then (2 ^ 31 - 1, true) else (i, false)

/-- The records of a run of bytes. -/
def deltaRecs (bs : List Byte) : List DeltaRec := (chunks 32 bs.length bs).map DeltaRec.ofBytes

/-- The order of output: TIME, KEY, VALUE as s64. -/
def DeltaRec.before (a b : DeltaRec) : Bool :=
  let va := toInt true 64 a.value
  let vb := toInt true 64 b.value
  decide (a.time < b.time) || (a.time == b.time && (decide (a.key < b.key) || (a.key == b.key && decide (va < vb))))

def DeltaRec.insert (r : DeltaRec) : List DeltaRec → List DeltaRec
  | [] => [r]
  | x :: l => if r.before x then r :: x :: l else x :: r.insert l

/-- Adds a record to its group: the group's first record with the exact sum so far. -/
def groupAdd (same : DeltaRec → DeltaRec → Bool) (r : DeltaRec) : List DeltaRec → List DeltaRec
  | [] => [r]
  | g :: l => if same g r then { g with mult := g.mult + r.mult } :: l else g :: groupAdd same r l

/-- Consolidation (R264): the output records, and MOVF. -/
def consolidated (active : Bool) (rs : List DeltaRec) : List DeltaRec × Bool :=
  let same (a b : DeltaRec) : Bool := if active then a.time == b.time && a.key == b.key else a.same b
  let groups := (rs.foldl (fun gs r => groupAdd same r gs) []).filter DeltaRec.live
  let out := groups.map fun g => { g with mult := if active then g.mult.sign else (clampMult g.mult).1 }
  (out.foldr DeltaRec.insert [], groups.any fun g => (clampMult g.mult).2)

/-! ## Arrangements (R267 to R269, R271) -/

/-- An arrangement descriptor. -/
structure Arr where
  off : Nat
  base : Nat
  lgb : Nat
  count : Nat
  drops : Nat
  seed : Nat
  lowt : Nat
  deriving DecidableEq, Repr

/-- The descriptor at a slice offset, read with `read`: none where it breaks its layout. -/
def arrAt (read : Nat → Nat → List Byte) (off : Nat) : Option Arr :=
  let bs := read off 64
  let a : Arr := { off := off, base := fieldAt bs 0 4, lgb := fieldAt bs 4 1, count := fieldAt bs 8 4, drops := fieldAt bs 0xc 4,
                   seed := fieldAt bs 0x10 8, lowt := fieldAt bs 0x18 8 }
  if off % 64 = 0 ∧ a.base % 256 = 0 ∧ a.lgb ≤ 8 ∧ fieldAt bs 5 3 = 0 ∧ fieldAt bs 0x20 32 = 0 ∧ a.base + 256 * 2 ^ a.lgb ≤ 0x20000 then some a
  else none

/-- The offset of a key's bucket. -/
def Arr.bucket (a : Arr) (key : Nat) : Nat :=
  let h := ((BitVec.ofNat 64 key ^^^ BitVec.ofNat 64 a.seed) * 0x9e3779b97f4a7c15#64).toNat / 2 ^ (64 - a.lgb)
  a.base + 256 * if a.lgb = 0 then 0 else h

/-- The entries of a bucket with their offsets. -/
def bucketEntries (read : Nat → Nat → List Byte) (off : Nat) : List (Nat × DeltaRec) :=
  (natsFrom 0 8).map fun j => (off + 32 * j, DeltaRec.ofBytes (read (off + 32 * j) 32))

/-- The bytes that an insertion writes, its status, and whether a sum was clamped (R268). -/
def Arr.insert (a : Arr) (read : Nat → Nat → List Byte) (r : DeltaRec) : List (Nat × List Byte) × Nat × Bool :=
  if r.live then
    let es := bucketEntries read (a.bucket r.key)
    match es.find? fun e => e.2.live && e.2.same r with
    | some (off, e) =>
      let (m, clamped) := clampMult (e.mult + r.mult)
      if m = 0 then ([(off, leBytes 32 0), (a.off + 8, leBytes 4 (wrap 32 ((a.count : Int) - 1)))], 2, clamped)
      else ([(off + 24, leBytes 4 (wrap 32 m))], 0, clamped)
    | none => match es.find? fun e => !e.2.live with
      | some (off, _) => ([(off, r.bytes), (a.off + 8, leBytes 4 ((a.count + 1) % 2 ^ 32))], 1, false)
      | none => ([(a.off + 0xc, leBytes 4 ((a.drops + 1) % 2 ^ 32))], 3, false)
  else ([], 0, false)

/-- Merges the later of two equal live entries into the earlier. -/
def mergeInto (e : DeltaRec) : List DeltaRec → Nat → List DeltaRec
  | [], _ => []
  | x :: l, 0 =>
    let m := (clampMult (x.mult + e.mult)).1
    (if m = 0 then {} else { x with mult := m }) :: l
  | x :: l, k + 1 => x :: mergeInto e l k

def setAt (x : α) : List α → Nat → List α
  | [], _ => []
  | _ :: l, 0 => x :: l
  | y :: l, k + 1 => y :: setAt x l k

/-- One bucket compacted to a time (R271). -/
def compactBucket (b : Nat) (es : List DeltaRec) : List DeltaRec :=
  let es := es.map fun e => if e.live && decide (e.time < b) then { e with time := b } else e
  (natsFrom 1 7).foldl (fun es j => (natsFrom 0 j).foldl (fun es i =>
    let x := es.getD i {}
    let y := es.getD j {}
    if x.live && y.live && x.same y then setAt {} (mergeInto y es i) j else es) es) es

end Sys2Proof.Machine
end

