-- ==== Sys2Proof/Machine/Packet.lean ====
section
/-!
DEFINITION. Packets and how they enter the fabric (R344, R396, R398, R407), and the reins of a hitch (R425, R426, R429).
-/
namespace Sys2Proof.Machine

/-! ## Packets (R396) -/

/-- Payload bytes of the packets of a transfer: at most 224 each, cut at 16-byte boundaries. -/
def packetCuts (off len : Nat) : Nat → List (Nat × Nat)
  | 0 => []
  | n + 1 => if len ≤ 224 then [(off, len)] else (off, 224) :: packetCuts (off + 224) (len - 224) n

def cutsOf (len : Nat) : List (Nat × Nat) := packetCuts 0 len 512

/-- Flits of a packet: a 32-byte header and the payload (R396). -/
def flitsOf (payload : Nat) : Nat := (32 + payload + 63) / 64

def State.partOf (s : State) (ctxnum : Nat) : Nat := ((s.launch? ctxnum).map Launch.part).getD 0

/-- The tile of a column at the foot of the cube, whose root port reaches the root tier (R328). -/
def columnFoot (t : Nat) : Nat := tileAt (tileX t) (tileY t) 0

/-! ### Reins (R425, R426, R429) -/

/-- A package has 32 rein ports: 8 for each of its three peers, and 8 for scale-out, which no window and no instruction reaches (R1, R425). -/
def reinCount : Nat := 32

def scaleOut (rein : Nat) : Bool := decide (24 ≤ rein ∧ rein < reinCount)

/-- Peer j of a hitch position: the other positions in increasing order. -/
def hitchPeer (h j : Nat) : Nat := if j < h then j else j + 1

/-- The index of a position among the peers of another. -/
def peerIndex (h d : Nat) : Nat := if d < h then d else d - 1

/-- The rein of the peer that a rein of position h pairs with: position and rein. -/
def reinPair (h rein : Nat) : Nat × Nat :=
  let d := hitchPeer h (rein / 8)
  (d, 8 * peerIndex d h + rein % 8)

/-- The attachment tile, through whose root port a rein enters the cube (R426). -/
def attachTile (rein : Nat) : Nat := tileAt (2 * (rein % 8)) (4 * (rein / 8) + 1) 0

/-- The rein of a packet for a position (R426, R429): that of its source tile, or the next of the pair that works; none where all eight have
failed. -/
def State.reinFor (s : State) (device stile : Nat) : Option Nat :=
  s.hitchPos.bind fun h =>
    ((natsFrom 0 8).map fun i => 8 * peerIndex h device + (stile + i) % 8).find? fun r => !s.stew.reinsDown.contains r

/-! ### Injection -/

/-- A packet enters at its source's local port, or above a root port: what a memory core sends, or what comes in by a rein. A tile's packet for
itself is ejected 4 cycles on (R398); another leaves the local port 2 cycles on (R407). -/
def State.enterFabric (s : State) (p : Packet) : State :=
  let p := { p with id := s.nextId, since := s.now, born := s.now }
  let s := { s with packets := s.packets ++ [p], nextId := s.nextId + 1 }
  s.atCycle (s.now + if p.inPort = 7 ∧ p.at_ = p.dtile ∧ p.dkind = 0 then 4 else 2) (.packetHop p.id)

/-- Puts a packet into the fabric on its way to an agent: a memory core is reached down the column of the tile. -/
def State.inject (s : State) (src dest cls ctxnum payload charged : Nat) (upward : Bool) (cargo : Cargo) : State :=
  let foot := columnFoot (if isCore src then dest else src)
  let at_ := if isCore src then foot else src
  s.enterFabric
    { id := 0, at_ := at_, inPort := if isCore src then 8 else 7, part := s.partOf ctxnum, ctxnum := ctxnum, stile := at_, cls := cls,
      dkind := if isCore dest then 1 else 0, dtile := if isCore dest then foot else dest, flits := flitsOf payload, born := 0,
      charged := charged, upward := upward, cargo := cargo }

/-- Puts a packet into the fabric on its way to another package of the hitch (R426). -/
def State.injectOut (s : State) (src device ctxnum payload : Nat) (cargo : Cargo) : State :=
  let rein := s.reinFor device src
  s.enterFabric
    { id := 0, at_ := src, part := s.partOf ctxnum, ctxnum := ctxnum, stile := src, cls := 9, dkind := 2,
      dtile := attachTile (rein.getD (8 * peerIndex (s.hitchPos.getD 0) device + src % 8)), flits := flitsOf payload, born := 0, cargo := cargo,
      rein := rein, device := device }

/-- The packets of one transfer. Its charged flits are those of its data as a whole (R344). -/
def State.injectAll (s : State) (src dest cls ctxnum : Nat) (charge : Bool) (upward : Bool) (cargo : Nat → Nat → Cargo) (len : Nat) : State :=
  (cutsOf len).foldl (fun s (o, n) =>
    s.inject src dest cls ctxnum n (if charge then (o + n + 63) / 64 - (o + 63) / 64 else 0) upward (cargo o n)) s

/-- The packets of a transfer to another package. -/
def State.injectOutAll (s : State) (src device ctxnum : Nat) (cargo : Nat → Nat → Cargo) (len : Nat) : State :=
  (cutsOf len).foldl (fun s (o, n) => s.injectOut src device ctxnum n (cargo o n)) s

/-- What an agent sends back to the issuer of an access. -/
def State.sendBack (s : State) (agent : Nat) (iss : Issuer) (cargo : Nat → Nat → Cargo) (len : Nat) : State :=
  match iss.away with
  | some d => s.injectOutAll agent d iss.ctxnum cargo len
  | none => s.injectAll agent iss.tile 9 iss.ctxnum false false cargo len

end Sys2Proof.Machine
end

