-- ==== Sys2Proof/Machine/Work.lean ====
section
/-!
DEFINITION. Records and where they wait: order keys (R296), inboxes (R352, R353), deques and depots (R354), armed continuations (R211), and
the records that messages make (R204, R206).
-/
namespace Sys2Proof.Machine

/-! ## The berth's identity -/

/-- The issuer that a task's outstanding work names. -/
def issuerOf (s : State) (n b : Nat) (c : Ctx) : Issuer :=
  { ctxnum := c.ctxnum, tile := n, berth := b, age := c.age, image := c.image, poison := c.poisoned, chron := chronOf s c,
    ordered := c.task.cls != 0, key := c.task.key, entry := c.task.entry, ts := c.task.ts, src := c.task.src, unit := (s.berth n b).unit }

def View.issuer (v : View) : Issuer := issuerOf v.s v.s.cur.tile v.s.cur.berth v.ctx

/-- Whether two issuers are one task. -/
def Issuer.same (a b : Issuer) : Bool := a.ctxnum == b.ctxnum && a.tile == b.tile && a.berth == b.berth && a.age == b.age

/-- The context of a task, if it still runs in its berth. -/
def State.running? (s : State) (i : Issuer) : Option Ctx :=
  (s.ctx? i.tile i.berth).filter fun c => c.ctxnum == i.ctxnum && c.age == i.age

/-- A saved context of an issuer (R438). -/
def Saved.is (x : Saved) (i : Issuer) : Bool := x.tile == i.tile && x.ctx.age == i.age && x.ctx.image == i.image

/-- The context of a task that runs or is saved. -/
def State.task? (s : State) (i : Issuer) : Option Ctx :=
  (s.running? i).or (((s.launch? i.ctxnum).bind fun l => l.saved.find? fun x => x.is i).map Saved.ctx)

/-- Changes the context of a task, in its berth or where it is saved. -/
def State.modTask (s : State) (i : Issuer) (f : Ctx → Ctx) : State :=
  match s.running? i with
  | some _ => s.modCtxAll i.tile i.berth f
  | none => s.modLaunch i.ctxnum fun l => { l with saved := l.saved.map fun x => if x.is i then { x with ctx := f x.ctx } else x }

/-! ## Order keys (R296) -/

/-- Order of keys, and of entries among equal keys. -/
def keyLt (a b : Nat × Nat) : Bool := decide (a.1 < b.1) || (a.1 == b.1 && decide (a.2 < b.2))
def keyEntryLt (a b : (Nat × Nat) × Nat) : Bool := keyLt a.1 b.1 || (a.1 == b.1 && decide (a.2 < b.2))

/-- Gives an ORDERED or DELTA record that enters the pending set its key and entry; a record that has one keeps it. -/
def State.enter (s : State) (r : TaskRec) : State × TaskRec :=
  if r.cls = 0 ∨ r.key.isSome then (s, r)
  else match s.launch? r.ctxnum with
    | none => (s, r)
    | some l =>
      let own := (r.ts.toNat, r.src.toNat)
      let k := match l.lastKey with
        | some last => if keyLt last own then own else last
        | none => own
      (s.setLaunch r.ctxnum { l with nextEntry := l.nextEntry + 1 }, { r with key := some k, entry := l.nextEntry })

def TaskRec.orderKey (r : TaskRec) (ctxnum : Nat) : Option ((Nat × Nat) × Nat) :=
  if r.ctxnum = ctxnum then r.key.map fun k => (k, r.entry) else none

/-- The keys of a tile's records that wait or have not committed: queued, armed, running, or ended. -/
def Tile.orderKeys (t : Tile) (ctxnum : Nat) : List ((Nat × Nat) × Nat) :=
  let recs := (t.held.flatMap fun h => h.items.filterMap fun i => match i with | .continuation r => some r | _ => none) ++ t.inbox ++ t.deque ++ t.armed.map Armed.task ++ t.channels.toList.flatMap Channel.overflow ++
    (t.trackers.filter fun x => !x.committed || x.aborted).map Tracker.task ++
    t.berths.toList.filterMap fun b => b.ctx.map Ctx.task
  recs.filterMap fun r => r.orderKey ctxnum

/-- Blocks of records on their way to a depot or from one. -/
def FlightKind.records : FlightKind → List TaskRec
  | .record r _ => [r]
  | .spill _ _ rs => rs
  | .block _ _ rs => rs
  | _ => []

/-- The keys of every pending or uncommitted ordered record of a launch (R296). -/
def State.orderKeys (s : State) (ctxnum : Nat) : List ((Nat × Nat) × Nat) :=
  s.tiles.flatMap (fun x => x.2.orderKeys ctxnum) ++
  (s.depots.flatMap fun d => (d.2.flatMap Prod.snd).filterMap fun r => r.orderKey ctxnum) ++
  (s.flights.flatMap fun f => f.kind.records.filterMap fun r => r.orderKey ctxnum) ++
  (((s.launch? ctxnum).map Launch.saved).getD []).filterMap fun x => x.ctx.task.orderKey ctxnum

def leastKey : List ((Nat × Nat) × Nat) → Option ((Nat × Nat) × Nat)
  | [] => none
  | k :: ks => match leastKey ks with
    | some m => if keyEntryLt m k then some m else some k
    | none => some k

/-- The ordered frontier (R296). -/
def State.trueFrontier (s : State) (ctxnum : Nat) : Nat := ((leastKey (s.orderKeys ctxnum)).map fun k => k.1.1).getD (2 ^ 64 - 1)

/-- A tile's copy of the ordered frontier (R357). -/
def Tile.phiCopy (t : Tile) (ctxnum : Nat) : Nat := ((lookup ctxnum t.phi).map BitVec.toNat).getD 0

/-- A record inside the speculation window of its tile's copy (R357). -/
def Tile.inWindow (t : Tile) (r : TaskRec) : Bool :=
  r.cls == 0 || r.marked || match r.key with
    | some k => decide (k.1 < t.phiCopy r.ctxnum + 2 ^ 16)
    | none => true

/-- Whether a record may start: inside the window, and of a launch that is neither being saved nor frozen (R357, R441, R446). -/
def State.mayStart (s : State) (t : Tile) (r : TaskRec) : Bool :=
  t.inWindow r && ((s.launch? r.ctxnum).map fun l => l.state == .running).getD true

/-- Asks the sequencer to look again: frontiers to publish, a record to mark, a commit to grant. -/
def State.sequence (s : State) (ctxnum : Nat) : State :=
  [Event.orderedFrontierPublish ctxnum, .markOldestRecord ctxnum, .commitGrant ctxnum, .frontierPublish ctxnum].foldl
    (fun s e => if s.agenda.contains e then s else s.soon e) s

/-! ## Offering work (R351) -/

def Berth.free (b : Berth) : Bool := b.ctx.isNone && !b.frozen

/-- Every free berth tests its sources in each cycle, the lowest-numbered first. -/
def State.offer (s : State) (n : Nat) : State :=
  ((natsFrom 0 (if isCore n then 2 else 4)).filter fun b => (s.berth n b).free).foldl
    (fun s b => if s.timed.contains (s.now, .takeWork n b) then s else s.atCycle s.now (.takeWork n b)) s

/-! ## Inboxes (R352, R353) -/

def chanIx (c : Nat) : Fin 16 := Fin.ofNat 16 c

/-- Places of the inbox buffer in use by channels other than 15. -/
def Tile.inboxUsed (t : Tile) : Nat := (t.inbox.filter fun r => r.chan != 15 && !r.marked).length + t.inboxInline

def Tile.modChannel (t : Tile) (c : Nat) (f : Channel → Channel) : Tile :=
  { t with channels := t.channels.set (chanIx c) (f t.channels[chanIx c]) }

/-- A record arrives at an inbox, or at the overflow list of its channel behind those already there. -/
def State.queueRecord (s : State) (n : Nat) (r : TaskRec) : State :=
  let (s, r) := s.enter { r with arrived := s.now }
  let c := r.chan.toNat
  let t := s.tile n
  let empty := !(t.inbox.any fun x => x.chan == r.chan)
  let s := if c != 15 && (!(t.channels[chanIx c]).overflow.isEmpty || decide (30 ≤ t.inboxUsed)) then
      s.modTile n fun t => t.modChannel c fun x => { x with overflow := x.overflow ++ [r] }
    else
      let s := s.modTile n fun t => { t with inbox := t.inbox ++ [r] }
      if empty && decide (c < 15) then
        (s.modTile n fun t => t.modChannel c fun x => { x with since := s.now }).atCycle (s.now + 4096) (.channelAging n c)
      else s
  let s := (s.wake n).offer n
  if r.cls = 0 then s else s.sequence r.ctxnum

/-! ## Deques and depots (R354) -/

/-- An agent number for the root tier, where the depots stand. -/
def rootTier : Nat := 4096

/-- A block goes to the home depot of its tile (R354, R398). -/
def State.sendSpill (s : State) (n : Nat) (block : List TaskRec) : State :=
  if isCore n then
    { s with depots := insertAt n ((s.nextSpill, block) :: (lookup n s.depots).getD []) s.depots, nextSpill := s.nextSpill + 1 }
  else
  let k := (block.head?.map TaskRec.ctxnum).getD 0
  let f : Flight := { id := s.nextId, kind := .spill n s.nextSpill block, issuer := { ctxnum := k, tile := n, berth := 4 }, checked := true,
                      left := (cutsOf (256 * block.length)).length }
  let s := { s with nextId := s.nextId + 1, nextSpill := s.nextSpill + 1, flights := s.flights ++ [f] }
  s.injectAll n rootTier 9 k false true (.request f.id) (256 * block.length)

/-- Pushes a record at the bottom of a deque; 56 records send the 16 top-most to the home depot. -/
def State.pushDeque (s : State) (n : Nat) (r : TaskRec) : State :=
  let (s, r) := s.enter { r with arrived := s.now }
  let d := r :: (s.tile n).deque
  let s := if 56 ≤ d.length then (s.modTile n fun t => { t with deque := d.take (d.length - 16) }).sendSpill n (d.drop (d.length - 16))
    else s.modTile n fun t => { t with deque := d }
  let s := s.offer n
  if r.cls = 0 then s else s.sequence r.ctxnum

/-! ## Continuations (R211) -/

/-- Arms a continuation: a barrier trigger keeps the object's PHASE; a full table of 32 leaves it in the depot, where the tile tests it
every 1,024 cycles. One that carries a trap resumes at once (R188). -/
def State.arm (s : State) (n : Nat) (r : TaskRec) : State :=
  if r.startTrap.isSome then s.pushDeque n r else
  let r := if r.trig.extractLsb' 30 2 = 0 then
      { r with trig := r.trig.extractLsb' 48 16 ++ (s.bar n (offOf r.trig)).phase ++ r.trig.extractLsb' 0 32 } else r
  let (s, r) := s.enter { r with arrived := s.now }
  let t := s.tile n
  let full := decide (32 ≤ (t.armed.filter fun a => !a.inDepot).length)
  let a : Armed :=
    { task := r, kind := (r.trig.extractLsb' 30 2).toNat, num := (r.trig.extractLsb' 17 4).toNat,
      count := (r.trig.extractLsb' 32 16).toNat, bar := (r.trig.extractLsb' 0 17).toNat, phase := r.trig.extractLsb' 32 16,
      order := t.nextArmed, inDepot := full }
  let s := s.modTile n fun t => { t with armed := t.armed ++ [a], nextArmed := t.nextArmed + 1 }
  let s := if full then s.atCycle (s.now + 1024) (.triggerTableTest n) else s
  let s := s.wake n
  if r.cls = 0 then s else s.sequence r.ctxnum

/-! ## Messages (R203 to R207) -/

def Launch.stage? (l : Launch) (st : Nat) : Option StageEntry := lookup st l.stages
def Launch.handler? (l : Launch) (st : Nat) : Option Handler := (l.stage? st).bind fun e => l.handlers[e.handler]?

/-- The n-th word of a payload. -/
def payloadWord (bs : List Byte) (i : Nat) : Word := BitVec.ofNat 64 (leNat ((bs.drop (8 * i)).take 8))

/-- Words laid out from bit 0 up. -/
def wordsBody (ws : List Word) : BitVec 1536 := BitVec.ofNat 1536 (pack 64 (ws.map BitVec.toNat))

/-- Carried words 0 to 15 and payload words 0 to 7 of a record. -/
def bodyOf (carry payload : List Word) : BitVec 1536 :=
  wordsBody ((natsFrom 0 16).map (fun i => carry.getD i 0) ++ (natsFrom 0 8).map fun i => payload.getD i 0)

def TaskRec.carry (r : TaskRec) (i : Nat) : Word := r.body.extractLsb' (64 * i) 64
def TaskRec.payload (r : TaskRec) (i : Nat) : Word := r.body.extractLsb' (1024 + 64 * i) 64

/-- Bits of CMASK set for the first n words. -/
def cmaskOf (n : Nat) : BitVec 16 := BitVec.ofNat 16 (2 ^ min n 16 - 1)

/-- The record a delivered message makes (R204): SEND, SENDV, SENDI, AMSG. -/
def recordOf (l : Launch) (m : Message) : TaskRec :=
  let h := l.handler? m.stage.toNat
  let base : TaskRec :=
    { hpc := (h.map Handler.entry).getD 0, ts := m.ts, src := BitVec.ofNat 13 m.src, cls := (h.map Handler.cls).getD 0,
      chan := BitVec.ofNat 4 (((l.stage? m.stage.toNat).map StageEntry.chan).getD 0), stage := m.stage, poison := m.poison,
      dest := BitVec.ofNat 12 ((l.virtual? m.destTile).getD 0), launch := l.number, part := BitVec.ofNat 6 l.part, ctxnum := m.ctxnum,
      chron := m.chron }
  let w (i : Nat) := payloadWord m.payload i
  match m.kind with
  | 0 => { base with body := bodyOf [] ((natsFrom 0 m.count).map w) }
  | 1 => { base with body := bodyOf ((natsFrom 0 16).map w) ((natsFrom 16 8).map w), cmask := 0xffff }
  | 2 => { base with inline := true, inlineWords := m.count, body := BitVec.ofNat 1536 (leNat m.payload) }
  | _ =>
    let args := (natsFrom 1 m.count).map w
    { base with
      hpc := (w 0).extractLsb' 1 47 ++ 0#1, cls := 0, chan := 14, amsg := true, cmask := cmaskOf m.count,
      dest := BitVec.ofNat 12 ((l.virtual? m.destTile).getD 0xfff),
      body := bodyOf (args.take 16) ((natsFrom 0 6).map (fun i => args.getD (16 + i) 0) ++ [BitVec.ofNat 64 m.src, 0]) }

end Sys2Proof.Machine
end

