-- ==== Sys2Proof/Machine/FieldImage.lean ====
section
/-!
DEFINITION. A tile's field image as the save area shows it (R441, R442), and a task record's bytes (R32). The tile that a saved launch keeps is
the one home of these values.
-/
namespace Sys2Proof.Machine

/-- The 256 bytes of a task record (R32). -/
def TaskRec.bytes (r : TaskRec) : List Byte :=
  let flag (b : Bool) (i : Nat) : Nat := if b then 2 ^ i else 0
  leBytes 8 r.hpc.toNat ++ leBytes 8 r.ts.toNat ++ leBytes 2 r.src.toNat ++ leBytes 1 r.cls.toNat ++
  leBytes 1 (16 * r.chan.toNat + r.stage.toNat) ++ leBytes 2 (flag r.poison 0 + flag r.cont 1 + flag r.inline 2 + flag r.migrated 3) ++
  leBytes 2 r.cmask.toNat ++ leBytes 4 r.dest.toNat ++ leBytes 4 (r.launch.toNat + 2 ^ 16 * r.part.toNat) ++
  leBytes 8 (if r.cont then r.trig.toNat else 0) ++ List.replicate 24 0 ++ leBytes 192 r.body.toNat

/-- A group of an intake as the record that it holds (R264, R388). -/
def IntakeGroup.bytes (g : IntakeGroup) : List Byte :=
  DeltaRec.bytes { key := g.key.toNat, value := g.value.toNat, time := g.time.toNat, mult := (clampMult g.sum).1, tag := g.tag.toNat }

/-- Bytes of a field image that differ from zero. -/
def cellsAt (off : Nat) (bs : List Byte) : List Host.Cell := ((natsFrom off bs.length).zip bs).filter fun c => c.2 != 0

/-- Bytes 0x00000 to 0x67fff of a tile's field image (R442), by offset; the spec does not lay out what follows. -/
def Tile.fieldImage (t : Tile) (k : Nat) (slice : List Host.Cell) : List Host.Cell :=
  let rows (base first : Nat) (n : Nat) (rs : Rows) : List Host.Cell :=
    (rs.filter fun r => decide (first ≤ r.1 ∧ r.1 < first + n)).flatMap fun r => cellsAt (base + 256 * (r.1 - first)) (rowBytes r.2)
  let records (base : Nat) (rs : List TaskRec) : List Host.Cell := cellsAt base (rs.flatMap TaskRec.bytes)
  slice ++ (t.tags.flatMap fun x => cellsAt (0x20000 + 4 * x.1) (leBytes 4 x.2.toNat)) ++
  (t.mx.slots.filter fun c => c.2 != 0).map (fun c => (0x22000 + c.1, c.2)) ++ rows 0x32000 896 128 t.mx.acc ++
  cellsAt 0x3a000 ((t.coll.partials.flatMap Partial.bytes).take 65536) ++
  (natsFrom 0 2).flatMap (fun i => cellsAt (0x4a000 + 0x4000 * i) (((t.coll.shadow[Fin.ofNat 2 i]).map Partial.bytes).getD [])) ++
  cellsAt 0x52000 (((t.activation.filter fun a => a.1 == k).flatMap fun a => leBytes 8 a.2.2.toNat).take 32768) ++
  cellsAt 0x5a000 (((t.intake.filter fun g => g.ctxnum == k).flatMap IntakeGroup.bytes).take 16384) ++
  records 0x5e000 (t.deque.take 64) ++ records 0x62000 ((t.armed.map Armed.task).take 32) ++
  records 0x64000 ((t.inbox.filter fun r => r.ctxnum == k).take 32) ++
  (natsFrom 0 8).flatMap fun i => cellsAt (0x66000 + 1024 * i) (leBytes 1024 (t.xu.e[Fin.ofNat 8 i]).toNat)

/-- A tile's field image (R442). -/
def fieldImageBytes : Nat := 2 ^ 19

/-- The place of a field in its partition's save area: the first that no other saved field has, where the area has room (R441, R449). -/
def State.savePlace (s : State) (p : Partition) (part tiles : Nat) : Option Nat :=
  let base := p.save.toNat % 2 ^ 48
  let size := p.save.toNat / 2 ^ 48 * 2 ^ 20
  let taken := s.launches.filterMap fun l => if l.2.part = part then l.2.saveAt.map fun a => (a, fieldImageBytes * l.2.tileCount) else none
  let ends := base :: taken.map fun r => r.1 + r.2
  (ends.filter fun a => decide (a + fieldImageBytes * tiles ≤ base + size) && !(taken.any fun r => meets a (fieldImageBytes * tiles) r.1 r.2)).foldl
    (fun b a => match b with | none => some a | some x => some (min x a)) none

end Sys2Proof.Machine
end

