-- ==== Sys2Proof/Machine/Digest.lean ====
section
/-!
DEFINITION. The digest and the signature check that R120, R449 and R452 name: SHA-512, and RSASSA-PSS over RSA-4096 with MGF1 of SHA-512 and a
salt of 64 bytes, as the standards they are named after define them (FIPS 180-4, RFC 8017; PRESUMED, log entry 66).
-/
namespace Sys2Proof.Machine

/-- The first 64 bits of the fractional parts of the cube roots of the first 80 primes. -/
def shaK : List Word :=
  [0x428a2f98d728ae22, 0x7137449123ef65cd, 0xb5c0fbcfec4d3b2f, 0xe9b5dba58189dbbc] ++
  [0x3956c25bf348b538, 0x59f111f1b605d019, 0x923f82a4af194f9b, 0xab1c5ed5da6d8118] ++
  [0xd807aa98a3030242, 0x12835b0145706fbe, 0x243185be4ee4b28c, 0x550c7dc3d5ffb4e2] ++
  [0x72be5d74f27b896f, 0x80deb1fe3b1696b1, 0x9bdc06a725c71235, 0xc19bf174cf692694] ++
  [0xe49b69c19ef14ad2, 0xefbe4786384f25e3, 0x0fc19dc68b8cd5b5, 0x240ca1cc77ac9c65] ++
  [0x2de92c6f592b0275, 0x4a7484aa6ea6e483, 0x5cb0a9dcbd41fbd4, 0x76f988da831153b5] ++
  [0x983e5152ee66dfab, 0xa831c66d2db43210, 0xb00327c898fb213f, 0xbf597fc7beef0ee4] ++
  [0xc6e00bf33da88fc2, 0xd5a79147930aa725, 0x06ca6351e003826f, 0x142929670a0e6e70] ++
  [0x27b70a8546d22ffc, 0x2e1b21385c26c926, 0x4d2c6dfc5ac42aed, 0x53380d139d95b3df] ++
  [0x650a73548baf63de, 0x766a0abb3c77b2a8, 0x81c2c92e47edaee6, 0x92722c851482353b] ++
  [0xa2bfe8a14cf10364, 0xa81a664bbc423001, 0xc24b8b70d0f89791, 0xc76c51a30654be30] ++
  [0xd192e819d6ef5218, 0xd69906245565a910, 0xf40e35855771202a, 0x106aa07032bbd1b8] ++
  [0x19a4c116b8d2d0c8, 0x1e376c085141ab53, 0x2748774cdf8eeb99, 0x34b0bcb5e19b48a8] ++
  [0x391c0cb3c5c95a63, 0x4ed8aa4ae3418acb, 0x5b9cca4f7763e373, 0x682e6ff3d6b2b8a3] ++
  [0x748f82ee5defb2fc, 0x78a5636f43172f60, 0x84c87814a1f0ab72, 0x8cc702081a6439ec] ++
  [0x90befffa23631e28, 0xa4506cebde82bde9, 0xbef9a3f7b2c67915, 0xc67178f2e372532b] ++
  [0xca273eceea26619c, 0xd186b8c721c0c207, 0xeada7dd6cde0eb1e, 0xf57d4f7fee6ed178] ++
  [0x06f067aa72176fba, 0x0a637dc5a2c898a6, 0x113f9804bef90dae, 0x1b710b35131c471b] ++
  [0x28db77f523047d84, 0x32caab7b40c72493, 0x3c9ebe0a15c9bebc, 0x431d67c49c100d4c] ++
  [0x4cc5d4becb3e42b6, 0x597f299cfc657e2a, 0x5fcb6fab3ad6faec, 0x6c44198c4a475817]

/-- The first 64 bits of the fractional parts of the square roots of the first 8 primes. -/
def shaH : List Word :=
  [0x6a09e667f3bcc908, 0xbb67ae8584caa73b, 0x3c6ef372fe94f82b, 0xa54ff53a5f1d36f1] ++
  [0x510e527fade682d1, 0x9b05688c2b3e6c1f, 0x1f83d9abfb41bd6b, 0x5be0cd19137e2179]

/-- A number as big-endian bytes. -/
def beBytes (n x : Nat) : List Byte := (leBytes n x).reverse

/-- The number of big-endian bytes. -/
def beNat (bs : List Byte) : Nat := leNat bs.reverse

/-- The message with a 1 bit, zeros, and its length in bits, in whole blocks of 128 bytes. -/
def shaPad (bs : List Byte) : List Byte :=
  bs ++ 0x80 :: List.replicate ((239 - bs.length % 128) % 128) 0 ++ beBytes 16 (8 * bs.length)

/-- One more word of a message schedule, which is held latest first. -/
def shaNext (w : List Word) : List Word :=
  let x (i : Nat) : Word := w.getD i 0
  let s0 (y : Word) : Word := y.rotateRight 1 ^^^ y.rotateRight 8 ^^^ y >>> 7
  let s1 (y : Word) : Word := y.rotateRight 19 ^^^ y.rotateRight 61 ^^^ y >>> 6
  (s1 (x 1) + x 6 + s0 (x 14) + x 15) :: w

/-- The 80 words of a block's schedule. -/
def shaSchedule (block : List Byte) : List Word :=
  let first := (chunks 8 128 block).map fun b => BitVec.ofNat 64 (beNat b)
  ((natsFrom 0 64).foldl (fun w _ => shaNext w) first.reverse).reverse

/-- One round over the eight working words. -/
def shaRound (v : List Word) (kw : Word × Word) : List Word :=
  match v with
  | [a, b, c, d, e, f, g, h] =>
    let s1 := e.rotateRight 14 ^^^ e.rotateRight 18 ^^^ e.rotateRight 41
    let t1 := h + s1 + ((e &&& f) ^^^ (~~~e &&& g)) + kw.1 + kw.2
    let s0 := a.rotateRight 28 ^^^ a.rotateRight 34 ^^^ a.rotateRight 39
    let t2 := s0 + ((a &&& b) ^^^ (a &&& c) ^^^ (b &&& c))
    [t1 + t2, a, b, c, d + t1, e, f, g]
  | _ => v

/-- SHA-512 as bytes. -/
def sha512Bytes (bs : List Byte) : List Byte :=
  let padded := shaPad bs
  let step (h : List Word) (block : List Byte) : List Word := List.zipWith (· + ·) h ((shaK.zip (shaSchedule block)).foldl shaRound h)
  ((chunks 128 padded.length padded).foldl step shaH).flatMap fun w => beBytes 8 w.toNat

/-- SHA-512 (R120, R449, R452): its bytes as the low-address-first bytes of a value. -/
def sha512 (bs : List Byte) : BitVec 512 := BitVec.ofNat 512 (leNat (sha512Bytes bs))

/-- A power modulo n, over at most `k` bits of the exponent. -/
def powMod (n : Nat) : Nat → Nat → Nat → Nat
  | 0, _, _ => 1 % n
  | k + 1, x, e =>
    if e = 0 then 1 % n
    else (if e % 2 = 1 then x % n else 1) * powMod n k (x * x % n) (e / 2) % n

/-- MGF1 with SHA-512: `len` bytes from a seed. -/
def mgf1 (seed : List Byte) (len : Nat) : List Byte :=
  ((natsFrom 0 ((len + 63) / 64)).flatMap fun i => sha512Bytes (seed ++ beBytes 4 i)).take len

/-- RSASSA-PSS of a 4,096-bit key (R120): whether 512 bytes are a signature of a message under a modulus and an exponent. -/
def pssVerify (modulus exponent : Nat) (message signature : List Byte) : Bool :=
  let x := beNat signature
  let em := beBytes 512 (powMod modulus 4096 x exponent)
  let masked := em.take 447
  let h := (em.drop 447).take 64
  let db := List.zipWith (· ^^^ ·) masked (mgf1 h 447)
  let db := match db with | b :: rest => (b &&& 0x7f) :: rest | [] => []
  decide (signature.length = 512 ∧ x < modulus) && em.getLastD 0 == 0xbc && decide ((em.headD 0).toNat < 128) &&
  (db.take 382).all (· == 0) && db.getD 382 0 == 1 &&
  sha512Bytes (List.replicate 8 0 ++ sha512Bytes message ++ db.drop 383) == h

end Sys2Proof.Machine
end

