-- ==== Sys2Proof/Machine/Commit.lean ====
section
/-!
DEFINITION. What leaves a berth and when: packets and flights (R184 to R193, R396, R398), the writes of commit units (R294, R295, R298, R309),
aborts (R299), and what arrives.
-/
namespace Sys2Proof.Machine

/-! ## Flights and requests -/

def State.flight? (s : State) (id : Nat) : Option Flight := s.flights.find? fun f => f.id == id
def State.modFlight (s : State) (id : Nat) (f : Flight → Flight) : State :=
  { s with flights := s.flights.map fun x => if x.id = id then f x else x }
def State.dropFlight (s : State) (id : Nat) : State := { s with flights := s.flights.filter fun x => x.id != id }

/-- A split-phase access of a tile's berth ends: commits that waited for an entry, or for it, go on (R187). -/
def State.endFlight (s : State) (id tile : Nat) : State := (s.dropFlight id).atCycle s.now (.releaseHoldEnd tile)
def State.req? (s : State) (id : Nat) : Option ExtReq := s.reqs.find? fun r => r.id == id
def State.modReq (s : State) (id : Nat) (f : ExtReq → ExtReq) : State :=
  { s with reqs := s.reqs.map fun x => if x.id = id then f x else x }
def State.dropReq (s : State) (id : Nat) : State := { s with reqs := s.reqs.filter fun x => x.id != id }

/-! ## What a berth has in flight (R187) -/

def FlightKind.isWrite : FlightKind → Bool
  | .put .. | .atomic .. | .acas .. => true
  | _ => false

def FlightKind.isGet : FlightKind → Bool
  | .get .. => true
  | _ => false

/-- A kind that occupies a split-phase entry: GET, PUT, posted atomic, remote ACAS, and MREM until its reply (R187, R248). -/
def FlightKind.isSplit : FlightKind → Bool
  | .get .. | .put .. | .atomic .. | .acas .. => true
  | .message m => m.kind == 5
  | .mxReply .. => true
  | _ => false

def State.inFlight (s : State) (n b : Nat) : Nat :=
  (s.flights.filter fun f => f.issuer.tile == n && f.issuer.berth == b && f.kind.isSplit).length

/-- Every request of an accumulating PUT has been taken by its core: what it still waits for there is the other slices (R341). -/
def State.taken (s : State) (f : Flight) : Bool :=
  match f.kind with
  | .put _ ctl _ => ctl.getLsbD 23 && s.reqs.all fun r => r.flight != f.id || r.accepted
  | .contrib .. => s.reqs.all fun r => r.flight != f.id || r.accepted
  | _ => false

/-- A write that has not been performed at its destination; an accumulating PUT has been once its core has taken it (R295, R297). -/
def State.unperformed (s : State) (f : Flight) : Bool := f.kind.isWrite && !f.performed && !s.taken f

/-- Writes of a berth that have been sent and are not performed. -/
def State.writesOut (s : State) (n b : Nat) : Bool :=
  s.flights.any fun f => f.issuer.tile == n && f.issuer.berth == b && s.unperformed f

/-! ## Rows of an image (R20, R185, R284) -/

/-- Changes the rows of a context's image wherever they stand: in the berth that runs it, in its saved context, or in the image. A
pending result in a row that changes completes. -/
def State.modRows (s : State) (ctxnum image : Nat) (f : Rows → Rows) (g : List (Nat × Nat) → List (Nat × Nat)) (changed : List Nat) : State :=
  match s.launch? ctxnum with
  | none => s
  | some l =>
    match lookup image l.images with
    | none => s
    | some im =>
      let fix (c : Ctx) : Ctx :=
        { c with rows := f c.rows, rowPoison := g c.rowPoison, pend := c.pend.map fun p => match p.dest with
            | .row n _ => if changed.contains n then { p with doneAt := min p.doneAt s.now } else p
            | _ => p }
      let gated := if isCore im.agent then [] else changed.filter fun r => (s.tile im.agent).rowGated (ctxnum, image, r)
      let s := s.touchPresent im.agent ctxnum image changed
      let s := match s.ctx? im.agent im.berth with
      | some c =>
        if c.ctxnum = ctxnum ∧ c.image = image then s.modCtxAll im.agent im.berth fix
        else s.setLaunch ctxnum { l with images := insertAt image { im with rows := f im.rows, rowPoison := g im.rowPoison } l.images }
      | none =>
        if l.saved.any fun x => x.ctx.image == image then
          s.setLaunch ctxnum { l with saved := l.saved.map fun x => if x.ctx.image = image then { x with ctx := fix x.ctx } else x }
        else s.setLaunch ctxnum { l with images := insertAt image { im with rows := f im.rows, rowPoison := g im.rowPoison } l.images }
      -- a gated row's image is written directly (R284)
      gated.foldl (fun s r => s.writeImageRow (ctxnum, image, r)) s

/-- Bytes of a row replaced from a position on. -/
def rowPut (r : Row) (at_ : Nat) (bs : List Byte) : Row :=
  let old := rowBytes r
  rowOfBytes (old.take at_ ++ bs ++ old.drop (at_ + bs.length))

/-- A run of bytes delivered to consecutive rows, each row's part as one write (R185). -/
def deliverRows (rs : Rows) (row : Nat) : Nat → List Byte → Rows
  | 0, _ => rs
  | n + 1, bs => if bs.isEmpty then rs
    else deliverRows (rowsSet rs row (rowPut (rowsGet rs row) 0 (bs.take 256))) (row + 1) n (bs.drop 256)

/-! ## Runs of split-phase writes (R184, R188) -/

def ctlLen (ctl : Word) : Nat := 16 * ((ctl.extractLsb' 17 6).toNat + 1)
def ctlBar (ctl : Word) : Nat := (ctl.extractLsb' 0 17).toNat
def ctlAcc (ctl : Word) : Bool := ctl.getLsbD 23
def ctlSlice (ctl : Word) : Nat := (ctl.extractLsb' 24 12).toNat
def ctlAxis (ctl : Word) : Nat := (ctl.extractLsb' 36 2).toNat

/-- The run of a split-phase write: pointer, bytes, alignment, and how it uses a page. -/
def Item.run : Item → Option (Word × Nat × Nat × PageUse)
  | .put p ctl d => some (p, d.length, 16, if d.length = 64 ∧ ctlAcc ctl = false ∧ offOf p % 256 + 64 ≤ 256 then .service else .write)
  | .atomic _ p _ => some (p, 8, 8, .write)
  | .acas p _ _ _ _ => some (p, 8, 8, .write)
  | _ => none

/-- Lets go of the translations that the checks of a buffer's writes pinned (R188, R333). -/
def State.unpinItems (s : State) (agent ctxnum : Nat) (items : List Item) : State :=
  items.foldl (fun s i => match i.run with
    | some (p, len, _, _) => match s.place agent ctxnum p len with
      | some (.ext va) => (granules va len).foldl (fun s g => s.pin (((s.launch? ctxnum).map Launch.part).getD 0) g.1 false) s
      | _ => s
    | none => s) s

/-! ## Aborts (R298, R299) -/

/-- Restores resident rows of an image; where the berth's task keeps its own copy of a row, that copy changes instead. -/
def State.restoreKept (s : State) (ctxnum image : Nat) (kept : Rows) : State :=
  let own := ((s.launch? ctxnum).bind fun l => lookup image l.images).bind fun im =>
    (s.ctx? im.agent im.berth).filter fun c => c.ctxnum == ctxnum && c.image == image
  let mine := (own.map Ctx.kept).getD []
  let direct := kept.filter fun k => (lookup k.1 mine).isNone
  let s := s.modRows ctxnum image (fun rs => direct.foldl (fun rs k => rowsSet rs k.1 k.2) rs) id (direct.map Prod.fst)
  match own, (s.launch? ctxnum).bind fun l => lookup image l.images with
  | some _, some im => s.modCtxAll im.agent im.berth fun c =>
      { c with kept := c.kept.map fun k => match lookup k.1 kept with | some r => (k.1, r) | none => k }
  | _, _ => s

/-- GETs of a task that have not delivered. -/
def State.getsOut (s : State) (i : Issuer) : Bool :=
  s.flights.any fun f => f.issuer.same i && match f.kind with | .get .. => true | _ => false

/-- Starts an aborted task's record again on its own tile, once every GET of the aborted run has delivered and its rows are restored. -/
def State.rerun (s : State) (n : Nat) (x : Tracker) : State :=
  if s.getsOut x.issuer then
    s.modTile n fun t => { t with trackers := t.trackers ++ [{ x with aborted := true, committed := false, buf := [] }] }
  else
    (s.restoreKept x.issuer.ctxnum x.issuer.image x.kept).pushDeque n x.task

/-- Aborts the ordered task running in a berth: nothing of it remains, and its record runs again. -/
def State.abortCtx (s : State) (n b : Nat) (c : Ctx) : State :=
  let x : Tracker := { id := 0, issuer := issuerOf s n b c, task := c.task, kept := c.kept, floor := c.floor }
  let s := (s.modTile n fun t => releaseUnits t b).dropCommands n c.uncommitted
  ((freeBerth s n b c).rerun n x).offer n

/-- Whether an uncommitted task of key `k` is one that a commit of key `c` aborts on a line of stamp time tau (R298, R300): its key is above. -/
def conflicts (c k : Nat × Nat) (tau : Nat) : Bool := keyLt c k && decide (k.1 ≤ tau)

/-- Aborts, on one tile, the tasks of a launch that a conflict names. -/
def State.abortTile (s : State) (ctxnum : Nat) (hit : Nat × Nat → Bool) (n : Nat) : State :=
  let t := s.tile n
  let ended := t.trackers.filter fun x => x.issuer.ctxnum == ctxnum && !x.committed && !x.aborted && (x.task.key.map hit).getD false
  let s := ended.foldl (fun s x =>
    (((s.modTile n fun t => { t with trackers := t.trackers.filter fun y => y.id != x.id }).dropCommands n x.buf).unpinItems n ctxnum x.buf).rerun n x) s
  (natsFrom 0 4).foldl (fun s b => match s.ctx? n b with
    | some c => if c.ctxnum = ctxnum ∧ c.task.cls ≠ 0 ∧ (c.task.key.map hit).getD false = true then s.abortCtx n b c else s
    | none => s) s

/-- Aborts the saved contexts of a launch likewise. -/
def State.abortSaved (s : State) (ctxnum : Nat) (hit : Nat × Nat → Bool) : State :=
  match s.launch? ctxnum with
  | none => s
  | some l =>
    let out := l.saved.filter fun x => x.ctx.task.cls != 0 && (x.ctx.task.key.map hit).getD false
    if out.isEmpty then s
    else
      let s := s.setLaunch ctxnum { l with
        saved := l.saved.filter fun x => !(out.contains x),
        images := out.foldl (fun is x => match lookup x.ctx.image is with
          | some im => insertAt x.ctx.image { im with rows := x.ctx.rows, rowPoison := x.ctx.rowPoison } is
          | none => is) l.images }
      out.foldl (fun s x => s.rerun x.tile
        { id := 0, issuer := issuerOf s x.tile 4 x.ctx, task := x.ctx.task, kept := x.ctx.kept, floor := x.ctx.floor }) s

/-- A write of a commit unit is performed on a slice: an ordered one tests the stamp of each line (R298). -/
def State.performWrite (s : State) (agent off : Nat) (bs : List Byte) (iss : Issuer) : State :=
  let s := s.writeSlice agent off bs iss.ctxnum
  match iss.key with
  | some k =>
    let base := stampBase (s.phiOf iss.ctxnum)
    let taus := (linesOf off bs.length).map fun l => tauOf base ((lookup l (s.tile agent).tags).getD 0)
    let hitTaus := taus.filter fun tau => decide (k.1 ≤ tau)
    if hitTaus.isEmpty then s
    else
      let hit (u : Nat × Nat) : Bool := hitTaus.any fun tau => conflicts k u tau
      (s.tiles.map Prod.fst).foldl (fun s n => s.abortTile iss.ctxnum hit n) s |>.abortSaved iss.ctxnum hit
  | none => s

/-! ## Checks of a segment (R188) -/

/-- Checks one write and pins its translations: the cause and pointer of a failure (R188, R333). -/
def State.checkItem (s : State) (agent ctxnum : Nat) (i : Item) : Except (Nat × Word) State :=
  match i.run with
  | none => .ok s
  | some (p, len, align, use) =>
    match s.place agent ctxnum p len with
    | none => .error (Cause.window, p)
    | some pl =>
      if offOf p % align ≠ 0 then .error (Cause.window, p)
      else match pl with
        | .ext va =>
          match s.probe (s.partOf ctxnum) use (granules va len) with
          | none => .error (Cause.translate, p)
          | some s => .ok ((granules va len).foldl (fun s g => s.pin (s.partOf ctxnum) g.1 true) s)
        | _ => .ok s

/-- Checks every write of a segment, the first failure in issue order. -/
def State.checkItems (s : State) (agent ctxnum : Nat) : List Item → Except (Nat × Word) State
  | [] => .ok s
  | i :: is => match s.checkItem agent ctxnum i with
    | .ok s => s.checkItems agent ctxnum is
    | .error e => .error e

/-- The segment's checks as an instruction makes them. -/
def View.segmentChecks (v : View) : Ex View :=
  match v.s.checkItems v.s.cur.tile v.ctx.ctxnum v.ctx.buf with
  | .ok s => .ok { v with s := s }
  | .error (cause, p) => trapWith cause p

/-- The checks of a commit point, which waits until every RQT of the task has written its scale bytes (R245). -/
def View.checkSegment (v : View) : Ex View := do
  waitUntil (!(v.tile.mx.queue.any fun o => o.ownView && o.issuer.berth == v.s.cur.berth && o.issuer.age == v.ctx.age && match o.kind with
    | .rqt .. => true
    | _ => false))
  v.segmentChecks

/-! ## Leaving (R201, R207, R309) -/

/-- Bytes that a request carries to its core. -/
def ExtKind.up : ExtKind → Nat
  | .write d _ => d.length
  | .acc d .. => d.length
  | .scatter ps => (ps.map fun p => p.2.1.length).sum
  | .atomic .. => 8
  | .acas .. => 16
  | _ => 0

/-- One request to a memory core (R328), for a flight and the place of its bytes there. -/
def State.sendReq (s : State) (src va : Nat) (kind : ExtKind) (flight off : Nat) (pinned : Bool) (iss : Issuer) : State :=
  let up := kind.up
  let r : ExtReq := { id := s.nextId, part := s.partOf iss.ctxnum, ctxnum := iss.ctxnum, va := va, kind := kind, flight := flight, off := off,
                      src := src, pinned := pinned, issuer := iss, left := (cutsOf up).length }
  let s := { s with reqs := s.reqs ++ [r], nextId := s.nextId + 1 }
  if isCore src then (s.modReq r.id fun r => { r with left := 0 }).soon (.externalRequestArrival r.id)
  else s.injectAll src (servingCore va) 9 iss.ctxnum (decide (0 < up)) true (fun o _ => .ext r.id o) up

/-- The words of a list that lie in a part of a run, numbered from the part's first. -/
def wordsIn (ws : List Nat) (o n : Nat) : List Nat := (ws.filter fun w => decide (o ≤ 8 * w ∧ 8 * w < o + n)).map fun w => w - o / 8

/-- The runs of bytes between the 16-byte units that hold a word named: each with its place. -/
def cleanRuns (bs : List Byte) (skip : List Nat) : List (Nat × List Byte) :=
  if skip.isEmpty then [(0, bs)]
  else (natsFrom 0 ((bs.length + 15) / 16)).foldl (fun (acc : List (Nat × List Byte)) u =>
    if skip.contains (2 * u) || skip.contains (2 * u + 1) then acc
    else
      let unit := (bs.drop (16 * u)).take 16
      match acc.getLast? with
      | some (o, b) => if o + b.length = 16 * u then acc.dropLast ++ [(o, b ++ unit)] else acc ++ [(16 * u, unit)]
      | none => [(16 * u, unit)]) []

/-- The request of a part of a flight's external run. -/
def FlightKind.extKind (k : FlightKind) (o n nsl : Nat) : ExtKind :=
  match k with
  | .put _ ctl d => if ctl.getLsbD 23 then .acc ((d.drop o).take n) (ctlSlice ctl) (ctlAxis ctl) nsl [] else .write ((d.drop o).take n) []
  | .atomic op _ b => .atomic op b
  | .acas _ e w _ _ => .acas e w
  | .store _ _ _ d skip => .write ((d.drop o).take n) (wordsIn skip o n)
  | .contrib _ _ _ d slice axis skip => .acc ((d.drop o).take n) slice axis nsl (wordsIn skip o n)
  | _ => .read n

/-- The axis whose slices a flight's contributions count. -/
def FlightKind.axis : FlightKind → Nat
  | .put _ ctl _ => ctlAxis ctl
  | .contrib _ _ _ _ _ a _ => a
  | _ => 0

/-- Whether a flight reads. -/
def FlightKind.reads : FlightKind → Bool
  | .get .. => true
  | .fetch .. => true
  | _ => false

/-- Whether the probes of its check pinned a flight's translations, which then hold until it is performed (R333). -/
def FlightKind.pins : FlightKind → Bool
  | .put .. => true
  | .atomic .. => true
  | .acas .. => true
  | _ => false

/-- Bytes that a flight carries to its destination. -/
def FlightKind.up : FlightKind → Nat
  | .put _ _ d => d.length
  | .atomic .. => 8
  | .acas .. => 16
  | .store _ _ _ d _ => d.length
  | .contrib _ _ _ d .. => d.length
  | _ => 0

/-- Sends a flight to a place on its way (R184, R218, R328). -/
def State.sendTo (s : State) (iss : Issuer) (kind : FlightKind) (pl : Place) (len : Nat) : State :=
  let id := s.nextId
  let parts := match pl with
    | .ext va => (granules va len).length
    -- what is sent to another package waits for the packets that come back
    | .away .. => if kind.reads then (cutsOf len).length else 1
    | _ => match kind with
      | .put _ _ d => (cutsOf d.length).length
      | .store _ _ _ d _ => (cutsOf d.length).length
      | _ => 1
  let checks := match pl, kind with
    | .ext _, .get .. => true
    | _, _ => false
  let f : Flight := { id := id, kind := kind, issuer := iss, left := parts,
                      data := if kind.reads then (natsFrom 0 len).map fun _ => 0 else [], checked := !checks }
  let s := { s with nextId := id + 1, flights := s.flights ++ [f] }
  match pl with
  | .slice agent _ => s.injectAll iss.tile agent 9 iss.ctxnum false false (.request id) kind.up
  | .ext va =>
    let nsl := ((s.launch? iss.ctxnum).map fun l => l.sliceCount kind.axis).getD 0
    (granules va len).foldl (fun s (a, n) => s.sendReq iss.tile a (kind.extKind (a - va) n nsl) id (a - va) kind.pins iss) s
  | .away d .. => s.injectOutAll iss.tile d iss.ctxnum (.request id) kind.up

/-- Sends a flight of a split-phase access on its way. -/
def State.sendAccess (s : State) (iss : Issuer) (kind : FlightKind) (p : Word) (len : Nat) : State :=
  match s.place iss.tile iss.ctxnum p len with
  | none => s
  | some pl => s.sendTo iss kind pl len

/-- The class of a message (R398). -/
def messageClass (chan : Nat) : Nat := if chan < 12 then chan % 8 else 8

/-- Sends a message (R206, R207): its header carries the CHRON of the injection. -/
def State.sendMessage (s : State) (iss : Issuer) (m : Message) : State :=
  let m := { m with chron := max s.chron iss.chron }
  let chan := if m.kind = 3 then 14 else if m.kind = 5 then 13
    else (((s.launch? m.ctxnum).bind fun l => l.stage? m.stage.toNat).map StageEntry.chan).getD 0
  let f : Flight := { id := s.nextId, kind := .message m, issuer := iss, checked := true }
  let s := { s with flights := s.flights ++ [f], nextId := s.nextId + 1 }
  s.injectAll iss.tile m.destTile (messageClass chan) m.ctxnum false false (.request f.id) (m.payload.length)

/-- Sends a record to another tile's deque (R355, R356). -/
def State.sendRecord (s : State) (src dest : Nat) (r : TaskRec) : State :=
  let f : Flight := { id := s.nextId, kind := .record r dest, issuer := { ctxnum := r.ctxnum, tile := src, berth := 4 } }
  let s := { s with flights := s.flights ++ [f], nextId := s.nextId + 1 }
  s.injectAll src dest 9 r.ctxnum false false (.request f.id) 224

/-- The BAREXP of an object as it stands (R198): none where it must trap or mark OVER. -/
def Bar.expectNext (o : Bar) (b : Nat) : Option Bar :=
  if o.done then (if b < o.ncount then none else some { o with expect := b })
  else if b ≤ o.count then some { o with expect := b, ncount := o.count - b, count := b, done := true }
  else some { o with expect := b }

/-- BARINIT's object (R198): arrivals in flight count into the new phase. -/
def Bar.fresh (b : Nat) : Bar := { done := false, ovr := false, phase := 0, ncount := 0, expect := b, count := 0 }

def State.barInit (s : State) (n off b : Nat) (owner : Nat) : State :=
  (s.setBar n off (Bar.fresh b) owner).modBarSide n off fun _ => {}

/-- One item leaves the berth. -/
def State.leave (s : State) (iss : Issuer) (i : Item) : State :=
  let n := iss.tile
  match i with
  | .store off d => s.performWrite n off d iss
  | .put p ctl d => s.sendAccess iss (.put p ctl d) p d.length
  | .atomic op p b => s.sendAccess iss (.atomic op p b) p 8
  | .acas p e w bar row => s.sendAccess iss (.acas p e w bar row) p 8
  | .message m => s.sendMessage iss m
  | .spawn r => s.pushDeque n { r with chron := max s.chron iss.chron }
  | .continuation r => s.arm n { r with chron := max s.chron iss.chron }
  | .arrive off b => s.arrive n off b iss false
  | .barInit off e => (s.barInit n off e iss.ctxnum).wake n
  | .barExpect off e =>
    match (s.bar n off).expectNext e with
    | some o => (s.setBar n off o iss.ctxnum).wake n
    | none =>
      -- a commit never fails: the object is marked and reported (R198)
      (s.setBar n off { s.bar n off with ovr := true } iss.ctxnum).report
        (.barrier iss.ctxnum iss.src.toNat n off)
  | .command eng id =>
    let mine (o : EngineOp) : Bool := o.id == id
    let sent (o : EngineOp) : EngineOp := { o with stage := .queued, issuer := iss }
    let s := s.modTile n fun t => { t with ops := (t.ops.filter fun o => !mine o) ++ (t.ops.filter mine).map sent }
    (if eng = 2 then s.soon (.accumulatorShadowCopy n id) else s).soon (.engineTakeCommand n eng)
  | .rqtScales off d => s.performWrite n off d iss
  | .insert desc rec ws =>
    -- the entry and the counts are changed as they stand now (R273)
    let now := match arrAt (s.readSlice n) desc with
      | some a => (a.insert (s.readSlice n) (DeltaRec.ofBytes rec)).1
      | none => ws
    now.foldl (fun s w => s.performWrite n w.1 w.2 iss) s

/-- The pointer and length of a flight's access. -/
def FlightKind.run : FlightKind → Option (Word × Nat)
  | .get p ctl _ => some (p, ctlLen ctl)
  | .put p _ d => some (p, d.length)
  | .atomic _ p _ => some (p, 8)
  | .acas p _ _ _ _ => some (p, 8)
  | _ => none

/-- The place and length of a flight's access. -/
def State.flightPlace (s : State) (f : Flight) : Option (Place × Nat) :=
  match f.kind with
  | .fetch _ _ p n => some (p, n)
  | .store _ _ p d _ => some (p, d.length)
  | .contrib _ _ va d .. => some (.ext va, d.length)
  | k => k.run.bind fun r => (s.place f.issuer.tile f.issuer.ctxnum r.1 r.2).map fun x => (x, r.2)

/-! ## Order among the commit units of a berth (R194, R295, R303, R306) -/

/-- Whether the instance of a scope that holds a tile holds a place: 0 tile, 1 die, 2 cube, 3 hitch, 4 system (R194, R303). -/
def inScope (scope tile : Nat) (p : Place) : Bool :=
  match scope, p with
  | 0, .slice a _ => a == tile
  | 1, .slice a _ => a == tile || (!isCore a && !isCore tile && dieOf a == dieOf tile)
  | 2, .slice .. => true
  | 2, .ext _ => true
  | 3, _ => true
  | 4, _ => true
  | _, _ => false

/-- The place that a write of memory goes to, with its length; messages, records and commands write none. -/
def State.itemPlace (s : State) (iss : Issuer) (i : Item) : Option (Place × Nat) :=
  match i with
  | .store off d => some (.slice iss.tile off, d.length)
  | .rqtScales off d => some (.slice iss.tile off, d.length)
  | .insert .. => some (.slice iss.tile 0, 2 ^ 17)
  | .arrive off _ => some (.slice iss.tile off, 16)
  | .barInit off _ => some (.slice iss.tile off, 16)
  | .barExpect off _ => some (.slice iss.tile off, 16)
  | .put p _ d => (s.place iss.tile iss.ctxnum p d.length).map fun x => (x, d.length)
  | .atomic _ p _ => (s.place iss.tile iss.ctxnum p 8).map fun x => (x, 8)
  | .acas p _ _ _ _ => (s.place iss.tile iss.ctxnum p 8).map fun x => (x, 8)
  | _ => none

/-- An earlier commit unit of the berth than `unit` has a write that is not performed, or a GET that has not read, of which a later write at a
place inside its closing scope must wait (R295, R306). -/
def State.earlierOut (s : State) (n b unit : Nat) (p : Place) : Bool :=
  s.flights.any fun f => f.issuer.tile == n && f.issuer.berth == b && decide (f.issuer.unit < unit) &&
    (s.unperformed f || (f.kind.isGet && !f.performed)) && inScope f.issuer.scope n p

/-- Whether an item must wait for earlier units of its berth: a write for those whose scope holds its destination; whatever tells another
agent of the writes before it, for all of them and for its own unit's (R207, R295, R305). -/
def State.waitsFor (s : State) (h : Held) (i : Item) : Bool :=
  let n := h.issuer.tile
  let b := h.issuer.berth
  h.after && if i.run.isSome || i.isNear then (s.itemPlace h.issuer i).any fun x => s.earlierOut n b h.issuer.unit x.1
    else s.earlierOut n b (h.issuer.unit + 1) (.slice n 0)

/-- Items leave in order until one must wait, or the split-phase entries of the berth are all in use (R187). -/
def State.leaveAll (s : State) (h : Held) : List Item → State × List Item
  | [] => (s, [])
  | i :: is =>
    let split := i.run.isSome || match i with | .message m => m.kind == 5 | _ => false
    if s.waitsFor h i || (split && decide (16 ≤ s.inFlight h.issuer.tile h.issuer.berth)) then (s, i :: is)
    else (s.leave h.issuer i).leaveAll h is

/-- The cycle at which the chronometer reaches a count. -/
def State.cycleOf (s : State) (chron : Nat) : Nat := s.now + ((chron - s.chron) * s.clock + 999) / 1000 + 1

/-- Lets the held items of a tile go whose time has come, each berth's in order (R295, R309). -/
def State.releaseFrom (s : State) (n : Nat) (blocked : List Nat) : List Held → State × List Held
  | [] => (s, [])
  | h :: hs =>
    let b := h.issuer.berth
    if blocked.contains b || decide (s.chron < h.release) then
      let (s, rest) := s.releaseFrom n (b :: blocked) hs
      (s, h :: rest)
    else
      let (s, left) := s.leaveAll h h.items
      if left.isEmpty then s.releaseFrom n blocked hs
      else
        let (s, rest) := s.releaseFrom n (b :: blocked) hs
        (s, { h with items := left } :: rest)

/-- The earliest hold of a tile that only waits for the chronometer is looked at again when its time comes. -/
def State.armRelease (s : State) (n : Nat) : State :=
  match ((s.tile n).held.map Held.release).filter fun r => decide (s.chron < r) with
  | [] => s
  | r :: rs =>
    let c := s.cycleOf (rs.foldl min r)
    if s.timed.contains (c, .releaseHoldEnd n) then s else s.atCycle c (.releaseHoldEnd n)

def State.releaseHeld (s : State) (n : Nat) : State :=
  let hs := (s.tile n).held
  let (s, rest) := (s.modTile n fun t => { t with held := [] }).releaseFrom n [] hs
  (s.modTile n fun t => { t with held := rest ++ t.held }).armRelease n

/-- A record that stays on its tile: a hold covers only what leaves the tile (R309). -/
def Item.staysHere : Item → Bool
  | .spawn _ | .continuation _ => true
  | _ => false

/-- The berth's next commit unit: its number, with the scope that closes it, which its GETs in flight take over (R295). -/
def State.openUnit (s : State) (iss : Issuer) (scope : Nat) : State × Issuer :=
  let n := iss.tile
  let b := iss.berth
  let u := (s.berth n b).unit
  let close (f : Flight) : Flight := if f.issuer.tile == n && f.issuer.berth == b && f.issuer.unit == u
    then { f with issuer := { f.issuer with scope := scope } } else f
  ({ s.modBerth n b (fun x => { x with unit := u + 1 }) with flights := s.flights.map close }, { iss with unit := u, scope := scope })

/-- Commits a unit with a closing scope (R294, R295, R309): its near stores become visible together once the berth's earlier release lets them;
its split-phase writes leave after them, and the rest of its items after those in issue order, when the chronometer has passed this release's
reading by 5. The records that stay on the tile, where no other item comes first, wait for the earlier release alone. -/
def State.commitUnit (s : State) (iss : Issuer) (items : List Item) (scope : Nat := 2) : State :=
  let n := iss.tile
  let b := iss.berth
  let stores := items.filter Item.isNear
  let writes := items.filter fun i => i.run.isSome
  let rest := items.filter fun i => i.run.isNone && !i.isNear
  let hold := (s.berth n b).holdUntil
  let (s, iss) := s.openUnit iss scope
  let s := s.modLaunch iss.ctxnum fun l => { l with commitChron := max l.commitChron iss.chron }
  let entry (release : Nat) (is : List Item) : List Held :=
    if is.isEmpty then [] else [{ issuer := iss, release := release, after := true, items := is }]
  let s := s.modTile n fun t =>
    { (t.setBerth b { t.berth b with holdUntil := iss.chron + 5 }) with
      held := t.held ++ entry hold stores ++ entry (iss.chron + 5) writes ++ entry hold (rest.takeWhile Item.staysHere) ++
        entry (iss.chron + 5) (rest.dropWhile Item.staysHere) }
  s.releaseHeld n

/-- Closes the open segment of the issuing FREE task with its checks passed (R188, R194). -/
def View.closeSegment (v : View) (scope : Nat := 2) : View :=
  let s := v.s.commitUnit v.issuer v.ctx.buf scope
  { v with s := s, ctx := { v.ctx with buf := [] } }

/-! ## Arriving -/

/-- Old and new of an atomic (R191). -/
def atomicNew (op : Nat) (old b : Word) : Word :=
  match op with
  | 0 => old + b
  | 1 => old &&& b
  | 2 => old ||| b
  | 3 => old ^^^ b
  | 4 => if b.slt old then b else old
  | 5 => if old.slt b then b else old
  | 6 => if b.ult old then b else old
  | 7 => if old.ult b then b else old
  | _ => b

def wordBytes (w : Word) : List Byte := leBytes 8 w.toNat
def bytesWord (bs : List Byte) : Word := BitVec.ofNat 64 (leNat bs)

/-- The slice an access reaches. -/
def State.flightSlice (s : State) (f : Flight) : Option (Nat × Nat) :=
  match s.flightPlace f with
  | some (.slice a o, _) => some (a, o)
  | _ => none

/-- The step of an engine operation that its requests bring on. -/
def EngineOp.event (n : Nat) (o : EngineOp) : Event :=
  match o.kind with
  | .record bs => match (leNat (bs.take 1)) with
    | 0 => if isCore n then .gather n o.id else .copyCommandCopy n o.id
    | 1 => if isCore n then .scatter n o.id else .copyCommandSlotFill n o.id
    | 2 => .copyCommandAccumulatingStore n o.id
    | _ => .copyCommandFill n o.id
  | _ => .ringOperationFiring n o.id

/-- An engine operation looks at its requests again. -/
def State.goOnOp (s : State) (n id : Nat) : State :=
  match (s.tile n).ops.find? fun o => o.id == id with
  | some o => s.once (o.event n)
  | none => s

/-- A write performed at a slice (R186, R191, R193): the state and the old value. An atomic that meets a poisoned word returns none of its data:
nothing is written, and the word stays poisoned (R288). -/
def State.performAt (s : State) (f : Flight) (agent off : Nat) : State × Word :=
  match f.kind with
  | .put _ _ d => ((s.performWrite agent off d f.issuer).poisonSlice agent 0 (f.poison.map fun w => off / 8 + w), 0)
  | .atomic op _ b =>
    if s.poisoned (slicePa agent off) 8 then (s, 0)
    else
    let old := bytesWord (s.readSlice agent off 8)
    (s.performWrite agent off (wordBytes (atomicNew op old b)) f.issuer, old)
  | .acas _ e w _ _ =>
    if s.poisoned (slicePa agent off) 8 then (s.modFlight f.id fun f => { f with poison := [0] }, 0)
    else
    let old := bytesWord (s.readSlice agent off 8)
    ((if old = e then s.performWrite agent off (wordBytes w) f.issuer else s), old)
  | _ => (s, 0)

/-- The earlier writes of a berth's commit unit to one destination agent have been performed (R406). -/
def State.inOrder (s : State) (f : Flight) (agent : Nat) : Bool :=
  !(s.flights.any fun g => decide (g.id < f.id) && g.kind.isWrite && !g.performed && g.issuer.tile == f.issuer.tile
    && g.issuer.berth == f.issuer.berth && g.issuer.unit == f.issuer.unit && ((s.flightSlice g).map Prod.fst) == some agent)

/-- Performs, in issue order, the writes of a list that have arrived at an agent, and answers each. -/
def State.performArrived (s : State) (agent : Nat) : List Flight → State
  | [] => s
  | f :: fs =>
    match s.flightSlice f with
    | some (a, off) =>
      if a = agent ∧ f.left = 0 ∧ f.performed = false ∧ f.kind.isWrite = true ∧ s.inOrder f agent = true then
        match f.kind with
        | .atomic .. =>
          ((if s.agenda.contains (.postedAtomicCompletion f.id) then s else s.soon (.postedAtomicCompletion f.id))).performArrived agent fs
        | _ =>
          let (s, old) := s.performAt f agent off
          let s := s.modFlight f.id fun f => { f with performed := true, left := 1, old := old }
          let s := s.sendBack agent f.issuer (fun _ _ => .response f.id 0) 8
          ((s.atCycle s.now (.releaseHoldEnd f.issuer.tile))).performArrived agent fs
      else s.performArrived agent fs
    | none => s.performArrived agent fs

/-- Writes at one agent that may now be performed. -/
def State.settle (s : State) (agent : Nat) : State := s.performArrived agent s.flights

/-- An accumulator shadow is free once its partial has been pulled or folded (R375). -/
def CollectiveUnit.freeShadow (u : CollectiveUnit) (op : Nat) : CollectiveUnit :=
  { u with shadow := u.shadow.map fun x => if x.map Partial.op = some op then none else x }

/-- A block joins a depot's list, the latest spilled first (R354). -/
def putBlock (number : Nat) (block : List TaskRec) (xs : List (Nat × List TaskRec)) : List (Nat × List TaskRec) :=
  (xs.takeWhile fun x => decide (number < x.1)) ++ (number, block) :: xs.dropWhile fun x => decide (number < x.1)

/-- The event that delivers a message: of delta records (R388), of a remote matrix command (R248), or of a task's record (R207). -/
def Message.event (m : Message) (id : Nat) : Event :=
  match m.kind with
  | 4 => .deltaIntakeArrival id
  | 5 => match (m.payload.headD 0).toNat with
    | 0 => .remoteMma id
    | 1 => .remoteMmaz id
    | _ => .remoteMacc id
  | _ => .messageDelivery id

/-- A part of a request arrives at a tile. -/
def State.requestArrives (s : State) (id : Nat) : State :=
  match s.flight? id with
  | none => s
  | some f =>
    let s := s.modFlight id fun f => { f with left := f.left - 1 }
    if 1 < f.left then s
    else match f.kind with
      | .get _ ctl _ =>
        match s.flightSlice f with
        | some (a, off) =>
          let len := ctlLen ctl
          let stamps := f.kind.run.any fun r => winOf r.1 == 2 || winOf r.1 == 3
          let s := match (if stamps then s.task? f.issuer else none) with
            | some c => s.stampLines a c (linesOf off len)
            | none => if stamps && f.issuer.ordered
                then s.stampLines a { task := { cls := 1, key := f.issuer.key }, ctxnum := f.issuer.ctxnum } (linesOf off len) else s
          let s := s.modFlight id fun f =>
            { f with data := s.readSlice a off len, poison := s.poisonIn (slicePa a off) len, left := (cutsOf len).length, performed := true }
          let s := s.atCycle s.now (.releaseHoldEnd f.issuer.tile)
          s.sendBack a f.issuer (fun o _ => .response id o) len
        | none => s
      | .put .. | .atomic .. | .acas .. => match s.flightSlice f with
        | some (a, _) => s.settle a
        | none => s
      | .fetch _ _ _ len => match s.flightSlice f with
        | some (a, off) =>
          let s := s.modFlight id fun f => { f with data := s.readSlice a off len, poison := s.poisonIn (slicePa a off) len, left := (cutsOf len).length }
          s.sendBack a f.issuer (fun o _ => .response id o) len
        | none => s
      | .store _ _ _ d skip => match s.flightSlice f with
        | some (a, off) =>
          let s := (cleanRuns d skip).foldl (fun s r => s.performWrite a (off + r.1) r.2 f.issuer) s
          let s := s.poisonSlice a 0 ((skip ++ f.poison).map fun w => off / 8 + w)
          (s.modFlight id fun f => { f with left := 1 }).sendBack a f.issuer (fun _ _ => .response id 0) 8
        | none => s
      | .contrib .. => s
      | .announce op .. => s.soon (.sliceAnnounce f.issuer.tile op)
      | .pull _ tile op _ =>
        -- the partial leaves as it stands, and a shadow is free (R375, R376)
        let u := (s.tile tile).coll
        match (u.partials ++ u.shadow.toList.filterMap fun x => x).find? fun p => p.op == op with
        | some p =>
          let s := s.modFlight id fun f => { f with data := p.bytes, poison := p.poison, left := (cutsOf p.bytes.length).length }
          let s := (s.modTile tile fun t => { t with coll := t.coll.freeShadow op }).once (.engineTakeCommand tile 2)
          -- a partial that another package has pulled is no longer this one's
          let s := if f.issuer.away.isNone then s else s.modTile tile fun t =>
            { t with coll := { t.coll with partials := t.coll.partials.filter fun p => p.op != op }, ops := t.ops.filter fun o => o.id != op }
          match f.issuer.away with
          | some _ => s.sendBack tile f.issuer (fun o _ => .response id o) p.bytes.length
          | none => s.injectAll tile f.issuer.tile 10 f.issuer.ctxnum false false (fun o _ => .response id o) p.bytes.length
        | none => s
      | .deliver round receiver .. => (s.modFlight id fun f => { f with performed := true }).soon (.collectiveDelivery f.issuer.tile round receiver)
      | .spill home number block =>
        let s := s.dropFlight id
        { s with depots := insertAt home (putBlock number block ((lookup home s.depots).getD [])) s.depots }
      | .block tile berth _ => (s.modFlight id fun f => { f with performed := true }).soon (.depotFetch tile berth)
      | .message m => s.soon (m.event id)
      | .record r t => (s.dropFlight id).pushDeque t r
      | .mxReply .. => s.soon (.remoteCommandReply id)

/-- A part of a response arrives at the issuing tile. -/
def State.responseArrives (s : State) (id : Nat) : State :=
  match s.flight? id with
  | none => s
  | some f =>
    -- what another package returns is open here (R426)
    let away := match f.kind with
      | .pull _ _ _ d => d.isSome
      | _ => match s.flightPlace f with | some (.away .., _) => true | _ => false
    let back (f : Flight) : Flight :=
      { f with left := f.left - 1, performed := f.performed || (away && decide (f.left ≤ 1)),
               data := if away then (natsFrom 0 f.data.length).map fun i => (Config.freeWord s.steps (64 + i)).setWidth 8 else f.data,
               old := if away then Config.freeWord s.steps 64 else f.old }
    let s := s.modFlight id back
    if 1 < f.left then s
    else match f.kind with
      | .get .. => s.soon (.getDelivery id)
      | .pull round .. => (s.modFlight id fun f => { f with performed := true }).soon (.collectivePull f.issuer.tile round)
      | .put .. => s.soon (.putCompletion id)
      | .acas .. => s.soon (.remoteAcasReply id)
      | .mxReply .. => s.soon (.remoteCommandReply id)
      | .fetch op .. => (s.modFlight id fun f => { f with performed := true }).goOnOp f.issuer.tile op
      | .store op .. => (s.dropFlight id).goOnOp f.issuer.tile op
      | _ => s.dropFlight id

/-- A request's answer reaches its tile: the last one completes the flight's access. -/
def State.extAnswered (s : State) (r : ExtReq) : State :=
  let s := s.dropReq r.id
  let id := r.flight
  match s.flight? id with
  | none => s
  | some f =>
    let s := s.modFlight id fun f => { f with left := f.left - 1 }
    if 1 < f.left then s
    else
      let s := s.modFlight id fun f => { f with performed := true }
      match f.kind with
      | .get .. => (s.soon (.getCheckResult id)).atCycle s.now (.releaseHoldEnd f.issuer.tile)
      | .put .. => (s.soon (.putCompletion id)).atCycle s.now (.releaseHoldEnd f.issuer.tile)
      | .acas .. => (s.soon (.remoteAcasReply id)).atCycle s.now (.releaseHoldEnd f.issuer.tile)
      | .fetch op .. => s.goOnOp f.issuer.tile op
      | .store op .. => (s.dropFlight id).goOnOp f.issuer.tile op
      | .contrib op .. => (s.dropFlight id).goOnOp f.issuer.tile op
      | _ => (s.soon (.postedAtomicCompletion id)).atCycle s.now (.releaseHoldEnd f.issuer.tile)

/-- A record of a block carries POISON from here on. -/
def spoilAt (i : Nat) (rs : List TaskRec) : List TaskRec := rs.take i ++ ((rs.drop i).take 1).map (fun r => { r with poison := true }) ++ rs.drop (i + 1)

/-- Poisoned words of a packet mark what it carries (R288, R409): a message carries POISON, and data keeps the words. -/
def Flight.spoil (f : Flight) (off : Nat) (words : List Nat) : Flight :=
  match f.kind with
  | .message m => { f with kind := .message { m with poison := true } }
  | .record r t => { f with kind := .record { r with poison := true } t }
  | .spill h k rs => { f with kind := .spill h k (spoilAt (off / 256) rs) }
  | .block t b rs => { f with kind := .block t b (spoilAt (off / 256) rs) }
  | _ => { f with poison := f.poison ++ words.map fun w => off / 8 + w }

/-- A packet leaves the fabric at its destination. -/
def State.deliver (s : State) (c : Cargo) (poison : List Nat) : State :=
  let mark (id off : Nat) : State := if poison.isEmpty then s else s.modFlight id fun f => f.spoil off poison
  match c with
  | .request id off _ => (mark id off).requestArrives id
  | .response id off => (mark id off).responseArrives id
  | .ext id off =>
    match s.req? id with
    | some r =>
      let s := s.modReq id fun r => { r with left := r.left - 1, poison := r.poison ++ poison.map fun w => off / 8 + w }
      if 1 < r.left then s else s.soon (.externalRequestArrival id)
    | none => s
  | .extReply id off =>
    match s.req? id with
    | some r =>
      let s := if poison.isEmpty then s else s.modFlight r.flight fun f => f.spoil (r.off + off) poison
      if 1 < r.left then s.modReq id fun r => { r with left := r.left - 1 } else s.extAnswered r
    | none => s

end Sys2Proof.Machine
end

