-- ==== Sys2Proof/Machine/Memory.lean ====
section
/-!
DEFINITION. Memory, atomic, fence and barrier instructions, opcodes 0x80 to 0xa7 (R175 to R199).
-/
namespace Sys2Proof.Machine

/-! ## Waits and room -/

/-- An LDA's acquire holds later accesses (R179). -/
def View.acquired (v : View) : Ex Unit := waitUntil (decide (v.ctx.acquireUntil ≤ v.now))
/-- A VSCT holds the slice (R182). -/
def View.sliceFree (v : View) : Ex Unit := waitUntil (decide (v.tile.sliceHeld ≤ v.now))

/-- Opcodes of the loads and synchronous atomics that hold a value back (R195). -/
def isLoadWord (w : BitVec 32) : Bool :=
  let op := w.toNat / 2 ^ 24
  decide (0x80 ≤ op ∧ op ≤ 0x86) || op == 0x8b || op == 0x8d || op == 0x8f || op == 0x91 || op == 0x93 || decide (0x99 ≤ op ∧ op ≤ 0xa2)

/-- Every earlier load and synchronous atomic of the berth holds its value (R195). -/
def View.loadsDone (v : View) : Ex Unit :=
  waitUntil (!(v.ctx.pend.any fun p => isLoadWord p.word && decide (v.now < p.doneAt)))

/-- The store buffer takes the items, or the access traps with RINGOVER (R302). -/
def View.buffer (v : View) (p : Word) (items : List Item) : Ex View :=
  let c := { v.ctx with buf := v.ctx.buf ++ items }
  if 256 < c.storeEntries then trapWith Cause.ringover p else .ok { v with ctx := c }

/-- The berth stays at the instruction and tries again in the next cycle, keeping what it has done so far (R195). -/
def View.stay (v : View) : View :=
  v.modBerth fun x => { x with nextIssue := v.now + 1, readySince := v.now + 1 }

/-- The rows of a list that an ordered task must still keep (R299). -/
def View.unkept (v : View) (rows : List Nat) : List Nat :=
  rows.filter fun n => v.ordered && decide (n < v.ctx.resident) && (lookup n v.ctx.kept).isNone

/-- The copies of resident rows of an ordered task must fit the store buffer, or the access traps with its pointer (R299, R302). -/
def View.keepRows (v : View) (rows : List Nat) (p : Word) : Ex Unit :=
  if v.unkept rows ≠ [] ∧ 256 < v.ctx.storeEntries + 4 * (v.unkept rows).length then trapWith Cause.ringover p else .ok ()

/-- The same of one row. -/
def View.keepRow (v : View) (n : Nat) (p : Word) : Ex Unit := v.keepRows [n] p

/-! ## Near scalar loads and stores (R178, R179) -/

def extendBytes (signed : Bool) (bs : List Byte) : Word := BitVec.ofInt 64 (toInt signed (8 * bs.length) (leNat bs))

/-- A near load (R178). -/
def nearLoad (size : Nat) (signed : Bool) (d a imm : BitVec 7) (sc : BitVec 3) (v : View) : Ex View := do
  let us := usesDA d a
  v.check us [] none
  v.keepRoom us
  v.acquired
  v.sliceFree
  let p := stepPointer (v.scalar 2 a) (size * imm.toInt)
  let off ← v.near p size size
  if v.nearPoison off size then trapWith Cause.poison p
  let x := extendBytes signed (v.readNear off size)
  .ok ((((v.touchSources us).result d (.scalar x) 4 (v.capture v.etype us none)).stamp off size).advance sc)

def storeUses (d a : BitVec 7) : List Use := [⟨1, d, .src false⟩, ⟨2, a, .src false⟩]

/-- The store of a scalar's low bytes, its operands checked, before the issue completes. -/
def View.nearStore (v : View) (size : Nat) (d a imm : BitVec 7) : Ex View := do
  let us := storeUses d a
  v.acquired
  v.sliceFree
  let p := stepPointer (v.scalar 2 a) (size * imm.toInt)
  let off ← v.near p size size
  (v.touchSources us).buffer p [.store off (leBytes size (v.scalar 1 d).toNat)]

/-- A near store (R178): it joins the open segment or the task's buffer. -/
def storeScalar (size : Nat) (d a imm : BitVec 7) (sc : BitVec 3) (v : View) : Ex View := do
  v.check (storeUses d a) [] none
  let v ← v.nearStore size d a imm
  .ok (v.advance sc)

/-- LDA (R179): its acquire holds later accesses until its value exists. -/
def loadAcquire (d a imm : BitVec 7) (sc : BitVec 3) (v : View) : Ex View := do
  let v ← nearLoad 8 false d a imm sc v
  .ok (v.modCtx fun c => { c with acquireUntil := v.now + 4 })

/-- STL (R179). DESIGN CHOICE: FENCECLASS comes before WINDOW, of which the spec gives no order. -/
def storeRelease (d a imm : BitVec 7) (sc : BitVec 3) (v : View) : Ex View := do
  v.resolved
  v.check (storeUses d a) [] none
  if v.ordered then trapWith Cause.fenceclass v.s.cur.wordValue
  let v ← v.nearStore 8 d a imm
  let v ← v.checkSegment
  .ok (v.closeSegment.advance sc)

/-! ## Near vector access (R180 to R182) -/

/-- Checks of an access with vector operands: R17 holds its vector operands. -/
def View.mcheck (v : View) (us : List Use) : Ex Unit := do
  v.checkWith us [] (fun u => if u.role.isVec then some v.etype.width else none) (fun _ => false)
  v.keepRoom us

/-- VLD (R180). -/
def vectorLoad (d a imm : BitVec 7) (sc : BitVec 3) (v : View) : Ex View := do
  let us : List Use := [⟨1, d, .dst true⟩, ⟨2, a, .src false⟩]
  v.mcheck us
  v.acquired
  v.sliceFree
  let p := stepPointer (v.scalar 2 a) (256 * imm.toInt)
  let off ← v.near p 256 64
  if v.nearPoison off 256 then trapWith Cause.poison p
  .ok ((((v.touchSources us).result d (.vector (rowOfBytes (v.readNear off 256))) 4 (v.capture v.etype us none)).stamp off 256).advance sc)

/-- VST (R180). -/
def vectorStore (d a imm : BitVec 7) (sc : BitVec 3) (v : View) : Ex View := do
  let us : List Use := [⟨1, d, .src true⟩, ⟨2, a, .src false⟩]
  v.mcheck us
  v.acquired
  v.sliceFree
  let p := stepPointer (v.scalar 2 a) (256 * imm.toInt)
  let off ← v.near p 256 64
  let v ← (v.touchSources us).buffer p [.store off (rowBytes (v.vector v.etype 1 d))]
  .ok (v.advance sc)

/-- Offset of an element: the base and a displacement, modulo 2^17 (R181, R182). -/
def elemOff (base : Nat) (disp : Int) : Nat := (((base : Int) + disp) % 0x20000).toNat

/-- The offsets of the elements, each a multiple of the element's bytes and inside the slice: the lowest that fails traps (R181). -/
def View.elemOffs (v : View) (p : Word) (w : Nat) (disps : List Int) : Ex (List Nat) := do
  let base ← v.near p 1 1
  let offs := disps.map (elemOff base)
  match offs.find? fun o => decide (o % w ≠ 0) || decide (v.s.sliceLimit v.s.cur.tile < o + w) with
  | some o => trapWith Cause.window (nearPtr (tagOf p) o)
  | none => if offs.any fun o => v.scaleBusy o w then .error .hold else .ok offs

/-- The elements loaded from a list of offsets: POISON at the lowest element that reads a poisoned word. -/
def View.gatherElems (v : View) (p : Word) (w : Nat) (offs : List Nat) : Ex Row :=
  match offs.find? fun o => v.nearPoison o w with
  | some o => trapWith Cause.poison (nearPtr (tagOf p) o)
  | none => .ok (rowOfElems (8 * w) (offs.map fun o => leNat (v.readNear o w)))

def View.stampAll (v : View) (w : Nat) (offs : List Nat) : View := offs.foldl (fun v o => v.stamp o w) v

/-- The element stores, lowest element first. -/
def elemStores (w : Nat) (offs : List Nat) (xs : List Nat) : List Item :=
  List.zipWith (fun o x => Item.store o (leBytes w x)) offs xs

/-- Distinct 64-byte lines that elements touch. -/
def distinctLines (w : Nat) (offs : List Nat) : Nat := (storeLines (offs.map fun o => Item.store o (leBytes w 0))).length

def strides (n : Nat) (t : Int) : List Int := (natsFrom 0 n).map fun i => Int.ofNat i * t

/-- VLDS (R181). -/
def vectorLoadStrided (d a b : BitVec 7) (sc : BitVec 3) (v : View) : Ex View := do
  let us : List Use := [⟨1, d, .dst true⟩, ⟨2, a, .src false⟩, ⟨3, b, .src false⟩]
  v.mcheck us
  v.acquired
  v.sliceFree
  let t := v.etype
  let p := v.scalar 2 a
  let offs ← v.elemOffs p (t.width / 8) (strides t.count (v.scalar 3 b).toInt)
  let r ← v.gatherElems p (t.width / 8) offs
  .ok ((((v.touchSources us).result d (.vector r) 4 (v.capture t us none)).stampAll (t.width / 8) offs).advance sc)

/-- VSTS (R181). -/
def vectorStoreStrided (d a b : BitVec 7) (sc : BitVec 3) (v : View) : Ex View := do
  let us : List Use := [⟨1, d, .src true⟩, ⟨2, a, .src false⟩, ⟨3, b, .src false⟩]
  v.mcheck us
  v.acquired
  v.sliceFree
  let t := v.etype
  let p := v.scalar 2 a
  let offs ← v.elemOffs p (t.width / 8) (strides t.count (v.scalar 3 b).toInt)
  let v ← (v.touchSources us).buffer p (elemStores (t.width / 8) offs (rowElems t.width (v.vector t 1 d)))
  .ok (v.advance sc)

/-- VGTH (R182): interlocked, at most 36. -/
def vectorGather (d a b : BitVec 7) (sc : BitVec 3) (v : View) : Ex View := do
  let us : List Use := [⟨1, d, .dst true⟩, ⟨2, a, .src false⟩, ⟨3, b, .src true⟩]
  v.mcheck us
  v.acquired
  v.sliceFree
  let t := v.etype
  let p := v.scalar 2 a
  let offs ← v.elemOffs p (t.width / 8) ((rowElems t.width (v.vector t 3 b)).map Int.ofNat)
  let r ← v.gatherElems p (t.width / 8) offs
  let l := 4 + (distinctLines (t.width / 8) offs + 7) / 8
  .ok ((((v.touchSources us).result d (.vector r) l (v.capture t us none) true).stampAll (t.width / 8) offs).advance sc)

/-- The slice is held for some cycles, from the resolution of a branch where one is open (R78, R182). -/
def View.holdSlice (v : View) (cycles : Nat) : View :=
  if v.specOpen then v.modCtx fun c => { c with deferred := c.deferred ++ [.slice cycles] }
  else v.modTile fun x => { x with sliceHeld := v.now + cycles }

/-- VSCT (R182): the slice is held for ⌈m/8⌉ cycles. -/
def vectorScatter (d a b : BitVec 7) (sc : BitVec 3) (v : View) : Ex View := do
  let us : List Use := [⟨1, d, .src true⟩, ⟨2, a, .src false⟩, ⟨3, b, .src true⟩]
  v.mcheck us
  v.acquired
  v.sliceFree
  let t := v.etype
  let p := v.scalar 2 a
  let offs ← v.elemOffs p (t.width / 8) ((rowElems t.width (v.vector t 3 b)).map Int.ofNat)
  let m := distinctLines (t.width / 8) offs
  let v ← (v.touchSources us).buffer p (elemStores (t.width / 8) offs (rowElems t.width (v.vector t 1 d)))
  .ok ((v.holdSlice ((m + 7) / 8)).advance sc)

/-! ## Private moves (R183) -/

/-- A private pointer's row and byte: below MWL·256 and a multiple of 8. -/
def View.privateAt (v : View) (p : Word) : Ex (Nat × Nat) :=
  let o := (p.extractLsb' 0 60).toNat
  if winOf p = 0 ∧ o % 8 = 0 ∧ o < v.ctx.cr.mwl.toNat * 256 then .ok (o / 256, o % 256) else trapWith Cause.window p

/-- The 8 bytes of a row at a position. -/
def rowWord (r : Row) (i : Nat) : Word := r.extractLsb' (8 * i) 64
def rowSetWord (r : Row) (i : Nat) (w : Word) : Row := rowPut r i (wordBytes w)

/-- LDP (R183): it waits for every pending writer of its row. -/
def privateLoad (d a imm : BitVec 7) (sc : BitVec 3) (v : View) : Ex View := do
  let us := usesDA d a
  v.check us [] none
  v.keepRoom us
  v.acquired
  let p := stepPointer (v.scalar 2 a) (8 * imm.toInt)
  let (row, i) ← v.privateAt p
  waitUntil (!(v.ctx.pend.any fun x => x.writes (.row row) && decide (v.now < x.doneAt)))
  if v.ctx.rowPoison.contains (row, i / 8) then trapWith Cause.poison p
  let v1 := v.touchSources us
  .ok ((({ v1 with touched := v1.touched ++ [(row, false)] } : View).result d (.scalar (rowWord (rowsGet v.ctx.rows row) i)) 4
    (v.capture v.etype us none)).advance sc)

/-- A row written at once: an unfinished earlier result leaves it as it now stands (R66, R183). -/
def View.writeRowNow (v : View) (row : Nat) (r : Row) : View :=
  let v := v.setRow row r
  { v with ctx := { v.ctx with pend := v.ctx.pend.map fun p => match p.dest with
      | .row n _ => if n = row then { p with dest := .row n r } else p
      | _ => p } }

/-- STP (R183). -/
def privateStore (d a imm : BitVec 7) (sc : BitVec 3) (v : View) : Ex View := do
  let us := storeUses d a
  v.check us [] none
  v.acquired
  let p := stepPointer (v.scalar 2 a) (8 * imm.toInt)
  let (row, i) ← v.privateAt p
  v.keepRow row p
  .ok (((v.touchSources us).writeRowNow row (rowSetWord (rowsGet v.ctx.rows row) i (v.scalar 1 d))).advance sc)

/-! ## GET and PUT (R184 to R188) -/

def isRowCode (c : BitVec 7) : Bool :=
  match Opnd.of c with
  | .wi _ | .w _ => true
  | _ => false

/-- The operand checks of GET and PUT: D a row code, the rows of the run, and the reading of A and B (R80, R184). -/
def View.runCheck (v : View) (d a b : BitVec 7) (put : Bool) : Ex (Nat × Nat) := do
  let us : List Use := [⟨1, d, if put then .src true else .dst true⟩, ⟨2, a, .src false⟩, ⟨3, b, .src false⟩]
  let first := match v.s.cur.replay with
    | some r => r.dstNum
    | none => (v.rowOf (Opnd.of d)).getD 0
  let n := (ctlLen (v.scalar 3 b) + 255) / 256
  v.checkWith us [] (fun _ => none) (fun u => u.field == 1 && !isRowCode d) (some (first, n))
  .ok (first, n)

/-- R340: an accumulating store's address, length, axis and slice. -/
def View.accAllowed (v : View) (p : Word) (len axis slice : Nat) : Bool :=
  let nsl := ((v.s.launch? v.ctx.ctxnum).map fun l => l.sliceCount axis).getD 0
  decide (offOf p % 64 = 0) && decide (len % 64 = 0) && decide (slice < nsl)

/-- A control word's own ILLEGAL (R184, R340). -/
def View.ctlCheck (v : View) (p ctl : Word) (put : Bool) : Ex Unit :=
  if (ctl >>> 38 ≠ 0) ∨ ctlBar ctl % 16 ≠ 0 ∨ (ctlAcc ctl = true ∧ (put = false ∨ winOf p ≠ 4 ∨ v.accAllowed p (ctlLen ctl) (ctlAxis ctl) (ctlSlice ctl) = false))
  then trapWith Cause.illegal ctl else .ok ()

/-- A failed GET or command leaves the failure of the earliest issued as the task's pending fault (R188, R333). -/
def Ctx.withFault (c : Ctx) (order cause : Nat) (p : Word) : Ctx :=
  if c.fault.isSome && decide (c.faultAt ≤ order) then c else { c with fault := some (cause, p), faultAt := order }

/-- Whether two runs at places meet. -/
def Place.meets (a : Place) (n : Nat) (b : Place) (m : Nat) : Bool :=
  match a, b with
  | .slice x o, .slice y q => x == y && Machine.meets o n q m
  | .ext o, .ext q => Machine.meets o n q m
  | .away d t o, .away e u q => d == e && t == u && Machine.meets o n q m
  | _, _ => false

/-- A write that the berth has released and that is not performed meets the bytes of a GET, which waits for it (R185). -/
def View.ownWriteOut (v : View) (p : Place) (len : Nat) : Bool :=
  let meet (x : Option (Place × Nat)) : Bool := x.any fun y => y.1.meets y.2 p len
  (v.releasedItems.any fun i => meet (v.s.itemPlace v.issuer i)) ||
  v.s.flights.any fun f => f.issuer.tile == v.s.cur.tile && f.issuer.berth == v.s.cur.berth && v.s.unperformed f && meet (v.s.flightPlace f)

/-- A GET leaves the tile (R185): its number is unchecked where its translation is checked at the core (R188). -/
def State.sendGet (s : State) (iss : Issuer) (c : Ctx) (p ctl : Word) (row : Nat) : State × Ctx :=
  let ext := match s.place iss.tile iss.ctxnum p (ctlLen ctl) with | some (.ext _) => true | _ => false
  (s.sendAccess iss (.get p ctl row) p (ctlLen ctl), { c with unchecked := if ext then c.unchecked ++ [s.nextId] else c.unchecked })

def Deferred.isGet : Deferred → Bool
  | .get .. => true
  | _ => false

/-- GET (R184, R185, R188): the window checks are made at issue, and a failure becomes the pending fault. A speculative one leaves when the
branch has resolved (R78). -/
def getRows (d a b : BitVec 7) (sc : BitVec 3) (v : View) : Ex View := do
  let (first, n) ← v.runCheck d a b false
  let p := v.scalar 2 a
  let ctl := v.scalar 3 b
  v.ctlCheck p ctl false
  v.keepRows (natsFrom first n) p
  v.acquired
  waitUntil (decide (v.s.inFlight v.s.cur.tile v.s.cur.berth + (v.ctx.deferred.filter Deferred.isGet).length < 16))
  let us : List Use := [⟨2, a, .src false⟩, ⟨3, b, .src false⟩]
  let v := v.touchSources us
  match v.s.place v.s.cur.tile v.ctx.ctxnum p (ctlLen ctl) with
  | some pl =>
    if offOf p % 16 ≠ 0 then .ok ((v.modCtx fun c => c.withFault v.s.nextId Cause.window p).advance sc)
    else do
      waitUntil (!v.ownWriteOut pl (ctlLen ctl))
      let keep := (v.unkept (natsFrom first n)).foldl (fun k r => insertAt r (rowsGet v.ctx.rows r) k) v.ctx.kept
      let c := { v.ctx with kept := keep }
      if v.specOpen then .ok (({ v with ctx := { c with deferred := c.deferred ++ [.get p ctl first] } } : View).advance sc)
      else
        let (s, c) := v.s.sendGet v.issuer c p ctl first
        .ok (({ v with s := s, ctx := c } : View).advance sc)
  | none => .ok ((v.modCtx fun c => c.withFault v.s.nextId Cause.window p).advance sc)

/-- The bytes a PUT captures (R186): those of its rows as it reads them (R74). -/
def View.runBytes (v : View) (first n len : Nat) : List Byte :=
  (((natsFrom first n).flatMap fun r => rowBytes (v.staleRow r))).take len

/-- PUT (R184, R186). -/
def putRows (d a b : BitVec 7) (sc : BitVec 3) (v : View) : Ex View := do
  let (first, n) ← v.runCheck d a b true
  let p := v.scalar 2 a
  let ctl := v.scalar 3 b
  v.ctlCheck p ctl true
  v.acquired
  let us : List Use := [⟨1, d, .src true⟩, ⟨2, a, .src false⟩, ⟨3, b, .src false⟩]
  let data := v.runBytes first n (ctlLen ctl)
  .ok (((v.touchSources us (some (first, n))).modCtx fun c => { c with buf := c.buf ++ [.put p ctl data] }).advance sc)

/-! ## Pointer test and cast (R189, R190) -/

/-- Whether a tile of the launch's field, by virtual number, lies on this tile's die. -/
def View.fieldTile (v : View) (tag : Nat) : Option Nat :=
  (v.s.launch? v.ctx.ctxnum).bind fun l => if tag < l.tileCount then some (l.physical tag) else none

/-- INRANGE (R189, R36). -/
def View.inRange (v : View) (p : Word) : Bool :=
  let me := v.s.cur.tile
  let off := decide (offOf p < v.s.sliceLimit me)
  match winOf p with
  | 0 => decide ((p.extractLsb' 0 60).toNat < v.ctx.cr.mwl.toNat * 256)
  | 1 => midZero p && off && (if isCore me then tagOf p == v.ctx.cr.tilev.toNat else (v.fieldTile (tagOf p)).isSome)
  | 2 => !isCore me && decide (tagOf p < 64) && midZero p && decide (offOf p < 0x20000) &&
      (((v.s.launch? v.ctx.ctxnum).bind fun l => l.virtual? (dieTile (dieOf me) (tagOf p))).isSome)
  | 3 => midZero p && decide (offOf p < 0x20000) && (v.fieldTile (tagOf p)).isSome
  | 4 => p.extractLsb' 48 12 == 0
  | 5 => p.extractLsb' 17 29 == 0 && (v.fieldTile (p.extractLsb' 46 12).toNat).isSome
  | _ => false

/-- The value of SPTEST (R189). -/
def View.sptestValue (v : View) (p : Word) : Word :=
  let me := v.s.cur.tile
  let r := v.inRange p
  let own := tagOf p == v.ctx.cr.tilev.toNat
  let local_ := r && (match winOf p with
    | 0 => true
    | 1 => own
    | 2 => decide (dieTile (dieOf me) (tagOf p) = me)
    | 3 => own && !isCore me
    | _ => false)
  let direct := match winOf p with | 0 => r | 1 => local_ | _ => false
  BitVec.ofNat 64 ((if r then 64 else 0) + (if local_ then 32 else 0) + (if direct then 16 else 0) + winOf p)

/-- SPTEST (R189). -/
def pointerTest (d a : BitVec 7) (sc : BitVec 3) : View → Ex View :=
  scalarResult (usesDA d a) 1 d (fun v => v.sptestValue (v.scalar 2 a)) sc

/-- A pointer with its window and [59:48] replaced. -/
def withWindow (p : Word) (win tag : Nat) : Word := BitVec.ofNat 4 win ++ BitVec.ofNat 12 tag ++ p.extractLsb' 0 48

/-- The conversion of R190: none where it is not allowed. -/
def View.castTo (v : View) (p : Word) (c : Nat) : Option Word :=
  let w := winOf p
  let tilev := v.ctx.cr.tilev.toNat
  let nearOk (tag : Nat) : Bool := c != 1 || tag == tilev
  let pos := (v.s.launch? v.ctx.ctxnum).bind fun l => (v.s.part? l.part).bind Partition.hpos
  if c = w then some p
  else if (w = 1 ∨ w = 3) ∧ (c = 1 ∨ c = 3) then (if nearOk (tagOf p) then some (withWindow p c (tagOf p)) else none)
  else if c = 2 ∧ (w = 1 ∨ w = 3) then
    match v.fieldTile (tagOf p) with
    | some t => if dieOf t = dieOf v.s.cur.tile ∧ isCore v.s.cur.tile = false then some (withWindow p 2 (dieRel t)) else none
    | none => none
  else if w = 2 ∧ (c = 1 ∨ c = 3) then
    match (v.s.launch? v.ctx.ctxnum).bind fun l => l.virtual? (dieTile (dieOf v.s.cur.tile) (tagOf p)) with
    | some t => if tagOf p < 64 ∧ nearOk t = true ∧ isCore v.s.cur.tile = false then some (withWindow p c t) else none
    | none => none
  else if c = 5 ∧ (w = 1 ∨ w = 3) then
    pos.map fun h => BitVec.ofNat 4 5 ++ BitVec.ofNat 2 h ++ BitVec.ofNat 12 (tagOf p) ++ p.extractLsb' 0 46
  else if w = 5 ∧ (c = 1 ∨ c = 3) then
    match pos with
    | some h =>
      let t := (p.extractLsb' 46 12).toNat
      if (p.extractLsb' 58 2).toNat = h ∧ nearOk t = true then some (BitVec.ofNat 4 c ++ BitVec.ofNat 12 t ++ 0#2 ++ p.extractLsb' 0 46) else none
    | none => none
  else none

/-- SPCAST (R190). -/
def pointerCast (d a imm : BitVec 7) (sc : BitVec 3) (v : View) : Ex View := do
  let us := usesDA d a
  v.check us [] none
  v.keepRoom us
  let p := v.scalar 2 a
  match v.castTo p imm.toNat with
  | some x => .ok (((v.touchSources us).result d (.scalar x) 1 (v.capture v.etype us none)).advance sc)
  | none => trapWith Cause.window p

/-! ## Atomics (R191 to R193) -/

def isSplitWindow (p : Word) : Bool := decide (2 ≤ winOf p ∧ winOf p ≤ 5)

/-- The hold of the berth's last release is over, and every write that it has released has been performed, with every GET of its closed
units (R295, R306, R309). -/
def View.allReleased (v : View) : Bool :=
  decide (v.berth.holdUntil ≤ v.s.chron) && !(v.releasedItems.any fun i => (v.s.itemPlace v.issuer i).isSome) &&
  !v.s.earlierOut v.s.cur.tile v.s.cur.berth v.berth.unit (.slice v.s.cur.tile 0)

/-- What the berth makes visible at once waits for all that it has released (R295, R309). -/
def View.holdOver (v : View) : Ex Unit := waitUntil v.allReleased

/-- Reads and writes the word of a near atomic (R192): memory at once for a FREE task, the task's own view and buffer otherwise. -/
def View.nearAtomic (v : View) (p : Word) (f : Word → Option Word) : Ex (View × Word) := do
  let off ← v.near p 8 8
  if v.ordered then
    if v.nearPoison off 8 then trapWith Cause.poison p
    let old := bytesWord (v.readNear off 8)
    let v1 := v.stamp off 8
    match f old with
    | some x => do
      let v2 ← v1.buffer p [.store off (wordBytes x)]
      .ok (v2, old)
    | none => .ok (v1, old)
  else
    v.resolved
    v.holdOver
    if v.s.poisoned (slicePa v.s.cur.tile off) 8 then trapWith Cause.poison p
    let old := bytesWord (v.s.readSlice v.s.cur.tile off 8)
    match f old with
    | some x => .ok ({ v with s := v.s.writeSlice v.s.cur.tile off (wordBytes x) v.ctx.ctxnum }, old)
    | none => .ok (v, old)

/-- The atomics (R191). -/
def atomicOp (op : Nat) (d a b : BitVec 7) (sc : BitVec 3) (v : View) : Ex View := do
  let us := usesDAB d a b
  v.check us [] none
  v.keepRoom us
  v.acquired
  let p := v.scalar 2 a
  let y := v.scalar 3 b
  if winOf p = 1 then do
    v.sliceFree
    let (v1, old) ← (v.touchSources us).nearAtomic p fun x => some (atomicNew op x y)
    .ok ((v1.result d (.scalar old) 6 (v.capture v.etype us none) false false).advance sc)
  else if isSplitWindow p then
    if Opnd.of d ≠ .z then trapWith Cause.illopnd (opndValue ⟨1, d, .dst false⟩)
    else .ok (((v.touchSources us).modCtx fun c => { c with buf := c.buf ++ [.atomic op p y] }).advance sc)
  else trapWith Cause.window p

/-- What D of a remote ACAS may be: a row code that names no accumulator row (R193). -/
def View.casCode (v : View) (d : BitVec 7) : Bool :=
  isRowCode d && !((v.rowOf (Opnd.of d)).any fun n => decide (v.ctx.cr.mwl.toNat ≤ n) && v.rowValid n)

/-- ACAS (R193). -/
def acas (d a b : BitVec 7) (sc : BitVec 3) (v : View) : Ex View := do
  let p := v.scalar 2 a
  if isSplitWindow p then do
    let us : List Use := [⟨1, d, .src true⟩, ⟨2, a, .src false⟩, ⟨3, b, .src false⟩]
    v.checkWith us [] (fun _ => none) (fun u => u.field == 1 && !v.casCode d)
    let row := (v.rowOf (Opnd.of d)).getD 0
    v.keepRow row p
    v.acquired
    let r := v.staleRow row
    let bar := (rowWord r 8).toNat
    if bar % 16 ≠ 0 ∨ v.s.sliceLimit v.s.cur.tile < bar + 16 then trapWith Cause.window (BitVec.ofNat 64 bar)
    let v1 := if v.ordered && decide (row < v.ctx.resident) && (lookup row v.ctx.kept).isNone
      then v.modCtx fun c => { c with kept := insertAt row (rowsGet c.rows row) c.kept } else v
    .ok (((v1.touchSources us).modCtx fun c =>
      { c with buf := c.buf ++ [.acas p (rowWord r 0) (v.scalar 3 b) bar row] }).advance sc)
  else do
    let us := usesRwAB d a b
    v.check us [] none
    v.keepRoom us
    v.acquired
    v.sliceFree
    let e := v.scalar 1 d
    let y := v.scalar 3 b
    let (v1, old) ← (v.touchSources us).nearAtomic p fun x => if x = e then some y else none
    .ok ((v1.result d (.scalar old) 6 (v.capture v.etype us none) false false).advance sc)

/-! ## FENCE (R194, R195) -/

/-- The flights of the berth that reach a place of a scope. -/
def View.outIn (v : View) (scope : Nat) : List Flight :=
  v.s.flights.filter fun f => f.issuer.tile == v.s.cur.tile && f.issuer.berth == v.s.cur.berth &&
    (v.s.flightPlace f).any fun x => inScope scope v.s.cur.tile x.1

/-- What the berth has committed has been performed throughout a scope: of what goes there nothing is held, and nothing is in flight. -/
def View.acknowledged (v : View) (scope : Nat) : Bool :=
  !(v.heldItems.any fun i => (v.s.itemPlace v.issuer i).any fun x => inScope scope v.s.cur.tile x.1) && !(v.outIn scope).any v.s.unperformed

/-- Every earlier GET of the berth inside a scope has read its bytes (R306). -/
def View.getsRead (v : View) (scope : Nat) : Ex Unit := waitUntil (!(v.outIn scope).any fun f => f.kind.isGet && !f.performed)

/-- FENCE: orders 0 acquire, 1 release, 2 both, 3 sequentially consistent. -/
def fence (scope order : Nat) (sc : BitVec 3) (v : View) : Ex View := do
  v.resolved
  if v.ordered ∧ order ≠ 0 then trapWith Cause.fenceclass v.s.cur.wordValue
  if order ≠ 1 then do
    v.loadsDone
    v.getsRead scope
  if order = 0 then .ok (v.advance sc)
  else do
    let v1 ← v.checkSegment
    if order = 3 then
      if v1.ctx.buf.isEmpty then
        if v1.acknowledged scope then .ok ((v1.closeSegment scope).advance sc) else .error .hold
      else .ok (v1.closeSegment scope).stay
    else .ok ((v1.closeSegment scope).advance sc)

/-! ## Barrier objects (R196 to R199) -/

def barUses (a b : BitVec 7) : List Use := [⟨2, a, .src false⟩, ⟨3, b, .src false⟩]

/-- The operand checks of the barrier instructions, and the object's offset. -/
def View.barrierAt (v : View) (us : List Use) (a : BitVec 7) : Ex Nat := do
  v.resolved
  v.check us [] none
  v.acquired
  v.sliceFree
  v.near (v.scalar 2 a) 16 16

/-- A byte count from `lo` to 2^32 - 1, or ILLEGAL (R198). -/
def byteCount (lo : Nat) (b : Word) : Ex Unit := if lo ≤ b.toNat ∧ b.toNat < 2 ^ 32 then .ok () else trapWith Cause.illegal b

/-- BARINIT (R198). -/
def barInit (a b : BitVec 7) (sc : BitVec 3) (v : View) : Ex View := do
  let off ← v.barrierAt (barUses a b) a
  let n := v.scalar 3 b
  byteCount 1 n
  let v1 := v.touchSources (barUses a b)
  if v.ordered then .ok ((v1.modCtx fun c => { c with buf := c.buf ++ [.barInit off n.toNat] }).advance sc)
  else do
    v.holdOver
    .ok ({ v1 with s := (v1.s.barInit v.s.cur.tile off n.toNat v.ctx.ctxnum).wake v.s.cur.tile }.advance sc)

/-- Of the berth's units below `unit`, a write is held or in flight, or a GET has not read (R305, R306). -/
def State.notPerformed (s : State) (n b unit : Nat) : Bool :=
  s.earlierOut n b unit (.slice n 0) || (s.tile n).held.any fun h => h.issuer.berth == b && h.items.any fun i => i.run.isSome || i.isNear

/-- BARARR (R198): the test, the release, and the arrival; the arrival follows the writes its release covers. -/
def barArrive (a b : BitVec 7) (sc : BitVec 3) (v : View) : Ex View := do
  let off ← v.barrierAt (barUses a b) a
  let n := v.scalar 3 b
  byteCount 0 n
  let v1 := v.touchSources (barUses a b)
  if v.ordered then
    .ok ((v1.modCtx fun c => { c with buf := c.buf ++ if n = 0 then [] else [.arrive off n.toNat] }).advance sc)
  else
    if (v.s.bar v.s.cur.tile off).tooFar n.toNat then trapWith Cause.phaseover (v.scalar 2 a)
    else do
      let iss := v1.issuer
      let v2 ← v1.checkSegment
      let v3 := v2.closeSegment
      if n = 0 then .ok (v3.advance sc)
      else
        if v3.s.notPerformed v.s.cur.tile v.s.cur.berth v3.berth.unit then
          .ok ((v3.modTile fun t => { t with held := t.held ++ [{ issuer := iss, release := 0, after := true, items := [.arrive off n.toNat] }] }).advance sc)
        else .ok ({ v3 with s := v3.s.arrive v.s.cur.tile off n.toNat iss false }.advance sc)

/-- BAREXP (R198). -/
def barExpect (a b : BitVec 7) (sc : BitVec 3) (v : View) : Ex View := do
  let off ← v.barrierAt (barUses a b) a
  let n := v.scalar 3 b
  byteCount 1 n
  let v1 := v.touchSources (barUses a b)
  if v.ordered then .ok ((v1.modCtx fun c => { c with buf := c.buf ++ [.barExpect off n.toNat] }).advance sc)
  else do
    v.holdOver
    match (v.s.bar v.s.cur.tile off).expectNext n.toNat with
    | some o => .ok ({ v1 with s := (v1.s.setBar v.s.cur.tile off o v.ctx.ctxnum).wake v.s.cur.tile }.advance sc)
    | none => trapWith Cause.phaseover (v.scalar 2 a)

/-- What an observer acquires of the phases up to the one it obtains (R199, R309, R359). -/
def Ctx.acquire (c : Ctx) (chron : Nat) (poison : Bool) : Ctx :=
  { c with floor := max c.floor (chron + 1), poisoned := c.poisoned || poison }

/-- The observation of a barrier object (R199): the object, the largest CHRON acquired, and whether OVER was met. -/
def State.observe (s : State) (n off owner : Nat) : State × BitVec 16 × Nat × Bool × Bool :=
  let o := s.bar n off
  if o.ovr then (s.setBar n off { o with ovr := false } owner, o.phase, 0, (s.barSide n off).poison, true)
  else if o.done then
    let x := s.barSide n off
    let past := max x.past x.chron
    let s := s.setBar n off o.advance owner
    let s := s.modBarSide n off fun x => { x with past := past, chron := x.chronNext, chronNext := 0 }
    (s, o.phase + 1, past, x.poison, false)
  else (s, o.phase, (s.barSide n off).past, (s.barSide n off).poison, false)

/-- Takes the refusal that a reply recorded against a barrier (R249). -/
def State.takeRefusal (s : State) (n off : Nat) : State × Option Word :=
  match (s.tile n).mx.refusals.find? fun r => r.1 == off with
  | some r => (s.modTile n fun t => { t with mx := { t.mx with refusals := t.mx.refusals.erase r } },
      some (BitVec.ofNat 64 (r.2.2 * 65536 + r.2.1)))
  | none => (s, none)

/-- BARTST with FN 0 (R199, R249): the value is pushed, or the observation traps with what it has changed. -/
def barObserve (a : BitVec 7) (sc : BitVec 3) (v : View) : Ex (View × Option (Nat × Word)) := do
  let us : List Use := [⟨2, a, .src false⟩]
  let off ← v.barrierAt us a
  let (s, phase, chron, poison, past) := v.s.observe v.s.cur.tile off v.ctx.ctxnum
  let v1 := (({ v with s := s } : View).touchSources us)
  -- every observation passes the poison bit, whatever it meets (R359)
  if past then .ok (v1.modCtx fun c => { c with poisoned := c.poisoned || poison }, some (Cause.phaseover, v.scalar 2 a))
  else
    let (s, refusal) := s.takeRefusal v.s.cur.tile off
    let v1 := ({ v1 with s := s.wake v.s.cur.tile } : View).modCtx fun c => c.acquire chron poison
    match refusal with
    | some x => .ok (v1, some (Cause.capability, x))
    | none =>
      .ok ((v1.result 0 (.scalar (phase.zeroExtend 64)) 4 (v.capture v.etype us none) false false).advance sc, none)

/-- BARTST with FN 1 and 2 (R199). -/
def barRead (f : Bar → Nat) (a : BitVec 7) (sc : BitVec 3) (v : View) : Ex View := do
  let us : List Use := [⟨2, a, .src false⟩]
  let off ← v.barrierAt us a
  let x := BitVec.ofNat 64 (f (v.s.bar v.s.cur.tile off))
  .ok (((v.touchSources us).result 0 (.scalar x) 4 (v.capture v.etype us none)).advance sc)

/-- Runs an instruction that may trap after having changed something. -/
def runTrapView (f : View → Ex (View × Option (Nat × Word))) (s : State) : Out :=
  match s.ctx? s.cur.tile s.cur.berth with
  | none => .next s
  | some c =>
    match f { s := s, ctx := c } with
    | .ok (v, none) => .next v.commit
    | .ok (v, some (cause, x)) =>
      .next (takeTrap (popReplay v.commit) s.cur.tile s.cur.berth cause x (trapPcs s c cause).1 (trapPcs s c cause).2 (issueSigma s))
    | .error .hold => .next (holdIssue s)
    | .error (.trap cause x) => .next (takeTrap (popReplay s) s.cur.tile s.cur.berth cause x (trapPcs s c cause).1 (trapPcs s c cause).2 (issueSigma s))

/-! ## The instructions -/

/-- LDB (R178). -/
def execLdb (d : BitVec 7) (a : BitVec 7) (imm : BitVec 7) (sc : BitVec 3) (s : State) : Out := runView (nearLoad 1 true d a imm sc) s

/-- LDBN (R178). -/
def execLdbn (d : BitVec 7) (a : BitVec 7) (imm : BitVec 7) (sc : BitVec 3) (s : State) : Out := runView (nearLoad 1 false d a imm sc) s

/-- LDH (R178). -/
def execLdh (d : BitVec 7) (a : BitVec 7) (imm : BitVec 7) (sc : BitVec 3) (s : State) : Out := runView (nearLoad 2 true d a imm sc) s

/-- LDHN (R178). -/
def execLdhn (d : BitVec 7) (a : BitVec 7) (imm : BitVec 7) (sc : BitVec 3) (s : State) : Out := runView (nearLoad 2 false d a imm sc) s

/-- LDW (R178). -/
def execLdw (d : BitVec 7) (a : BitVec 7) (imm : BitVec 7) (sc : BitVec 3) (s : State) : Out := runView (nearLoad 4 true d a imm sc) s

/-- LDWN (R178). -/
def execLdwn (d : BitVec 7) (a : BitVec 7) (imm : BitVec 7) (sc : BitVec 3) (s : State) : Out := runView (nearLoad 4 false d a imm sc) s

/-- LDD (R178). -/
def execLdd (d : BitVec 7) (a : BitVec 7) (imm : BitVec 7) (sc : BitVec 3) (s : State) : Out := runView (nearLoad 8 false d a imm sc) s

/-- STB (R178). -/
def execStb (d : BitVec 7) (a : BitVec 7) (imm : BitVec 7) (sc : BitVec 3) (s : State) : Out := runView (storeScalar 1 d a imm sc) s

/-- STH (R178). -/
def execSth (d : BitVec 7) (a : BitVec 7) (imm : BitVec 7) (sc : BitVec 3) (s : State) : Out := runView (storeScalar 2 d a imm sc) s

/-- STW (R178). -/
def execStw (d : BitVec 7) (a : BitVec 7) (imm : BitVec 7) (sc : BitVec 3) (s : State) : Out := runView (storeScalar 4 d a imm sc) s

/-- STD (R178). -/
def execStd (d : BitVec 7) (a : BitVec 7) (imm : BitVec 7) (sc : BitVec 3) (s : State) : Out := runView (storeScalar 8 d a imm sc) s

/-- VLD (R180). -/
def execVld (d : BitVec 7) (a : BitVec 7) (imm : BitVec 7) (sc : BitVec 3) (s : State) : Out := runView (vectorLoad d a imm sc) s

/-- VST (R180). -/
def execVst (d : BitVec 7) (a : BitVec 7) (imm : BitVec 7) (sc : BitVec 3) (s : State) : Out := runView (vectorStore d a imm sc) s

/-- VLDS (R181). -/
def execVlds (d : BitVec 7) (a : BitVec 7) (b : BitVec 7) (sc : BitVec 3) (s : State) : Out := runView (vectorLoadStrided d a b sc) s

/-- VSTS (R181). -/
def execVsts (d : BitVec 7) (a : BitVec 7) (b : BitVec 7) (sc : BitVec 3) (s : State) : Out := runView (vectorStoreStrided d a b sc) s

/-- VGTH (R182). -/
def execVgth (d : BitVec 7) (a : BitVec 7) (b : BitVec 7) (sc : BitVec 3) (s : State) : Out := runView (vectorGather d a b sc) s

/-- VSCT (R182). -/
def execVsct (d : BitVec 7) (a : BitVec 7) (b : BitVec 7) (sc : BitVec 3) (s : State) : Out := runView (vectorScatter d a b sc) s

/-- LDA (R179). -/
def execLda (d : BitVec 7) (a : BitVec 7) (imm : BitVec 7) (sc : BitVec 3) (s : State) : Out := runView (loadAcquire d a imm sc) s

/-- STL (R179). -/
def execStl (d : BitVec 7) (a : BitVec 7) (imm : BitVec 7) (sc : BitVec 3) (s : State) : Out := runView (storeRelease d a imm sc) s

/-- LDP (R183). -/
def execLdp (d : BitVec 7) (a : BitVec 7) (imm : BitVec 7) (sc : BitVec 3) (s : State) : Out := runView (privateLoad d a imm sc) s

/-- STP (R183). -/
def execStp (d : BitVec 7) (a : BitVec 7) (imm : BitVec 7) (sc : BitVec 3) (s : State) : Out := runView (privateStore d a imm sc) s

/-- GET (R185). -/
def execGet (d : BitVec 7) (a : BitVec 7) (b : BitVec 7) (sc : BitVec 3) (s : State) : Out := runView (getRows d a b sc) s

/-- PUT (R186). -/
def execPut (d : BitVec 7) (a : BitVec 7) (b : BitVec 7) (sc : BitVec 3) (s : State) : Out := runView (putRows d a b sc) s

/-- SPTEST (R189). -/
def execSptest (d : BitVec 7) (a : BitVec 7) (sc : BitVec 3) (s : State) : Out := runView (pointerTest d a sc) s

/-- SPCAST (R190). -/
def execSpcast (d : BitVec 7) (a : BitVec 7) (imm : BitVec 7) (sc : BitVec 3) (s : State) : Out := runView (pointerCast d a imm sc) s

/-- AADD (R191). -/
def execAadd (d : BitVec 7) (a : BitVec 7) (b : BitVec 7) (sc : BitVec 3) (s : State) : Out := runView (atomicOp 0 d a b sc) s

/-- AAND (R191). -/
def execAand (d : BitVec 7) (a : BitVec 7) (b : BitVec 7) (sc : BitVec 3) (s : State) : Out := runView (atomicOp 1 d a b sc) s

/-- AOR (R191). -/
def execAor (d : BitVec 7) (a : BitVec 7) (b : BitVec 7) (sc : BitVec 3) (s : State) : Out := runView (atomicOp 2 d a b sc) s

/-- AXOR (R191). -/
def execAxor (d : BitVec 7) (a : BitVec 7) (b : BitVec 7) (sc : BitVec 3) (s : State) : Out := runView (atomicOp 3 d a b sc) s

/-- AMIN (R191). -/
def execAmin (d : BitVec 7) (a : BitVec 7) (b : BitVec 7) (sc : BitVec 3) (s : State) : Out := runView (atomicOp 4 d a b sc) s

/-- AMAX (R191). -/
def execAmax (d : BitVec 7) (a : BitVec 7) (b : BitVec 7) (sc : BitVec 3) (s : State) : Out := runView (atomicOp 5 d a b sc) s

/-- AMINN (R191). -/
def execAminn (d : BitVec 7) (a : BitVec 7) (b : BitVec 7) (sc : BitVec 3) (s : State) : Out := runView (atomicOp 6 d a b sc) s

/-- AMAXN (R191). -/
def execAmaxn (d : BitVec 7) (a : BitVec 7) (b : BitVec 7) (sc : BitVec 3) (s : State) : Out := runView (atomicOp 7 d a b sc) s

/-- ASWP (R191). -/
def execAswp (d : BitVec 7) (a : BitVec 7) (b : BitVec 7) (sc : BitVec 3) (s : State) : Out := runView (atomicOp 8 d a b sc) s

/-- ACAS (R193). -/
def execAcas (d : BitVec 7) (a : BitVec 7) (b : BitVec 7) (sc : BitVec 3) (s : State) : Out := runView (acas d a b sc) s

/-- FENCE (R86, R194, R195). -/
def execFence (eng : BitVec 4) (fn : BitVec 3) (sc : BitVec 3) (s : State) : Out := runView (fence eng.toNat fn.toNat sc) s

/-- BARINIT (R198). -/
def execBarinit (a : BitVec 7) (b : BitVec 7) (sc : BitVec 3) (s : State) : Out := runView (barInit a b sc) s

/-- BARARR (R198). -/
def execBararr (a : BitVec 7) (b : BitVec 7) (sc : BitVec 3) (s : State) : Out := runView (barArrive a b sc) s

/-- BAREXP (R198). -/
def execBarexp (a : BitVec 7) (b : BitVec 7) (sc : BitVec 3) (s : State) : Out := runView (barExpect a b sc) s

/-- BARTST_OBSERVE (R199). -/
def execBartstObserve (a : BitVec 7) (sc : BitVec 3) (s : State) : Out := runTrapView (barObserve a sc) s

/-- BARTST_COUNT (R199). -/
def execBartstCount (a : BitVec 7) (sc : BitVec 3) (s : State) : Out := runView (barRead Bar.count a sc) s

/-- BARTST_EXPECT (R199). -/
def execBartstExpect (a : BitVec 7) (sc : BitVec 3) (s : State) : Out := runView (barRead Bar.expect a sc) s

end Sys2Proof.Machine
end

