-- ==== Sys2Proof/Machine/Task.lean ====
section
/-!
DEFINITION. Messages, records and the end of a task, opcodes 0xa8 to 0xb0 (R201 to R214).
-/
namespace Sys2Proof.Machine

/-! ## Places on a die (R420, R422) -/

/-- The handler index of a designated tile: die-relative numbers 27, 28, 35 and 36. -/
def handlerIndex (n : Nat) : Option Nat :=
  if isCore n then none
  else match dieRel n with
    | 27 => some 0 | 28 => some 1 | 35 => some 2 | 36 => some 3
    | _ => none

/-- The designated tile of a die for a sender (R421). -/
def designatedTile (die src : Nat) : Nat := dieTile die (match src % 4 with | 0 => 27 | 1 => 28 | 2 => 35 | _ => 36)

/-- A task on a designated tile outside its field has no near object (R422). -/
def View.outsideField (v : View) : Bool := v.s.namesNone v.ctx.ctxnum v.ctx.cr.tilev.toNat && !isCore v.s.cur.tile

/-! ## Messages (R203 to R206) -/

/-- The fields of a destination word (R203). -/
def destCount (a : Word) : Nat := (a.extractLsb' 16 6).toNat
def destStage (a : Word) : BitVec 4 := a.extractLsb' 12 4
def destDie (a : Word) : Nat := (a.extractLsb' 0 6).toNat

/-- The field tile a destination word names: none where a coordinate is outside its extent (R35). -/
def Launch.destTile (l : Launch) (a : Word) : Option Nat :=
  let x := (a.extractLsb' 0 4).toNat
  let y := (a.extractLsb' 4 4).toNat
  let z := (a.extractLsb' 8 4).toNat
  if x < l.ext.1 ∧ y < l.ext.2.1 ∧ z < l.ext.2.2 then some (l.physical (l.virtualAt x y z)) else none

/-- The limits of COUNT (R204). -/
def countAllowed (kind count : Nat) : Bool :=
  match kind with
  | 0 => decide (count ≤ 8)
  | 1 => decide (count = 0)
  | 2 => decide (1 ≤ count ∧ count ≤ 48)
  | _ => decide (count ≤ 22)

/-- Order of points (R383). -/
def pointLt (a b : Nat × Nat) : Bool := decide (a.1 < b.1) || (a.1 == b.1 && decide (a.2 < b.2))

/-- A launch whose handler table holds a DELTA handler, whose tasks create work only at or above their point (R384). -/
def Launch.incremental (l : Launch) : Bool := l.handlers.any fun h => h.cls == 2

/-- The tile a message goes to: none where it is refused (R205, R384). `r` is the record of the sending task. -/
def Launch.messageTile (l : Launch) (kind : Nat) (a : Word) (src : Nat) (r : TaskRec) : Option Nat :=
  let ts := r.ts + (a.extractLsb' 32 32).setWidth 64
  if a.extractLsb' 22 10 ≠ 0 ∨ countAllowed kind (destCount a) = false then none
  else if l.incremental && pointLt (ts.toNat, if kind = 3 then 0 else (destStage a).toNat) (r.ts.toNat, r.stage.toNat) then none
  else if kind = 3 then
    if a.extractLsb' 6 10 = 0 ∧ (l.field.any fun t => dieOf t == destDie a) = true then some (designatedTile (destDie a) src) else none
  else if (l.stage? (destStage a).toNat).isSome then l.destTile a else none

def Item.isMessage : Item → Bool
  | .message _ => true
  | _ => false

/-- Messages of the berth that have not been injected (R205). -/
def View.queuedMessages (v : View) : Nat :=
  let b := v.s.cur.berth
  let held := v.releasedItems
  let ended := (v.tile.trackers.filter fun x => x.issuer.berth == b && !x.committed).flatMap Tracker.buf
  ((v.ctx.buf ++ held ++ ended).filter Item.isMessage).length

/-- The eight registers of an octet, or zeros for Z (R204). -/
def View.octet (v : View) (c : BitVec 7) : List Word :=
  match Opnd.of c with
  | .g n => (natsFrom n.val 8).map fun i => v.ctx.staleG (Fin.ofNat 32 i)
  | _ => (natsFrom 0 8).map fun _ => 0

/-- The payload of a message (R204, R206). -/
def View.messagePayload (v : View) (kind : Nat) (b : BitVec 7) (count : Nat) : List Byte :=
  let row := rowBytes (v.vector v.etype 3 b)
  match kind with
  | 0 => ((v.octet b).take count).flatMap wordBytes
  | 1 => row.take 192
  | 2 => row.take (4 * count)
  | _ => row.take (8 + 8 * count)

/-- Queues a message behind the berth's earlier ones and gives its status (R205): refusal is tested before room. -/
def View.queueMessage (v : View) (dest : Option Nat) (mk : Nat → BitVec 16 → Message) : View × Word :=
  match dest with
  | none => (v, 2)
  | some t =>
    if 8 ≤ v.queuedMessages then (v, 1)
    else
      let m := mk t v.berth.seq
      (({ v with ctx := { v.ctx with buf := v.ctx.buf ++ [.message m] } } : View).modBerth fun x => { x with seq := x.seq + 1 }, 0)

/-- SEND, SENDV, SENDI and AMSG (R203 to R206). -/
def sendMessage (kind : Nat) (d a b : BitVec 7) (sc : BitVec 3) (v : View) : Ex View := do
  let us : List Use := [⟨1, d, .dst false⟩, ⟨2, a, .src false⟩, ⟨3, b, if kind = 0 then .octet true else .src true⟩]
  v.mcheck us
  v.acquired
  let w := v.scalar 2 a
  let me := v.s.cur.tile
  let dest := (v.s.launch? v.ctx.ctxnum).bind fun l => l.messageTile kind w me v.ctx.task
  let (v1, status) := (v.touchSources us).queueMessage dest fun t seq =>
    { kind := kind, destTile := t, ts := v.ctx.task.ts + (w.extractLsb' 32 32).setWidth 64, stage := if kind = 3 then 0 else destStage w,
      count := destCount w, poison := v.ctx.poisoned, src := me, ctxnum := v.ctx.ctxnum,
      payload := v.messagePayload kind b (destCount w), seq := seq }
  .ok ((v1.result d (.scalar status) 1 {} false false).advance sc)

/-! ## Ending a task (R209, R210) -/

/-- What an access still has to do is held at its memory cores for its turn in slice order, which a slice that never comes never gives (R341). -/
def State.flightHeld (s : State) (f : Flight) : Bool := (s.reqs.any fun r => r.flight == f.id) && s.taken f

/-- The flights of an engine operation. -/
def State.opFlights (s : State) (n id : Nat) : List Flight :=
  s.flights.filter fun f => f.issuer.tile == n && match f.kind with
    | .fetch op .. => op == id
    | .store op .. => op == id
    | .contrib op .. => op == id
    | _ => false

/-- An accumulating operation has sent everything, and its cores hold it. -/
def State.opHeld (s : State) (n : Nat) (o : EngineOp) : Bool :=
  !(s.opFlights n o.id).isEmpty && decide (o.counts ≠ 0 ∧ o.put = o.counts) && (s.opFlights n o.id).all s.flightHeld

/-- An engine command that has not completed (R209). A collective command has once the engine has taken it and announced it: what a round waits
for is then launch state (R379, R380). -/
def EngineOp.pending (o : EngineOp) : Bool := o.eng != 2 || o.stage != .running 1 0

/-- Work of a task that has not been performed (R209). A contribution that its core holds is out of the task's hands (R341). -/
def State.outstanding (s : State) (i : Issuer) : Bool :=
  let t := s.tile i.tile
  (t.held.any fun h => h.issuer.same i) || (s.flights.any fun f => f.issuer.same i && !s.flightHeld f) ||
  (t.ops.any fun o => o.issuer.same i && o.pending && !s.opHeld i.tile o) || (t.mx.queue.any fun o => o.issuer.same i)

/-- Every earlier GET and engine command of the task has passed or failed its checks (R188, R209, R217). -/
def View.checksDone (v : View) : Bool :=
  v.ctx.unchecked.isEmpty && !(v.tile.ops.any fun o => o.issuer.same v.issuer && !o.checked)

/-- The pending fault of the issuing task has been taken (R188). -/
def faultTaken (s : State) : State := s.modCtx s.cur.tile s.cur.berth fun c => { c with fault := none }

/-- Runs an instruction that ends its task; `after` is what its trap leaves besides. -/
def runEnd (f : View → Ex State) (s : State) (after : State → State := id) : Out :=
  match s.ctx? s.cur.tile s.cur.berth with
  | none => .next s
  | some c =>
    match f { s := s, ctx := c } with
    | .ok s => .next s
    | .error .hold => .next (holdIssue s)
    | .error (.trap cause value) => .next (after (takeTrap (popReplay s) s.cur.tile s.cur.berth cause value (trapPcs s c cause).1 (trapPcs s c cause).2 (issueSigma s)))

/-- What TAIL and SPLIT do once their own checks have passed (R209): the segment's checks, a tracker entry for outstanding work, the release of
the units, and the commit of a FREE task's segment; an ordered task's buffer waits for its turn. -/
def View.finish (v : View) (last : List Item) : Ex State := do
  let v ← v.segmentChecks
  let n := v.s.cur.tile
  let b := v.s.cur.berth
  let iss := v.issuer
  let buf := v.ctx.buf ++ last
  let keep := v.ordered || !buf.isEmpty || v.s.outstanding iss
  waitUntil (!keep || decide (v.tile.trackers.length < 8))
  let x : Tracker :=
    { id := v.tile.nextTracker, issuer := iss, task := v.ctx.task, buf := if v.ordered then buf else [], kept := v.ctx.kept,
      heldArrivals := v.ctx.heldArrivals, floor := v.ctx.floor, committed := !v.ordered }
  let s := v.commit
  let s := (occupySlot s n b).modTile n fun t =>
    let t := releaseUnits t b
    if keep then { t with trackers := t.trackers ++ [x], nextTracker := t.nextTracker + 1 } else t
  let s := freeBerth s n b v.ctx
  .ok (if v.ordered then s.sequence v.ctx.ctxnum else s.commitUnit iss buf)

/-- TAIL (R209). -/
def tail (v : View) : Ex State := do
  v.resolved
  waitUntil v.checksDone
  match v.ctx.fault with
  | some (cause, p) => trapWith cause p
  | none => v.finish []

/-! ## Continuations (R210) -/

def trigKind (w : Word) : Nat := (w.extractLsb' 30 2).toNat
def trigNum (w : Word) : Nat := (w.extractLsb' 17 4).toNat
def trigCount (w : Word) : Nat := (w.extractLsb' 32 16).toNat

/-- The trigger words SPLIT admits (R210). -/
def Tile.trigAllowed (t : Tile) (w : Word) : Bool :=
  let r := t.rings[Fin.ofNat 16 (trigNum w)]
  decide (w.extractLsb' 21 9 = 0) && match trigKind w with
    | 0 => decide (trigCount w = 0 ∧ trigNum w = 0 ∧ offOf w % 16 = 0)
    | 1 => decide (offOf w = 0) && r.valid && decide (1 ≤ trigCount w ∧ trigCount w ≤ 2 ^ r.lg)
    | 2 => decide (offOf w = 0 ∧ trigCount w = 0 ∧ trigNum w ≤ 12)
    | _ => false

/-- The continuation record (R210): SPLIT hands on the pending fault as a trap before its first instruction (R188). -/
def View.continuation (v : View) (pc : BitVec 48) (w : Word) : TaskRec :=
  let r := v.ctx.task
  let carried := (natsFrom 0 16).map fun i => if (w.extractLsb' 48 16).getLsbD i then v.ctx.staleG (Fin.ofNat 32 i) else 0
  { hpc := pc, ts := r.ts, src := r.src, cls := r.cls, chan := r.chan, stage := r.stage, poison := v.ctx.poisoned, cont := true,
    cmask := w.extractLsb' 48 16, dest := v.ctx.cr.tilev, launch := r.launch, part := r.part, trig := w, body := bodyOf carried [],
    ctxnum := v.ctx.ctxnum, startTrap := v.ctx.fault, amsg := r.amsg }

/-- SPLIT (R210). -/
def split (a b : BitVec 7) (v : View) : Ex State := do
  v.resolved
  let us : List Use := [⟨2, a, .src false⟩, ⟨3, b, .src false⟩]
  v.check us [] none
  let w := v.scalar 3 b
  if !v.tile.trigAllowed w then trapWith Cause.illegal w
  if trigKind w = 2 ∧ v.ordered then trapWith Cause.fenceclass w
  if v.outsideField && decide (trigKind w < 2) then trapWith Cause.window (nearPtr 0xfff (offOf w))
  waitUntil v.checksDone
  (v.touchSources us).finish [.continuation (v.continuation (jumpAddress (v.scalar 2 a)) w)]

/-! ## Spawning, launching and priorities (R212 to R214) -/

/-- SPAWN (R212). -/
def spawn (a b : BitVec 7) (sc : BitVec 3) (v : View) : Ex View := do
  let us : List Use := [⟨2, a, .src false⟩, ⟨3, b, .octet true⟩]
  v.check us [] none
  v.acquired
  let r := v.ctx.task
  let x : TaskRec :=
    { hpc := jumpAddress (v.scalar 2 a), ts := r.ts, src := BitVec.ofNat 13 v.s.cur.tile, cls := r.cls, chan := r.chan, stage := r.stage,
      poison := v.ctx.poisoned, dest := v.ctx.cr.tilev, launch := r.launch, part := r.part, body := bodyOf [] (v.octet b),
      ctxnum := v.ctx.ctxnum }
  .ok (((v.touchSources us).modCtx fun c => { c with buf := c.buf ++ [.spawn x] }).advance sc)

/-- Entries of a launch queue in use: those not answered, and those of placed launches (R348, R446). -/
def Partition.waiting (p : Partition) : Nat :=
  (p.queue.filter fun q => q.status.isNone || q.status == some .held || q.status == some .placed).length

/-- The layout of a request block (R213). -/
def blockAllowed (bs : List Byte) : Bool :=
  let rec_ := payloadWord bs 0
  let ctrl := payloadWord bs 1
  decide (winOf rec_ = 4 ∧ tagOf rec_ = 0 ∧ ctrl >>> 17 = 0 ∧ offOf ctrl % 16 = 0 ∧ payloadWord bs 3 = 0)

/-- Appends a request to a partition's launch queue (R348). -/
def Partition.append (p : Partition) (record : Word) (request : Option (Nat × Nat × Nat)) : Partition :=
  { p with queue := p.queue ++ [{ id := p.nextEntry, record := record, request := request }], nextEntry := p.nextEntry + 1 }

/-- LAUNCH (R213): the segment closes with a system release, and once it is acknowledged the block is read and submitted. -/
def launch (d a : BitVec 7) (sc : BitVec 3) (v : View) : Ex View := do
  v.resolved
  let us := usesDA d a
  v.check us [] none
  if v.ordered then trapWith Cause.fenceclass v.s.cur.wordValue
  v.acquired
  v.sliceFree
  let off ← v.near (v.scalar 2 a) 32 32
  let v1 ← v.checkSegment
  if !v1.ctx.buf.isEmpty then .ok (v1.closeSegment 4).stay
  else do
    waitUntil (v1.acknowledged 4)
    let n := v.s.cur.tile
    if v.s.poisoned (slicePa n off) 32 then trapWith Cause.poison (v.scalar 2 a)
    let v1 := v1.closeSegment 4
    let bs := v1.s.readSlice n off 32
    let part := v1.s.partOf v.ctx.ctxnum
    let full := ((v1.s.part? part).map fun p => decide (64 ≤ p.waiting)).getD true
    let ok := blockAllowed bs
    let status : Word := if !ok then 2 else if full then 1 else 0
    let sent := v1.s.modPart part fun p => p.append (payloadWord bs 0) (some (n, off, offOf (payloadWord bs 1)))
    let v2 : View := if status = 0 then { v1 with s := sent.once (.launchQueueTake part) } else v1
    .ok (((v2.touchSources us).result d (.scalar status) 1 {} false false).advance sc)

/-- A channel's base priority (R214): its raise is cleared. -/
def Tile.setPriority (t : Tile) (c base : Nat) : Tile := t.modChannel c fun x => { x with base := base, raise := 0 }

/-- PRIO (R214): a speculative one takes effect when the branch has resolved (R78). -/
def prio (a imm : BitVec 7) (sc : BitVec 3) (v : View) : Ex View := do
  let us : List Use := [⟨2, a, .src false⟩]
  v.check us [] none
  let c := v.scalar 2 a
  if 12 ≤ c.toNat then trapWith Cause.illegal c
  let v := v.touchSources us
  if v.specOpen then .ok ((v.modCtx fun k => { k with deferred := k.deferred ++ [.prio c.toNat (imm.toNat % 8)] }).advance sc)
  else .ok ((v.modTile fun t => t.setPriority c.toNat (imm.toNat % 8)).advance sc)

/-! ## The instructions -/

/-- SEND (R203, R204). -/
def execSend (d : BitVec 7) (a : BitVec 7) (b : BitVec 7) (sc : BitVec 3) (s : State) : Out := runView (sendMessage 0 d a b sc) s

/-- SENDV (R203, R204). -/
def execSendv (d : BitVec 7) (a : BitVec 7) (b : BitVec 7) (sc : BitVec 3) (s : State) : Out := runView (sendMessage 1 d a b sc) s

/-- SENDI (R203, R204). -/
def execSendi (d : BitVec 7) (a : BitVec 7) (b : BitVec 7) (sc : BitVec 3) (s : State) : Out := runView (sendMessage 2 d a b sc) s

/-- AMSG (R203, R204). -/
def execAmsg (d : BitVec 7) (a : BitVec 7) (b : BitVec 7) (sc : BitVec 3) (s : State) : Out := runView (sendMessage 3 d a b sc) s

/-- SPLIT (R210). -/
def execSplit (a : BitVec 7) (b : BitVec 7) (_sc : BitVec 3) (s : State) : Out := runEnd (split a b) s

/-- TAIL (R209): a pending fault that it traps with is taken (R188). -/
def execTail (_sc : BitVec 3) (s : State) : Out := runEnd tail s faultTaken

/-- SPAWN (R212). -/
def execSpawn (a : BitVec 7) (b : BitVec 7) (sc : BitVec 3) (s : State) : Out := runView (spawn a b sc) s

/-- LAUNCH (R213). -/
def execLaunch (d : BitVec 7) (a : BitVec 7) (sc : BitVec 3) (s : State) : Out := runView (launch d a sc) s

/-- PRIO (R214). -/
def execPrio (a : BitVec 7) (imm : BitVec 7) (sc : BitVec 3) (s : State) : Out := runView (prio a imm sc) s

end Sys2Proof.Machine
end

