-- ==== Sys2Proof/Machine/Sched.lean ====
section
/-!
DEFINITION. The scheduler's steps: the start of a task (R34, R353, R360), work for free berths (R351 to R358), the delivery of messages (R207,
R421), continuations (R211), the retirement trackers (R209) and the commit sequencer (R296, R297, R357, R358).
-/
namespace Sys2Proof.Machine

/-! ## Starting a task (R34) -/

/-- The image a task uses in a berth: a tile's own berths, the active-message context of a designated tile (R422), or a memory core's. -/
def Launch.imageIndex (l : Launch) (n b : Nat) (r : TaskRec) : Nat :=
  if isCore n then 2 ^ 20 + 4 * n + b
  else match l.virtual? n with
    | some v => if r.chan = 14 ∧ (handlerIndex n).isSome = true ∧ b = 3 then 2 ^ 19 + n else 4 * v + b
    | none => 2 ^ 19 + n

/-- The handler settings a task starts with (R34, R204, R335). -/
def State.settings (s : State) (l : Launch) (n : Nat) (r : TaskRec) : Handler :=
  if isCore n then
    ((((s.part? l.part).map Partition.services).getD []).find? fun x => x.2.entry == r.hpc).elim { mwl := 64 } fun x => { x.2 with mwl := 64 }
  else if r.amsg then { mwl := 64, resident := 0 } else (l.handler? r.stage.toNat).getD {}

/-- The context a record starts (R34, R208, R309, R359, R360). -/
def State.startContext (s : State) (l : Launch) (n b : Nat) (r : TaskRec) : Ctx :=
  let h := s.settings l n r
  let ix := l.imageIndex n b r
  let im := (lookup ix l.images).getD {}
  let v := l.virtual? n
  let pos (f : Nat × Nat × Nat → Nat) : Nat := (v.map fun v => f (l.coords v)).getD 0
  let carried (i : Nat) : Word := if r.inline then 0 else if i < 16 then (if r.cmask.getLsbD i then r.carry i else 0)
    else if i < 24 then r.payload (i - 16) else 0
  { ctxnum := r.ctxnum, image := ix, task := r,
    pc := if r.inline then 0xffffffffff00 else (r.hpc.extractLsb' 1 47) ++ 0#1,
    g := Vector.ofFn fun i : Fin 32 => carried i.val,
    k := (Vector.replicate 8 0).set 0 (BitVec.allOnes 256),
    cr := { vtype := h.vtype, accmode := h.accmode, fmta := h.fmta, fmtb := h.fmtb, mwl := h.mwl, scbchk := h.scbchk,
            fieldpos := if isCore n then 0 else
              BitVec.ofNat 20 (pos (fun c => c.1) + 2 ^ 8 * pos (fun c => c.2.1) + 2 ^ 16 * pos (fun c => c.2.2)),
            fieldext := if isCore n then 0 else BitVec.ofNat 21 (l.ext.1 + 2 ^ 8 * l.ext.2.1 + 2 ^ 16 * l.ext.2.2),
            tilev := BitVec.ofNat 12 (if isCore n then n - 4096 else v.getD 0xfff), image := im.locator },
    rows := im.rows, rowPoison := im.rowPoison, resident := h.resident, poisoned := r.poison || r.poisonSeen,
    startTraps := (if r.poison then [(Cause.poison, BitVec.ofNat 64 (2 ^ 63 + r.src.toNat))] else []) ++ r.startTrap.toList,
    floor := if r.chron = 0 then 0 else r.chron + 1, age := s.now }

/-- A berth starts a record at this cycle: its first instruction issues 4 cycles on (R353); class 3 is discarded (R33). -/
def State.startTask (s : State) (n b : Nat) (r : TaskRec) (inlinePlace : Bool) : State :=
  match s.launch? r.ctxnum with
  | none => s
  | some l =>
    if r.cls = 3 then s.report (.poison r.ctxnum r.src.toNat 15 0)
    else
      let c := { s.startContext l n b r with inlinePlace := inlinePlace }
      let s := s.setLaunch r.ctxnum { l with images := match lookup c.image l.images with
        | some _ => l.images
        | none => insertAt c.image { agent := n, berth := b } l.images }
      let s := if inlinePlace then s.modTile n fun t => { t with inboxInline := t.inboxInline + 1 } else s
      let s := s.modTile n fun t => { t with stealWait := 0, stealTried := 0 }
      s.modBerth n b fun x => { x with ctx := some c, nextIssue := s.now + 4, readySince := s.now + 4, yielding := false, fetching := false }

/-! ## Taking work (R351 to R353) -/

/-- A die whose account is zero or below starts no task (R351). -/
def State.exhausted (s : State) (n : Nat) : Bool :=
  !isCore n && (lookup (dieOf n) s.reck.accounts).any fun e => decide (e ≤ 0)

/-- The base priority of a channel (R352). -/
def Tile.basePriority (t : Tile) (c : Nat) : Nat :=
  match c with
  | 12 => 6 | 13 => 7 | 14 => 7
  | c => (t.channels[chanIx c]).base

def Tile.priorityOf (t : Tile) (c : Nat) : Nat := min 7 (t.basePriority c + (t.channels[chanIx c]).raise)

/-- The first record of a channel in the inbox. -/
def Tile.headOf (t : Tile) (c : Nat) : Option TaskRec := t.inbox.find? fun r => r.chan.toNat == c && !r.marked

/-- A channel on which a continuation is armed keeps its records for it (R211). -/
def Tile.armedOn (t : Tile) (c : Nat) : Bool := t.armed.any fun a => a.kind == 2 && a.num == c && !a.inDepot

/-- Whether a berth serves a channel (R351, R420). -/
def servesChannel (n b c : Nat) : Bool :=
  if (handlerIndex n).isSome then (if b = 3 then c == 14 else c != 14) else c != 14 || isCore n

/-- Whether channel `a` with head `x` is served before channel `b` with head `y` (R352). -/
def Tile.before (t : Tile) (a : Nat) (x : TaskRec) (b : Nat) (y : TaskRec) : Bool :=
  decide (t.priorityOf b < t.priorityOf a) || (t.priorityOf a == t.priorityOf b && (decide (x.arrived < y.arrived) ||
    (x.arrived == y.arrived && decide (a < b))))

/-- The channel a berth takes from next: one whose head may start (R352, R357). -/
def Tile.bestChannel (t : Tile) (ok : TaskRec → Bool) (n b : Nat) : List Nat → Option (Nat × TaskRec)
  | [] => none
  | c :: cs =>
    let rest := t.bestChannel ok n b cs
    match t.headOf c with
    | some r =>
      if servesChannel n b c && ok r && !t.armedOn c then
        match rest with
        | some (d, y) => if t.before c r d y then some (c, r) else some (d, y)
        | none => some (c, r)
      else rest
    | none => rest

/-- The channel whose overflow list has the record that arrived first. -/
def Tile.oldestOverflow (t : Tile) : Option Nat :=
  (natsFrom 0 16).foldl (fun best c => match (t.channels[chanIx c]).overflow, best with
    | [], b => b
    | _ :: _, none => some c
    | r :: _, some d => match (t.channels[chanIx d]).overflow with
      | x :: _ => if r.arrived < x.arrived then some c else some d
      | [] => some c) none

/-- A free place of the buffer goes to the overflow lists (R353). -/
def State.refill (s : State) (n : Nat) : State :=
  let t := s.tile n
  if t.inboxUsed < 30 then match t.oldestOverflow with
    | some c => s.once (.inboxOverflowRefill n c)
    | none => s
  else s

/-- A take from a channel clears its raise and starts its count anew (R352). -/
def State.tookFrom (s : State) (n c : Nat) : State :=
  let s := s.modTile n fun t => t.modChannel c fun x => { x with raise := 0, since := s.now }
  let s := if (s.tile n).inbox.any fun r => r.chan.toNat == c then
      (if s.timed.contains (s.now + 4096, .channelAging n c) then s else s.atCycle (s.now + 4096) (.channelAging n c)) else s
  s.refill n

/-- A record leaves the inbox. -/
def State.dropInbox (s : State) (n : Nat) (r : TaskRec) : State := s.modTile n fun t => { t with inbox := t.inbox.erase r }

/-- Step 2 of R351: the marked record of a launch on this tile; one that is armed waits for its trigger (R358). -/
def State.takeMarked (s : State) (n b : Nat) : Option State :=
  let t := s.tile n
  let ok (r : TaskRec) : Bool := r.marked && s.mayStart t r
  match t.inbox.find? ok with
  | some r => some (((s.dropInbox n r).startTask n b { r with marked := false } r.inline).tookFrom n r.chan.toNat)
  | none => (t.deque.find? ok).map fun r =>
      (s.modTile n fun t => { t with deque := t.deque.erase r }).startTask n b { r with marked := false } false

/-- Step 3 of R351. -/
def State.takeInbox (s : State) (n b : Nat) : Option State :=
  ((s.tile n).bestChannel (s.mayStart (s.tile n)) n b (natsFrom 0 15)).map fun (c, r) => ((s.dropInbox n r).startTask n b r r.inline).tookFrom n c

/-- Step 4 of R351: the bottom-most record inside the window (R354). -/
def State.takeDeque (s : State) (n b : Nat) : Option State :=
  let t := s.tile n
  (t.deque.find? (s.mayStart t)).map fun r => (s.modTile n fun t => { t with deque := t.deque.erase r }).startTask n b r false

/-- The block that a fetch for a tile returns (R354): its own, the latest spilled first; then those of other tiles of its field at the same
depot, the oldest spilled first. -/
def State.blockFor (s : State) (n : Nat) : Option (Nat × Nat × List TaskRec) :=
  match lookup n s.depots with
  | some ((k, b) :: _) => some (n, k, b)
  | _ =>
    let owner := (s.tile n).owner
    let cands := s.depots.flatMap fun (m, bs) =>
      if m % 12 = n % 12 ∧ m ≠ n ∧ owner ≠ 0 ∧ (s.tile m).owner = owner then bs.map fun b => (m, b) else []
    cands.foldl (fun best (m, k, b) => match best with
      | none => some (m, k, b)
      | some (_, j, _) => if k < j then some (m, k, b) else best) none

/-- Steps 5 and 6 of R351: a fetch where the deque is empty, or a steal request. -/
def State.seek (s : State) (n b : Nat) : State :=
  let t := s.tile n
  if t.deque.isEmpty && (s.blockFor n).isSome then
    if t.berths.toList.any Berth.fetching then s
    else (s.modBerth n b fun x => { x with fetching := true }).once (.depotFetch n b)
  else if isCore n = false ∧ t.owner ≠ 0 ∧ t.stealAsked = none ∧ t.stealWait ≤ s.now then s.once (.stealRequest n)
  else s

/-- A context waits to resume in a berth: that is a request on channel 15, which the berth takes first (R351, R439). -/
def State.resumes (s : State) (n b : Nat) : Bool :=
  let is (e : Event) : Bool := match e with | .contextResume m c _ => m == n && c == b | _ => false
  s.agenda.any is || s.timed.any fun x => is x.2

/-- TAKE_WORK (R351): the sources in order; a berth of a memory core takes service and other records from its inbox in arrival order (R336). -/
def execTakeWork (tile berth : Nat) (s : State) : Out :=
  .next (
    if !(s.berth tile berth).free then s
    else if isCore tile then
      match (s.tile tile).core.inbox with
      | r :: rest =>
        let s := s.modTile tile fun t => { t with core := { t.core with inbox := rest } }
        let s := s.startTask tile berth r false
        match (s.tile tile).core.waitingService with
        | q :: _ => s.once (.serviceRequest q)
        | [] => s
      | [] => match s.takeDeque tile berth with
        | some s => s
        | none => s.seek tile berth
    else if s.resumes tile berth || s.exhausted tile then s
    else
      let special := (handlerIndex tile).isSome && berth == 3
      match (if special then none else s.takeMarked tile berth) with
      | some s => s
      | none => match s.takeInbox tile berth with
        | some s => s
        | none => if special then s else match s.takeDeque tile berth with
          | some s => s
          | none => s.seek tile berth)

/-- A block leaves its depot's list. -/
def State.takeBlock (s : State) (m k : Nat) : State :=
  { s with depots := insertAt m (((lookup m s.depots).getD []).filter fun x => x.1 != k) s.depots }

/-- A block arrives at a berth (R354): its first record starts the berth's task if it may, and the rest go to the bottom of the deque. -/
def State.blockArrives (s : State) (n b : Nat) (block : List TaskRec) : State :=
  let s := s.modBerth n b fun x => { x with fetching := false }
  match block with
  | [] => s
  | r :: rest =>
    if (s.berth n b).free && !s.exhausted n && s.mayStart (s.tile n) r then
      rest.foldl (fun s r => s.pushDeque n r) (s.startTask n b r false)
    else block.foldl (fun s r => s.pushDeque n r) s

/-- The fetch of a berth that is on its way. -/
def State.fetchOf (s : State) (n b : Nat) : Option Flight :=
  s.flights.find? fun f => match f.kind with
    | .block t c _ => t == n && c == b
    | _ => false

/-- DEPOT_FETCH (R354, R398): the berth asks its home depot through the root port; the depot sends a block; the block arrives. A memory core
stands beside the depots. -/
def execDepotFetch (tile berth : Nat) (s : State) : Out :=
  if isCore tile then
    match s.blockFor tile with
    | some (m, k, block) => .next ((s.takeBlock m k).blockArrives tile berth block)
    | none => .next (s.blockArrives tile berth [])
  else match s.fetchOf tile berth with
  | none =>
    let owner := (s.tile tile).owner
    let f : Flight := { id := s.nextId, kind := .block tile berth [], issuer := { ctxnum := owner, tile := tile, berth := 4 }, checked := true }
    let s : State := { s with nextId := s.nextId + 1, flights := s.flights ++ [f] }
    .next (s.injectAll tile rootTier 9 owner false true (.request f.id) 0)
  | some f =>
    if !f.performed then .next s
    else match f.kind with
      | .block _ _ [] =>
        match s.blockFor tile with
        | some (m, k, block) =>
          let s := (s.takeBlock m k).modFlight f.id fun f =>
            { f with kind := .block tile berth block, performed := false, left := (cutsOf (256 * block.length)).length }
          .next (s.injectAll rootTier tile 9 f.issuer.ctxnum false false (fun o _ => .response f.id o) (256 * block.length))
        | none => .next ((s.dropFlight f.id).blockArrives tile berth [])
      | .block _ _ block => .next ((s.dropFlight f.id).blockArrives tile berth block)
      | _ => .next s

/-- CHANNEL_AGING (R352): after 4,096 cycles with a record and no take, and after each further 4,096. -/
def execChannelAging (tile channel : Nat) (s : State) : Out :=
  let t := s.tile tile
  let x := t.channels[chanIx channel]
  if (t.inbox.any fun r => r.chan.toNat == channel) && decide (x.since < s.now ∧ (s.now - x.since) % 4096 = 0) then
    .next ((s.modTile tile fun t => t.modChannel channel fun x => { x with raise := x.raise + 1 }).atCycle (s.now + 4096) (.channelAging tile channel))
  else .next s

/-- INBOX_OVERFLOW_REFILL (R353): the record that has waited longest in the depot takes the free place. -/
def execInboxOverflowRefill (tile channel : Nat) (s : State) : Out :=
  let t := s.tile tile
  if t.inboxUsed < 30 && t.oldestOverflow == some channel then
    match (t.channels[chanIx channel]).overflow with
    | r :: rest =>
      let empty := !(t.inbox.any fun x => x.chan == r.chan)
      let s := s.modTile tile fun t => { t.modChannel channel (fun x => { x with overflow := rest }) with inbox := t.inbox ++ [r] }
      let s := if empty then
          (s.modTile tile fun t => t.modChannel channel fun x => { x with since := s.now }).atCycle (s.now + 4096) (.channelAging tile channel) else s
      .next (((s.refill tile).wake tile).offer tile)
    | [] => .next s
  else .next s

/-! ## Steals and regrouping (R355, R356) -/

/-- The victims of a thief in the order of their trial: the tiles of its die, then the rest, each in increasing virtual number after its own. -/
def State.victims (s : State) (thief : Nat) : List Nat :=
  match s.launch? (s.tile thief).owner with
  | none => []
  | some l => match l.virtual? thief with
    | none => []
    | some v =>
      let order := (natsFrom 1 (l.tileCount - 1)).map fun i => l.physical ((v + i) % l.tileCount)
      (order.filter fun t => dieOf t == dieOf thief) ++ order.filter fun t => dieOf t != dieOf thief

/-- Torus hops between two tiles. -/
def torusHops (a b : Nat) : Nat :=
  let d (x y : Nat) : Nat := min ((x + 16 - y) % 16) ((y + 16 - x) % 16)
  d (tileX a) (tileX b) + d (tileY a) (tileY b) + d (tileZ a) (tileZ b)

/-- STEAL_REQUEST (R355): the next victim is asked; its answer comes within 64 + 2h cycles. -/
def execStealRequest (thief : Nat) (s : State) : Out :=
  let t := s.tile thief
  let vs := s.victims thief
  match t.stealAsked, vs[t.stealTried]? with
  | none, some v =>
    if t.stealWait ≤ s.now then
      .next ((s.modTile thief fun t => { t with stealAsked := some v }).atCycle (s.now + 64 + 2 * torusHops thief v) (.stealAnswer thief))
    else .next s
  | _, _ => .next s

/-- A refusal: the next victim after 16 cycles, the next pass after 1,024. -/
def State.refused (s : State) (thief : Nat) : State :=
  let t := s.tile thief
  let last := decide ((s.victims thief).length ≤ t.stealTried + 1)
  let due := s.now + if last then 1024 else 16
  (s.modTile thief fun t => { t with stealAsked := none, stealTried := if last then 0 else t.stealTried + 1, stealWait := due }).atCycle due
    (.stealRetryWait thief)

/-- STEAL_ANSWER (R355): a victim with two records inside its window gives the top-most of them. -/
def execStealAnswer (thief : Nat) (s : State) : Out :=
  match (s.tile thief).stealAsked with
  | none => .next s
  | some v =>
    let t := s.tile v
    let inside := t.deque.filter (s.mayStart t)
    match inside.getLast? with
    | some r =>
      if 2 ≤ inside.length then
        let s := s.modTile v fun t => { t with deque := (t.deque.reverse.erase r).reverse }
        .next ((s.modTile thief fun t => { t with stealAsked := none, stealTried := 0 }).sendRecord v thief r)
      else .next (s.refused thief)
    | none => .next (s.refused thief)

/-- STEAL_RETRY_WAIT (R355): the wait is over; a berth that is still free tests its sources again. -/
def execStealRetryWait (thief : Nat) (s : State) : Out :=
  if (s.tile thief).stealWait ≤ s.now then .next (s.offer thief) else .next s

/-- Records of a launch queued on a die (R356). -/
def State.queuedOn (s : State) (launch die : Nat) : Nat :=
  (s.tiles.map fun (n, t) => if isCore n || dieOf n != die then 0 else ((t.inbox ++ t.deque).filter fun r => r.ctxnum == launch).length).sum

/-- Neighbouring dies (R356). -/
def neighbourDies (a b : Nat) : Bool :=
  let adj (x y : Nat) : Bool := (x + 1) % 4 == y || (y + 1) % 4 == x
  let za := a / 4
  let zb := b / 4
  (za == zb && adj (a % 4) (b % 4)) || (a % 4 == b % 4 && ((za + 1) % 16 == zb || (zb + 1) % 16 == za))

/-- The top-most record of a tile's deque that may move. -/
def State.topOf (s : State) (launch n : Nat) : Option TaskRec :=
  let t := s.tile n
  t.deque.reverse.find? fun r => r.ctxnum == launch && s.mayStart t r && !r.marked

/-- Takes up to `m` records inside the window from the tops of a die's deques, one record from a tile at a time. -/
def State.takeTops (s : State) (launch : Nat) (tiles : List Nat) : Nat → Nat → State × List TaskRec
  | 0, _ => (s, [])
  | m + 1, i =>
    -- the next tile in turn that has a record
    match ((natsFrom 0 tiles.length).map fun j => tiles.getD ((i + j) % tiles.length) 0).find? fun n => (s.topOf launch n).isSome with
    | none => (s, [])
    | some n => match s.topOf launch n with
      | none => (s, [])
      | some r =>
        let s := s.modTile n fun t => { t with deque := (t.deque.reverse.erase r).reverse }
        let (s, rest) := s.takeTops launch tiles m (tiles.idxOf n + 1)
        (s, r :: rest)

/-- Sends records to the bottoms of a die's deques, one record to a tile at a time. -/
def State.sendTops (s : State) (src : Nat) (dests : List Nat) : List TaskRec → Nat → State
  | [], _ => s
  | r :: rs, i => match dests[i % dests.length]? with
    | some d => (s.sendRecord src d { r with migrated := true }).sendTops src dests rs (i + 1)
    | none => s.sendTops src dests rs (i + 1)

/-- Whether the pair (da, a, b) comes before another (R356): the larger difference, then the lower pair of dies. -/
def pairBefore (x y : Nat × Nat × Nat) : Bool :=
  decide (y.1 < x.1) || (x.1 == y.1 && (decide (min x.2.1 x.2.2 < min y.2.1 y.2.2) ||
    (min x.2.1 x.2.2 == min y.2.1 y.2.2 && decide (max x.2.1 x.2.2 < max y.2.1 y.2.2))))

def insertPair (x : Nat × Nat × Nat) : List (Nat × Nat × Nat) → List (Nat × Nat × Nat)
  | [] => [x]
  | y :: l => if pairBefore x y then x :: y :: l else y :: insertPair x l

/-- REGROUPING (R356). -/
def execRegrouping (launch : Nat) (s : State) : Out :=
  match s.launch? launch with
  | none => .next s
  | some l =>
    let field := l.field
    let dies := (natsFrom 0 64).filter fun d => field.any fun t => dieOf t == d
    let limit := ((s.part? l.part).map Partition.balance).getD 512
    let q := dies.map fun d => (d, s.queuedOn launch d)
    let pairs := q.flatMap fun (a, qa) => q.filterMap fun (b, qb) =>
      if neighbourDies a b && decide (limit < qa - qb) then some (qa - qb, a, b) else none
    let sorted := pairs.foldr insertPair []
    let (s, _, _) := sorted.foldl (fun (acc : State × List Nat × List Nat) (x : Nat × Nat × Nat) =>
      let (s, froms, tos) := acc
      let (d, a, b) := x
      if froms.contains a || tos.contains b then (s, froms, tos)
      else
        let (s, rs) := s.takeTops launch (field.filter fun t => dieOf t == a) (min (d / 2) 256) 0
        (s.sendTops ((field.find? fun t => dieOf t == a).getD 0) (field.filter fun t => dieOf t == b) rs 0, a :: froms, b :: tos)) (s, [], [])
    .next s

/-! ## Messages (R207, R421) -/

/-- Whether a flight is a message of the stream of `f` and `m`: from one berth to one tile and one stage (R207); remote commands are a stream of their own. -/
def Flight.sameStream (g f : Flight) (m : Message) : Bool :=
  g.issuer.tile == f.issuer.tile && g.issuer.berth == f.issuer.berth && match g.kind with
    | .message x => x.destTile == m.destTile && x.stage == m.stage && (x.kind == 5) == (m.kind == 5)
    | _ => false

/-- Earlier messages of one berth to one tile and stage that have not been delivered. -/
def State.messageBefore (s : State) (f : Flight) (m : Message) : Bool :=
  s.flights.any fun g => decide (g.id < f.id) && g.sameStream f m

/-- The later messages of the stream that wait for this one to be delivered. -/
def State.nextMessages (s : State) (f : Flight) (m : Message) : State :=
  (s.flights.filter fun g => decide (f.id < g.id) && g.left == 0 && g.sameStream f m).foldl (fun s g =>
    match g.kind with
    | .message x => s.once (x.event g.id)
    | _ => s) s

/-- MESSAGE_DELIVERY (R207): the message makes its record at its inbox, in the order in which the berth sent to that tile and stage. -/
def execMessageDelivery (flight : Nat) (s : State) : Out :=
  match s.flight? flight with
  | none => .next s
  | some f => match f.kind with
    | .message m =>
      if f.left ≠ 0 || s.messageBefore f m then .next s
      else
        let s := s.dropFlight flight
        let s := match s.launch? m.ctxnum with
          | some l => s.queueRecord m.destTile (recordOf l m)
          | none => s
        .next (s.nextMessages f m)
    | _ => .next s

/-! ## Continuations (R211) -/

/-- A KIND 0 firing observes the object for the continuation (R199, R211, R249, R359). -/
def State.observeFor (s : State) (n : Nat) (a : Armed) : State × TaskRec :=
  let r := a.task
  let (s, _, chron, poison, past) := s.observe n a.bar r.ctxnum
  let tag := ((s.launch? r.ctxnum).bind fun l => l.virtual? n).getD 0xfff
  if past then (s, { r with poisonSeen := r.poisonSeen || poison, startTrap := some (Cause.phaseover, nearPtr tag a.bar) })
  else
    let (s, refusal) := s.takeRefusal n a.bar
    (s.wake n, { r with chron := max r.chron chron, poisonSeen := r.poisonSeen || poison,
                        startTrap := refusal.map fun x => (Cause.capability, x) })

/-- A record feeds a KIND 2 continuation (R211). -/
def TaskRec.feed (r x : TaskRec) : TaskRec :=
  { r with
    cmask := r.cmask ||| x.cmask, chron := max r.chron x.chron, poisonSeen := r.poisonSeen || x.poison || x.poisonSeen,
    chan := x.chan, fed := some (x.ts.toNat, x.stage.toNat), notice := x.notice,
    body := bodyOf ((natsFrom 0 16).map fun i => if r.cmask.getLsbD i then r.carry i else x.carry i) ((natsFrom 0 8).map x.payload) }

/-- CONTINUATION_FIRE (R211): the fired continuation goes to the bottom of the arming tile's deque. -/
def execContinuationFire (tile index : Nat) (s : State) : Out :=
  match (s.tile tile).armed.find? fun a => a.order == index with
  | none => .next s
  | some a =>
    if !s.triggered tile a then .next s
    else
      let s := s.modTile tile fun t => { t with armed := t.armed.filter fun x => x.order != index }
      match a.kind with
      | 0 => let (s, r) := s.observeFor tile a; .next (s.pushDeque tile r)
      | 1 => .next (s.pushDeque tile a.task)
      | _ => match (s.tile tile).headOf a.num with
        | some x => .next (((s.dropInbox tile x).tookFrom tile a.num).pushDeque tile (a.task.feed x))
        | none => .next (s.pushDeque tile a.task)

/-- TRIGGER_TABLE_TEST (R211): the continuations that the depot holds are tested, and again 1,024 cycles on. -/
def execTriggerTableTest (tile : Nat) (s : State) : Out :=
  let waiting := (s.tile tile).armed.filter Armed.inDepot
  let s := (waiting.filter fun a => s.triggered tile a).foldl (fun s a => s.once (.continuationFire tile a.order)) s
  .next (if waiting.isEmpty then s else s.atCycle (s.now + 1024) (.triggerTableTest tile))

/-! ## Retirement (R209) -/

/-- RETIREMENT_DRAIN (R209, R299): an entry whose work has been performed is free; an aborted one starts its record again. -/
def execRetirementDrain (tile index : Nat) (s : State) : Out :=
  match (s.tile tile).trackers.find? fun x => x.id == index with
  | none => .next s
  | some x =>
    let gone := s.modTile tile fun t => { t with trackers := t.trackers.filter fun y => y.id != index }
    if x.aborted then (if s.getsOut x.issuer then .next s else .next (gone.rerun tile x))
    else if x.committed && !s.outstanding x.issuer then .next gone
    else .next s

/-- RELEASE_HOLD_END (R309). -/
def execReleaseHoldEnd (tile : Nat) (s : State) : Out := .next (s.releaseHeld tile)

/-! ## The commit sequencer (R296, R297, R357, R358) -/

/-- A write of the previous commit has not been performed (R297). -/
def State.commitOpen (s : State) (l : Launch) : Bool :=
  match l.committing with
  | none => false
  | some i =>
    ((s.tile i.tile).held.any fun h => h.issuer.same i && h.items.any fun x => x.run.isSome || x.isNear) ||
    s.flights.any fun f => f.issuer.same i && s.unperformed f

/-- Continuations of a commit enter the pending set with it (R210, R296). -/
def State.enterItems (s : State) : List Item → State × List Item
  | [] => (s, [])
  | .continuation r :: is =>
    let (s, r) := s.enter r
    let (s, rest) := s.enterItems is
    (s, .continuation r :: rest)
  | i :: is =>
    let (s, rest) := s.enterItems is
    (s, i :: rest)

/-- Commits an ordered task's buffer at its turn (R297, R299, R436). -/
def State.grant (s : State) (l : Launch) (launch n : Nat) (x : Tracker) (key : Nat × Nat) : State :=
  let iss := { x.issuer with chron := max s.chron x.floor }
  let s := s.setLaunch launch { l with lastKey := some key, committing := some iss }
  if x.emptyCommit then s.modTile n fun t => { t with trackers := t.trackers.filter fun y => y.id != x.id }
  else
    let (s, items) := s.enterItems x.buf
    let s := s.modTile n fun t =>
      { t with trackers := t.trackers.map fun y => if y.id = x.id then { y with committed := true, buf := [], heldArrivals := [] } else y }
    let s := s.commitUnit iss items
    x.heldArrivals.foldl (fun s (off, bytes, poison) => s.arrive n off bytes iss poison) s

/-- COMMIT_GRANT (R297): the task that holds the lowest key commits once it has ended and the previous commit has been performed. -/
def execCommitGrant (launch : Nat) (s : State) : Out :=
  match (s.launch? launch).filter fun l => l.state != .saved with
  | none => .next s
  | some l =>
    if s.commitOpen l then .next s
    else match leastKey (s.orderKeys launch) with
      | none => .next s
      | some k =>
        match firstSome (fun (n, t) => (t.trackers.find? fun x => !x.committed && !x.aborted && x.task.orderKey launch == some k).map
            fun x => (n, x)) s.tiles with
        | some (n, x) =>
          -- an RQT of the task must have written its scale bytes (R245)
          if (s.tile n).mx.queue.any fun o => o.issuer.same x.issuer && o.ownView && match o.kind with | .rqt .. => true | _ => false then .next s
          else .next ((s.grant l launch n x k.1).sequence launch)
        | none => .next s

/-- ORDERED_FRONTIER_PUBLISH (R357): every tile of the field gets the frontier; with no ordered record pending, what stands is the last
committed key's time, which no later key is below. -/
def execOrderedFrontierPublish (launch : Nat) (s : State) : Out :=
  match (s.launch? launch).filter fun l => l.state != .saved with
  | none => .next s
  | some l =>
    let phi := match leastKey (s.orderKeys launch) with
      | some k => k.1.1
      | none => (l.lastKey.map Prod.fst).getD 0
    let phi := max phi l.pubPhi.toNat
    let s := s.setLaunch launch { l with pubPhi := BitVec.ofNat 64 phi }
    let s := l.field.foldl (fun s n => s.modTile n fun t => { t with phi := insertAt launch (BitVec.ofNat 64 (max phi (t.phiCopy launch))) t.phi }) s
    .next (l.field.foldl (fun s n => if (s.tile n).inbox.isEmpty && (s.tile n).deque.isEmpty then s else s.offer n) s)

/-- Marks the first record of a list with an order key. -/
def markIn (ctxnum : Nat) (k : (Nat × Nat) × Nat) (rs : List TaskRec) : List TaskRec :=
  rs.map fun r => if r.orderKey ctxnum = some k then { r with marked := true } else r

/-- MARK_OLDEST_RECORD (R358): the record of the lowest key, where it waits; one in a depot goes to its tile's inbox. -/
def execMarkOldestRecord (launch : Nat) (s : State) : Out :=
  match leastKey (s.orderKeys launch) with
  | none => .next s
  | some k =>
    let has (rs : List TaskRec) : Bool := rs.any fun r => r.orderKey launch == some k
    match s.tiles.find? fun x => has x.2.inbox || has x.2.deque with
    | some (n, _) =>
      .next ((s.modTile n fun t => { t with inbox := markIn launch k t.inbox, deque := markIn launch k t.deque }).offer n)
    | none =>
      match firstSome (fun (d : Nat × List (Nat × List TaskRec)) =>
          (d.2.flatMap Prod.snd).find? (fun r => r.orderKey launch == some k) |>.map fun r => (d.1, r)) s.depots with
      | some (n, r) =>
        let depots : List (Nat × List (Nat × List TaskRec)) := s.depots.map fun d => (d.1, d.2.map fun b => (b.1, b.2.erase r))
        let s : State := { s with depots := depots }
        .next ((s.modTile n fun t => { t with inbox := t.inbox ++ [{ r with marked := true }] }).offer n)
      | none =>
        match firstSome (fun (x : Nat × Tile) => (firstSome (fun (c : Channel) => c.overflow.find? fun r => r.orderKey launch == some k)
            x.2.channels.toList).map fun r => (x.1, r)) s.tiles with
        | some (n, r) =>
          .next ((s.modTile n fun t => { t with
            channels := t.channels.map fun c => { c with overflow := c.overflow.erase r }, inbox := t.inbox ++ [{ r with marked := true }] }).offer n)
        | none => .next s

/-! ## The issue slot and the queue (R12, R71, R363) -/

/-- ISSUE_STARVATION (R363): a berth that has been ready for 256 cycles is the tile's next choice. -/
def execIssueStarvation (tile : Nat) (s : State) : Out :=
  let t := s.tile tile
  let waiting := (natsFrom 0 (if isCore tile then 2 else 4)).filter fun b =>
    (t.berth b).ctx.any (fun c => !c.stopped) && !(t.berth b).frozen && decide ((t.berth b).nextIssue ≤ s.now) && decide ((t.berth b).readySince + 256 ≤ s.now)
  match waiting with
  | [] => .next s
  | b :: bs =>
    let best := bs.foldl (fun x y => if (t.berth y).readySince < (t.berth x).readySince then y else x) b
    .next (s.modTile tile fun t => { t with cur := some (berthIx best), last := berthIx (best + 3) })

/-- INTERLOCKED_RESULT (R71): values that have come to exist are no longer waited for. -/
def execInterlockedResult (tile berth : Nat) (s : State) : Out :=
  .next (s.modCtx tile berth fun c => { c with pend := dropSettled c.dist s.now c.pend })

/-- RESULT_QUEUE_EXPIRY (R12): the value of an entry past its life is gone; a read of it traps. -/
def execResultQueueExpiry (tile berth position : Nat) (s : State) : Out :=
  .next (s.modCtx tile berth fun c =>
    let i := c.q.slotOf position
    match c.q.slots[i] with
    | .empty => c
    | .scalar _ d => if d ≤ s.now then { c with q := { c.q with slots := c.q.slots.set i (.scalar 0 d) } } else c
    | .vector _ d => if d ≤ s.now then { c with q := { c.q with slots := c.q.slots.set i (.vector 0 d) } } else c)

end Sys2Proof.Machine
end

