-- ==== Sys2Proof/Machine/Complete.lean ====
section
/-!
DEFINITION. Split-phase accesses complete (R185 to R193, R288, R299), and memory cores serve requests (R328 to R346).
-/
namespace Sys2Proof.Machine

/-! ## Completions at the issuing tile -/

/-- An arrival of a GET: an ordered task's waits for its commit, an aborted one's is not made (R299). -/
def State.getArrival (s : State) (i : Issuer) (off bytes : Nat) (poison : Bool) : State :=
  if !i.ordered then s.arrive i.tile off bytes i poison
  else match s.task? i with
    | some _ => s.modTask i fun c => { c with heldArrivals := c.heldArrivals ++ [(off, bytes, poison)] }
    | none =>
      match (s.tile i.tile).trackers.find? fun x => x.issuer.same i with
      | some x =>
        if x.aborted then s
        else if x.committed then s.arrive i.tile off bytes i poison
        else s.modTile i.tile fun t => { t with trackers := t.trackers.map fun y =>
            if y.id = x.id then { y with heldArrivals := y.heldArrivals ++ [(off, bytes, poison)] } else y }
      | none => s

/-- A failure that a task's split-phase access or command met: its pending fault while it runs or is saved (R188, R466). -/
def State.taskFault (s : State) (i : Issuer) (order cause : Nat) (value : Word) : State := s.modTask i fun c => c.withFault order cause value

/-- Poisoned words of a row run: word w of the data lies in row `row + w / 32` (R288). -/
def poisonRows (row len : Nat) (words : List Nat) (old : List (Nat × Nat)) : List (Nat × Nat) :=
  let whole := (natsFrom row ((len + 255) / 256)).filter fun r => decide (256 * (r + 1 - row) ≤ len)
  (old.filter fun p => !(whole.contains p.1)) ++ words.map fun w => (row + w / 32, w % 32)

/-- GET_DELIVERY (R185, R288): the rows take their bytes, and the barrier counts them. -/
def execGetDelivery (flight : Nat) (s : State) : Out :=
  match s.flight? flight with
  | none => .next s
  | some f => match f.kind with
    | .get p ctl row =>
      if !f.performed || f.left ≠ 0 then .next s
      else
        let i := f.issuer
        let len := ctlLen ctl
        let s := s.endFlight flight i.tile
        let n := (len + 255) / 256
        let s := s.modRows i.ctxnum i.image (fun rs => deliverRows rs row n f.data) (poisonRows row len f.poison) (natsFrom row n)
        let bad := !f.poison.isEmpty
        let s := if bad then s.taskFault i flight Cause.poison p else s
        .next ((s.getArrival i (ctlBar ctl) len bad))
    | _ => .next s

/-- GET_CHECK_RESULT (R188, R333): a failed GET delivers nothing and becomes the pending fault; another goes on to its delivery. -/
def execGetCheckResult (flight : Nat) (s : State) : Out :=
  match s.flight? flight with
  | none => .next s
  | some f =>
    let i := f.issuer
    let s := s.modTask i fun c => { c with unchecked := c.unchecked.filter fun x => x != flight }
    match f.failure with
    | some (cause, p) => .next ((s.endFlight flight i.tile).taskFault i flight cause p)
    | none => .next ((s.modFlight flight fun f => { f with checked := true }).soon (.getDelivery flight))

/-- PUT_COMPLETION (R186). -/
def execPutCompletion (flight : Nat) (s : State) : Out :=
  match s.flight? flight with
  | none => .next s
  | some f => match f.kind with
    | .put _ ctl d =>
      if !f.performed then .next s
      else .next ((s.endFlight flight f.issuer.tile).arrive f.issuer.tile (ctlBar ctl) d.length f.issuer false)
    | _ => .next s

/-- POSTED_ATOMIC_COMPLETION (R191): the atomic acts at its destination, after the berth's earlier writes there. -/
def execPostedAtomicCompletion (flight : Nat) (s : State) : Out :=
  match s.flight? flight with
  | none => .next s
  | some f =>
    if f.performed then .next ((s.dropFlight flight).releaseHeld f.issuer.tile)
    else match s.flightSlice f with
      | some (a, off) =>
        if f.left ≠ 0 || !s.inOrder f a then .next s
        else .next ((((s.performAt f a off).1.dropFlight flight).settle a).atCycle s.now (.releaseHoldEnd f.issuer.tile))
      | none => .next s

/-- REMOTE_ACAS_REPLY (R193): the old value lands in the row, and the barrier counts 8 bytes. Of a poisoned word the row gets the mark, the task
its pending fault and the barrier its poison (R288). -/
def execRemoteAcasReply (flight : Nat) (s : State) : Out :=
  match s.flight? flight with
  | none => .next s
  | some f => match f.kind with
    | .acas p _ _ bar row =>
      if !f.performed then .next s
      else
        let i := f.issuer
        let bad := !f.poison.isEmpty
        let s := if bad then (s.modRows i.ctxnum i.image id (fun ps => (row, 0) :: ps.filter fun q => q != (row, 0)) []).taskFault i flight Cause.poison p
          else s.modRows i.ctxnum i.image (fun rs => rowsSet rs row (rowSetWord (rowsGet rs row) 0 f.old)) id [row]
        .next ((s.endFlight flight i.tile).arrive i.tile bar 8 i bad)
    | _ => .next s

/-! ## Requests at a memory core (R328, R329, R333) -/

def chanOf (va : Nat) : Fin 2 := Fin.ofNat 2 (channelOf va)

def State.modCore (s : State) (core : Nat) (f : CoreUnit → CoreUnit) : State := s.modTile core fun t => { t with core := f t.core }

/-- The core's answer travels back to the tile, or is there at once for the core's own access (R326, R328). -/
def State.answer (s : State) (r : ExtReq) (len : Nat) : State :=
  if isCore r.src then s.extAnswered r
  else
    let cuts := cutsOf len
    let s := s.modReq r.id fun r => { r with left := cuts.length }
    s.injectAll (servingCore r.va) r.src 9 r.ctxnum (decide (0 < len)) false (fun o _ => .extReply r.id o) len

/-- A request that fails translation: its flight keeps the first failure, and the core logs it (R333). -/
def State.failReq (s : State) (r : ExtReq) (reason : Nat) : State :=
  let s := s.report (.translate r.part r.va reason)
  let s := s.modFlight r.flight fun f => { f with failure := f.failure.or (some (Cause.translate,
    match f.kind.run with | some (p, _) => p | none => BitVec.ofNat 64 r.va)) }
  s.answer r 0

/-- Takes the head of a channel's queue. -/
def CoreUnit.pop (c : CoreUnit) (ch : Fin 2) : CoreUnit := { c with queues := c.queues.set ch c.queues[ch].tail }

/-- Looks at a channel's next request. -/
def State.serveNext (s : State) (core : Nat) (ch : Fin 2) : State :=
  if ((s.tile core).core.queues[ch]).isEmpty then s else s.once (.externalRequestPerform core ch.val)

/-- EXTERNAL_REQUEST_ARRIVAL (R328, R329): the request joins its channel's queue of 256. -/
def execExternalRequestArrival (request : Nat) (s : State) : Out :=
  match s.req? request with
  | none => .next s
  | some r =>
    let core := servingCore r.va
    let ch := chanOf r.va
    let q := (s.tile core).core.queues[ch]
    if q.contains request then .next s
    else if 256 ≤ q.length then .next (s.soon (.externalRequestArrival request))
    else .next ((s.modCore core fun c => { c with queues := c.queues.set ch (q ++ [request]) }).serveNext core ch)

/-- The bank and row of a physical address (R327). -/
def bankOf (pa : Nat) : Nat := pa / 256 / 2304 % 16
def dramRow (pa : Nat) : Nat := pa / 256 / 2304 / 64

/-- An access to a bank that is busy opening another row waits, and BKCONF counts it (R339): a bank that opens a row is busy for 32 cycles. -/
def CoreUnit.openRow (c : CoreUnit) (ch pa now : Nat) : CoreUnit :=
  let bank := 16 * ch + bankOf pa
  match lookup bank c.openRows with
  | some (r, busy) =>
    if r = dramRow pa then c
    else if now < busy then { c with openRows := insertAt bank (dramRow pa, busy + 32) c.openRows, bkconf := c.bkconf + 1 }
    else { c with openRows := insertAt bank (dramRow pa, now + 32) c.openRows }
  | none => { c with openRows := insertAt bank (dramRow pa, now + 32) c.openRows }

/-- An access of a core to its memory. -/
def State.opens (s : State) (core pa : Nat) : State :=
  s.modCore core fun c => c.openRow (channelOf pa % 2) pa s.now

/-- Puts bytes into the data of a flight. -/
def Flight.fill (f : Flight) (off : Nat) (bs : List Byte) (poison : List Nat) : Flight :=
  { f with data := f.data.take off ++ bs ++ f.data.drop (off + bs.length), poison := f.poison ++ poison.map fun w => off / 8 + w }

/-- Releases the pin of a write once it is performed (R333). -/
def State.unpinReq (s : State) (r : ExtReq) : State := if r.pinned then s.pin r.part r.va false else s

/-- Performs a translated request on memory (R328, R191, R193). -/
def State.performReq (s : State) (r : ExtReq) (pa : Nat) : State :=
  match r.kind with
  | .read len => (s.modFlight r.flight fun f => f.fill r.off (Mem.readBytes s.mem pa len) (s.poisonIn pa len)).answer r len
  | .gather parts =>
    -- the elements lie in one granule, so one translation serves them
    let one (x : Nat × State) (p : Nat × Nat) : Nat × State :=
      let a := pa + p.1 - r.va
      (x.1 + p.2, x.2.modFlight r.flight fun f => f.fill (r.off + x.1) (Mem.readBytes s.mem a p.2) (s.poisonIn a p.2))
    let (len, s) := parts.foldl one (0, s)
    s.answer r len
  | .scatter parts =>
    let one (s : State) (p : Nat × List Byte × Bool) : State :=
      let a := pa + p.1 - r.va
      if p.2.2 then s.poisonPa (wordsOf a p.2.1.length) else s.writePa a p.2.1
    ((parts.foldl one s).unpinReq r).answer r 0
  | .write d skip =>
    let s := (cleanRuns d skip).foldl (fun s x => s.writePa (pa + x.1) x.2) s
    ((s.poisonPa ((skip ++ r.poison).map fun w => pa / 8 + w)).unpinReq r).answer r 0
  | .atomic op b =>
    if s.poisoned pa 8 then (((s.modFlight r.flight fun f => { f with poison := [0] }).unpinReq r).answer r 0)
    else
    let old := bytesWord (Mem.readBytes s.mem pa 8)
    ((s.writePa pa (wordBytes (atomicNew op old b))).unpinReq r).answer r 0
  | .acas e w =>
    if s.poisoned pa 8 then (((s.modFlight r.flight fun f => { f with poison := [0] }).unpinReq r).answer r 0)
    else
    let old := bytesWord (Mem.readBytes s.mem pa 8)
    let s := if old = e then s.writePa pa (wordBytes w) else s
    let s := s.modFlight r.flight fun f => { f with old := old }
    (s.unpinReq r).answer r 0
  | .acc .. => s.soon (.accumulatingContribution r.id)

/-- Whether a request is a service request of its page (R335): a PUT of 64 bytes whose whole run lies in the granule. -/
def State.isService (s : State) (r : ExtReq) : Bool :=
  match r.kind with
  | .write d _ => d.length == 64 && match s.flight? r.flight with
      | some f => (match f.kind with | .put _ ctl x => x.length == 64 && !ctlAcc ctl | _ => false)
      | none => false
  | _ => false

/-- How a request uses its page. -/
def State.useOf (s : State) (r : ExtReq) : PageUse :=
  match r.kind with
  | .read _ => .read
  | .gather _ => .read
  | _ => if s.isService r then .service else .write

/-- EXTERNAL_REQUEST_PERFORM (R328, R333, R335): the head of the channel's queue; a TLB miss waits for its walk. -/
def execExternalRequestPerform (core channel : Nat) (s : State) : Out :=
  let ch : Fin 2 := Fin.ofNat 2 channel
  match (s.tile core).core.queues[ch] with
  | [] => .next s
  | id :: _ =>
    match s.req? id with
    | none => .next ((s.modCore core fun c => c.pop ch).serveNext core ch)
    | some r =>
      match (s.tile core).core.tlb.find? fun e => e.hits r.part r.va with
      | none => .next (s.once (.pageTableWalk core r.part (BitVec.ofNat 48 r.va)))
      | some e =>
        let s := s.modCore core fun c => { (c.pop ch).openRow channel (e.pa r.va) s.now with tlb := e :: c.tlb.erase e }
        let s := if !e.admits (s.useOf r) then s.failReq r (if pteType e.pte = 2 then 2 else 1)
          else if pteType e.pte = 2 then s.soon (.serviceRequest id)
          else s.performReq r (e.pa r.va)
        .next (s.serveNext core ch)

/-- PAGE_TABLE_WALK (R330 to R333): the page enters the TLB; a failed walk fails the request that needed it. -/
def execPageTableWalk (core part : Nat) (address : BitVec 48) (s : State) : Out :=
  let va := address.toNat
  let ch := chanOf va
  if (s.tile core).core.tlb.any fun e => e.hits part va then .next (s.serveNext core ch)
  else match s.walk core part va with
    | (s, some (pte, size)) =>
      let e : TlbEntry := { part := part, base := va / size * size, size := size, pte := pte }
      .next ((s.modCore core fun c => { c with tlb := tlbInsert e c.tlb }).serveNext core ch)
    | (s, none) =>
      match (s.tile core).core.queues[ch] with
      | id :: _ => match s.req? id with
        | some r =>
          if r.part = part ∧ r.va = va then .next (((s.modCore core fun c => c.pop ch).failReq r 0).serveNext core ch) else .next s
        | none => .next s
      | [] => .next s

/-- SHOOTDOWN (R334): every entry of the range that nothing pins is dropped, and the walk caches with them; it goes on until no pinned one
is left. -/
def execShootdown (part : Nat) (address : BitVec 48) (length : Nat) (s : State) : Out :=
  let hit (e : TlbEntry) : Bool := e.part == part && meets e.base e.size address.toNat length
  let drop (c : CoreUnit) : CoreUnit :=
    { c with tlb := c.tlb.filter fun e => !(hit e && e.pins == 0), walkCache := c.walkCache.filter fun c => c.1 != part }
  let fix (x : Nat × Tile) : Nat × Tile := if isCore x.1 then (x.1, { x.2 with core := drop x.2.core }) else x
  let s : State := { s with tiles := s.tiles.map fix }
  .next (if s.tiles.any fun x => isCore x.1 && x.2.core.tlb.any hit then s.soon (.shootdown part address length) else s)

/-- SERVICE_REQUEST (R335): the record enters the core's inbox of 64, and the PUT completes; with a full inbox it waits in order. -/
def execServiceRequest (request : Nat) (s : State) : Out :=
  match s.req? request with
  | none => .next s
  | some r =>
    let core := servingCore r.va
    let c := (s.tile core).core
    let first := match c.waitingService with | [] => true | q :: _ => q == request
    if c.inbox.length < 64 ∧ first = true then
      match c.tlb.find? (fun e => e.hits r.part r.va), r.kind with
      | some e, .write d _ =>
        let h := (((s.part? r.part).map Partition.services).getD []).find? fun x => x.1 == pteSvc e.pte
        let l := s.launch? r.ctxnum
        let t : TaskRec :=
          { hpc := (h.map fun x => x.2.entry).getD 0, ts := r.issuer.ts, src := r.issuer.src, poison := r.issuer.poison,
            launch := (l.map Launch.number).getD 0, part := BitVec.ofNat 6 r.part, ctxnum := r.ctxnum, arrived := s.now,
            chron := max s.chron r.issuer.chron, body := bodyOf [] ((natsFrom 0 8).map (payloadWord d)) }
        let s := s.modCore core fun c => { c with inbox := c.inbox ++ [t], waitingService := c.waitingService.filter fun q => q != request }
        let s := (s.unpinReq r).answer r 0
        let s := match (s.tile core).core.waitingService with | q :: _ => s.once (.serviceRequest q) | [] => s
        .next (s.offer core)
      | _, _ => .next s
    else if c.waitingService.contains request then .next s
    else .next (s.modCore core fun c => { c with waitingService := c.waitingService ++ [request] })

/-! ## Accumulating stores (R340 to R343) -/

/-- Adds f32 words to memory, rounded to nearest even (R341). -/
def foldWords (old add : List Byte) : List Byte :=
  let ws (bs : List Byte) : List Nat := (chunks 4 bs.length bs).map leNat
  (List.zipWith (fun x y => elemAdd .f32 .rne x y) (ws old) (ws add)).flatMap (leBytes 4)

/-- A held contribution: context, axis, line, slice, request. -/
abbrev Contribution := Nat × Nat × Nat × Nat × Nat

/-- Folds one line of a contribution, and answers its request when its last line has been folded (R341). A unit that holds a poisoned word adds
nothing, and its words are marked (R288, R466). -/
def State.foldLine (s : State) (core : Nat) (x : Contribution) : State :=
  let line := x.2.2.1
  let id := x.2.2.2.2
  match s.req? id with
  | none => s
  | some r =>
    let s := match r.kind, (s.tile core).core.tlb.find? (fun e => e.hits r.part (64 * line)) with
      | .acc d _ _ _ skip, some e =>
        let pa := e.pa (64 * line)
        let o := 64 * line - r.va
        let bad := wordsIn (skip ++ r.poison) o 64
        let was := s.poisonIn pa 64
        let s := (cleanRuns ((d.drop o).take 64) bad).foldl (fun (s : State) (y : Nat × List Byte) =>
          s.writePa (pa + y.1) (foldWords (Mem.readBytes s.mem (pa + y.1) y.2.length) y.2)) (s.opens core pa)
        s.poisonPa ((was ++ bad).map fun w => pa / 8 + w)
      | _, _ => s
    let s := s.modReq id fun r => { r with left := r.left - 1 }
    if 1 < r.left then s else (s.unpinReq r).answer r 0

/-- A round counter's line: context, axis, line. -/
abbrev RoundLine := Nat × Nat × Nat

def roundOf (x : Nat × Nat × Nat × Nat) : RoundLine := (x.1, x.2.1, x.2.2.1)

/-- NEXT of a line; a counter that is not kept is 0. -/
def nextOfLine (c : CoreUnit) (l : RoundLine) : Nat :=
  (((c.next ++ c.spillNext).find? fun x => roundOf x == l).map fun x => x.2.2.2).getD 0

/-- Sets NEXT of a line: a core keeps 4,096 counters, and the others stand in the spill area (R342). -/
def setNext (c : CoreUnit) (l : RoundLine) (v : Nat) : CoreUnit :=
  let drop (xs : List (Nat × Nat × Nat × Nat)) := xs.filter fun x => roundOf x != l
  let x := (l.1, l.2.1, l.2.2, v)
  if v = 0 then { c with next := drop c.next, spillNext := drop c.spillNext }
  else if c.spillNext.any (fun x => roundOf x == l) then { c with spillNext := x :: drop c.spillNext }
  else if c.next.any (fun x => roundOf x == l) || decide (c.next.length < 4096) then { c with next := x :: drop c.next }
  else { c with spillNext := x :: c.spillNext }

/-- Folds held contributions of a line while the next slice's is there (R341). -/
def State.foldHeld (s : State) (core : Nat) (l : RoundLine) (nsl : Nat) : Nat → State
  | 0 => s
  | n + 1 =>
    let c := (s.tile core).core
    let want := nextOfLine c l
    let is (x : Contribution) : Bool := (x.1, x.2.1, x.2.2.1) == l && x.2.2.2.1 == want
    match (c.held ++ c.spill).find? is with
    | none => s
    | some x =>
      let s := s.modCore core fun c =>
        setNext { c with held := c.held.erase x, spill := if c.held.contains x then c.spill else c.spill.erase x } l (if want + 1 = nsl then 0 else want + 1)
      (s.foldLine core x).foldHeld core l nsl n

/-- Entries of 64 bytes that the partition's accumulation spill area has (R342, R454). -/
def State.spillRoom (s : State) (part : Nat) : Nat := ((s.part? part).map fun p => p.areas.toNat % 2 ^ 32 * 2 ^ 14).getD 0

/-- Entries of it in use, by lines and round counters of all its cores. -/
def State.spillUsed (s : State) (part : Nat) : Nat :=
  ((s.tiles.filter fun x => isCore x.1).map fun x =>
    (x.2.core.spill.filter fun y => s.partOf y.1 == part).length + (x.2.core.spillNext.filter fun y => s.partOf y.1 == part).length).sum

/-- Holds one line of a contribution, or folds it at once where neither the core nor the spill area has room for it (R341, R342). -/
def State.holdLine (s : State) (core : Nat) (r : ExtReq) (axis slice nsl line : Nat) : State :=
  let c := (s.tile core).core
  let l : RoundLine := (r.ctxnum, axis, line)
  let x : Contribution := (r.ctxnum, axis, line, slice, r.id)
  let room := s.spillRoom r.part - s.spillUsed r.part
  let counter := if (c.next ++ c.spillNext).any (fun x => roundOf x == l) || decide (c.next.length < 4096) || nsl = 1 then 0 else 1
  let place := if c.held.length < 512 then 0 else 1
  if counter + place ≤ room then
    (s.modCore core fun c => if place = 0 then { c with held := c.held ++ [x] } else { c with spill := c.spill ++ [x] }).foldHeld core l nsl
      (c.held.length + c.spill.length + 1)
  else (s.foldLine core x).report (.accspill r.ctxnum line)

/-- ACCUMULATING_CONTRIBUTION (R341): its core has taken it, and what it still waits for is the other slices. -/
def execAccumulatingContribution (request : Nat) (s : State) : Out :=
  match s.req? request with
  | none => .next s
  | some r => match r.kind with
    | .acc d slice axis nsl _ =>
      if r.accepted then .next s
      else
        let lines := linesOf r.va d.length
        let s := s.modReq request fun r => { r with accepted := true, left := lines.length }
        let s := lines.foldl (fun s line => s.holdLine (servingCore r.va) r axis slice nsl line) s
        .next (s.atCycle s.now (.releaseHoldEnd r.src))
    | _ => .next s

/-! ## Port shares (R344, R345) -/

/-- Flits of a partition in the buffer of a port and direction for flits without tokens (R344). -/
def State.portFlits (s : State) (port part : Nat) (up : Bool) : Nat :=
  ((s.packets.filter fun p => p.at_ == port && p.inPort == 9 && p.part == part && p.upward == up).map Packet.charged).sum

/-- Whether the buffer has room for a packet's charged flits. -/
def State.portRoom (s : State) (p : Packet) (port : Nat) : Bool := decide (s.portFlits port p.part p.upward + p.charged ≤ 64)

/-- Charged flits that a tile holds back for a port whose buffer is full (R344). -/
def State.heldForPort (s : State) (p : Packet) : Bool := p.inPort == 7 && p.dkind == 1 && decide (0 < p.charged) && !s.portRoom p p.dtile

/-- Whether a packet's charged flits wait at a port in a direction: in its buffer or held for it. -/
def State.waitsAt (s : State) (p : Packet) (port : Nat) (up : Bool) : Bool :=
  p.upward == up && decide (0 < p.charged ∧ p.since ≤ s.now) &&
    (p.at_ == port && (p.inPort == 8 || p.inPort == 9 || (p.dkind == 1 && p.dtile == port)) || (p.dtile == port && s.heldForPort p))

/-- Partitions with a charged flit that waits at a port in a direction. -/
def State.activeAt (s : State) (port : Nat) (up : Bool) : List Nat :=
  (natsFrom 0 64).filter fun p => s.packets.any fun x => x.part == p && s.waitsAt x port up

def shareOf (s : State) (p : Nat) : Nat := (lookup p s.stew.share).getD 0

/-- The grants of a window at one port and direction (R345). -/
def State.grants (s : State) (active : List Nat) : List (Nat × Nat) :=
  let own (p : Nat) : Nat := 4096 * shareOf s p / 100
  let pool := 4096 - (active.map own).sum
  let shares := (active.map (shareOf s)).sum
  let base := active.map fun p => (p, own p + if shares = 0 then pool / active.length else pool * shareOf s p / shares)
  let given := (base.map Prod.snd).sum
  match base with
  | (p, g) :: rest => (p, g + (4096 - given)) :: rest
  | [] => []

/-- TOKEN_REFILL (R345): the window's boundary, at every up-port. -/
def execTokenRefill (s : State) : Out :=
  let ports := (s.packets.flatMap fun p => [p.at_, p.dtile]).eraseDups.filter fun n => tileZ n == 0
  let old := s.tiles.map Prod.fst
  .next ((ports ++ old.filter fun n => !isCore n && tileZ n == 0 && !(ports.contains n)).foldl (fun s n =>
    let dir (up : Bool) : List (Nat × Nat × Nat) := (s.grants (s.activeAt n up)).map fun (p, g) => (2 * p + if up then 1 else 0, g, g)
    s.modTile n fun t => { t with router := { t.router with buckets := dir false ++ dir true } }) s)

/-- SHARE_TABLE_WRITE (R344). -/
def execShareTableWrite (part : Nat) (value : BitVec 8) (s : State) : Out :=
  .next { s with stew := { s.stew with share := insertAt part (min (value.toNat % 128) 100) s.stew.share } }

end Sys2Proof.Machine
end

