-- ==== Sys2Proof/Machine/Engine.lean ====
section
/-!
DEFINITION. Engines and their commands (R215 to R221, R466), rings (R222, R223), the copy engine (R218), and the address generator of a memory
core (R337, R338).
-/
namespace Sys2Proof.Machine

/-! ## Fields of a command record -/

/-- A barrier field of 4 bytes: a slice offset that is a multiple of 16. -/
def barField (x : Nat) : Bool := decide (x < 2 ^ 17 ∧ x % 16 = 0)

/-- The barrier of a barrier word: none for [63] = 1 (R225). -/
def barWord (b : Word) : Option Nat := if b = 2 ^ 63 then none else some b.toNat

/-- Whether a barrier word keeps its layout (R225). -/
def barWordOk (b : Word) : Bool := b == 2 ^ 63 || barField b.toNat

/-- The copy command record (R218). -/
structure Copy where
  op : Nat
  lb : Bool
  rb : Bool
  src : Word
  dst : Word
  len : Nat
  lbar : Nat
  rbar : Nat
  slice : Nat
  axis : Nat
  deriving DecidableEq, Repr

def Copy.ofBytes (bs : List Byte) : Copy :=
  { op := fieldAt bs 0 1, lb := (fieldAt bs 1 1).testBit 0, rb := (fieldAt bs 1 1).testBit 1, src := wordAt bs 8, dst := wordAt bs 0x10,
    len := fieldAt bs 0x18 4, lbar := fieldAt bs 0x20 4, rbar := fieldAt bs 0x24 4, slice := fieldAt bs 0x28 4 % 4096,
    axis := fieldAt bs 0x28 4 / 2 ^ 16 % 4 }

/-- The slot and the byte offset that a slot word names (R218 OP 1, R225). -/
def slotOf (d : Word) : Nat := d.toNat % 16
def slotOff (d : Word) : Nat := d.toNat / 2 ^ 16 % 4096

/-- A slot word's layout and limit (R218). -/
def slotWordOk (d : Word) (len : Nat) : Bool :=
  decide (d.toNat = slotOff d * 2 ^ 16 + slotOf d ∧ slotOff d % 16 = 0 ∧ slotOff d + len ≤ 4096)

/-- The structure of a copy record (R217, R218, R340). -/
def copyStructure (l : Launch) (bs : List Byte) : Bool :=
  let c := Copy.ofBytes bs
  let accw := fieldAt bs 0x28 4
  decide (c.op < 4 ∧ fieldAt bs 1 1 < 4 ∧ 16 ≤ c.len ∧ c.len ≤ 2 ^ 24 ∧ c.len % 16 = 0) &&
  zerosAt bs 2 6 && zerosAt bs 0x1c 4 && zerosAt bs 0x2c 20 && barField c.lbar && barField c.rbar &&
  (if c.op = 2 then
    accw == c.axis * 2 ^ 16 + c.slice && winOf c.dst == 4 && decide (offOf c.dst % 64 = 0 ∧ c.len % 64 = 0 ∧ c.slice < l.sliceCount c.axis)
  else accw == 0) &&
  (c.op != 1 || slotWordOk c.dst c.len) &&
  (!c.rb || (c.op != 1 && [1, 2, 3, 5].contains (winOf c.dst)))

/-- The collective command record (R219). -/
structure Coll where
  op : Nat
  etype : Nat
  srck : Nat
  lb : Bool
  all : Bool
  slice : Nat
  axis : Nat
  nsl : Nat
  root : Nat
  src : Nat
  dst : Nat
  len : Nat
  lbar : Nat
  rbar : Nat
  deriving DecidableEq, Repr

def Coll.ofBytes (bs : List Byte) : Coll :=
  let line := fieldAt bs 8 8
  { op := fieldAt bs 0 1, etype := fieldAt bs 1 1, srck := fieldAt bs 2 1, lb := (fieldAt bs 3 1).testBit 0, all := (fieldAt bs 3 1).testBit 1,
    slice := line % 4096, axis := line / 2 ^ 12 % 4, nsl := line / 2 ^ 16 % 2 ^ 13, root := line / 2 ^ 32 % 16, src := fieldAt bs 0x10 4,
    dst := fieldAt bs 0x14 4, len := fieldAt bs 0x18 4, lbar := fieldAt bs 0x1c 4, rbar := fieldAt bs 0x20 4 }

/-- The extent of a field along an axis. -/
def Launch.extent (l : Launch) (axis : Nat) : Nat := match axis with | 0 => l.ext.1 | 1 => l.ext.2.1 | _ => l.ext.2.2

/-- The structure of a collective record (R217, R219, R374). -/
def collStructure (l : Launch) (holdsMx : Bool) (accWidth : Nat) (bs : List Byte) : Bool :=
  let c := Coll.ofBytes bs
  let line := fieldAt bs 8 8
  decide (c.op < 4 ∧ c.etype ≤ 8 ∧ c.srck < 3 ∧ fieldAt bs 3 1 < 4 ∧ c.axis < 3 ∧ 1 ≤ c.nsl ∧ c.nsl ≤ 4096 ∧ c.slice < c.nsl ∧
    c.root < l.extent c.axis ∧ 256 ≤ c.len ∧ c.len ≤ 16384 ∧ c.len % 256 = 0) &&
  line == c.slice + c.axis * 2 ^ 12 + c.nsl * 2 ^ 16 + c.root * 2 ^ 32 && zerosAt bs 4 4 && zerosAt bs 0x24 28 && barField c.lbar &&
  barField c.rbar && decide (c.src < 2 ^ 17 ∧ c.dst < 2 ^ 17) &&
  (if c.srck = 0 then true else c.src == 0 && holdsMx && (EType.ofCode c.etype).width == accWidth) &&
  (c.op != 3 || (c.nsl == 1 && c.slice == 0))

/-- The consolidator command record (R221). -/
structure Cons where
  op : Nat
  lb : Bool
  src : Nat
  nrec : Nat
  dst : Nat
  cap : Nat
  res : Nat
  lbar : Nat
  deriving DecidableEq, Repr

def Cons.ofBytes (bs : List Byte) : Cons :=
  { op := fieldAt bs 0 1, lb := (fieldAt bs 1 1).testBit 0, src := fieldAt bs 8 4, nrec := fieldAt bs 0xc 4, dst := fieldAt bs 0x10 4,
    cap := fieldAt bs 0x14 4, res := fieldAt bs 0x18 4, lbar := fieldAt bs 0x1c 4 }

/-- The structure of a consolidator record (R217, R221). -/
def consStructure (bs : List Byte) : Bool :=
  let c := Cons.ofBytes bs
  decide (c.op < 3 ∧ fieldAt bs 1 1 < 2 ∧ c.src < 2 ^ 17 ∧ c.src % 32 = 0 ∧ 1 ≤ c.nrec ∧ c.nrec ≤ 4096 ∧ c.dst < 2 ^ 17 ∧ c.dst % 32 = 0 ∧
    c.res < 2 ^ 17 ∧ c.res % 8 = 0) && zerosAt bs 2 6 && zerosAt bs 0x20 32 && barField c.lbar &&
  (if c.op = 2 then c.cap == 0 else decide (1 ≤ c.cap ∧ c.cap ≤ 4096))

/-- The layout command record of a memory core (R337). -/
structure Layout where
  op : Nat
  esl : Nat
  lb : Bool
  rb : Bool
  base : Word
  stride : List Int
  extent : List Nat
  dense : Word
  lbar : Nat
  rbar : Nat
  deriving DecidableEq, Repr

def Layout.ofBytes (bs : List Byte) : Layout :=
  { op := fieldAt bs 0 1, esl := fieldAt bs 1 1, lb := (fieldAt bs 2 1).testBit 0, rb := (fieldAt bs 2 1).testBit 1, base := wordAt bs 8,
    stride := (natsFrom 0 4).map fun i => toInt true 32 (fieldAt bs (0x10 + 4 * i) 4),
    extent := (natsFrom 0 4).map fun i => fieldAt bs (0x20 + 2 * i) 2, dense := wordAt bs 0x28, lbar := fieldAt bs 0x30 4,
    rbar := fieldAt bs 0x34 4 }

def Layout.count (y : Layout) : Nat := y.extent.foldl (· * ·) 1
def Layout.size (y : Layout) : Nat := 2 ^ y.esl

/-- The structure of a layout record (R217, R337). -/
def layoutStructure (bs : List Byte) : Bool :=
  let y := Layout.ofBytes bs
  decide (y.op < 2 ∧ 2 ≤ y.esl ∧ y.esl ≤ 8 ∧ fieldAt bs 2 1 < 4 ∧ y.count * y.size ≤ 2 ^ 24) && y.extent.all (fun e => decide (1 ≤ e)) &&
  zerosAt bs 3 5 && zerosAt bs 0x38 8 && barField y.lbar && barField y.rbar && winOf y.base == 4 && [1, 3, 4].contains (winOf y.dense) &&
  (!y.rb || winOf y.dense == 3)

/-! ## Queues (R215, R216) -/

/-- An operation that has not left its engine's queue. -/
def EngineOp.waiting (o : EngineOp) : Bool := match o.stage with | .held => true | .queued => true | .running .. => false

/-- Entries of an engine's queue in use: commands of a buffer count (R215, R216). -/
def Tile.engineUsed (t : Tile) (eng : Nat) : Nat := (t.ops.filter fun o => o.eng == eng && o.waiting).length

/-- A full queue traps with RINGOVER (R215). -/
def View.roomIn (v : View) (eng : Nat) : Ex Unit :=
  if 8 ≤ v.tile.engineUsed eng then trapWith Cause.ringover (BitVec.ofNat 64 eng) else .ok ()

/-- A command of a berth goes to its engine once the hold of the berth's last release is over, behind what the berth has released (R216, R309). -/
def State.sendCommand (s : State) (iss : Issuer) (eng id : Nat) : State :=
  let hold := (s.berth iss.tile iss.berth).holdUntil
  if (s.tile iss.tile).held.any (fun h => h.issuer.berth == iss.berth && h.items.any Item.isNear) || decide (s.chron < hold) then
    (s.modTile iss.tile fun t =>
      { t with held := t.held ++ [{ issuer := iss, release := hold, after := false, items := [.command eng id] }] }).armRelease iss.tile
  else s.leave iss (.command eng id)

/-- An accumulator's shadow is copied as soon as the tile allows, whenever the command itself reaches its engine (R375). -/
def State.shadowSoon (s : State) (n eng id : Nat) : State := if eng = 2 then s.once (.accumulatorShadowCopy n id) else s

/-- The commit buffer of a berth takes two speculative commands; a third waits (R78). -/
def View.commitRoom (v : View) : Ex Unit := waitUntil (decide ((v.ctx.deferred.flatMap Deferred.commands).length < 2))

/-- Accepts an operation (R216): it goes to its engine at once for a FREE task, at the commit for another, and a speculative one waits in the
commit buffer for the branch (R78). -/
def View.accept (v : View) (eng : Nat) (kind : OpKind) (pins : List Nat) : View :=
  let id := v.tile.nextOp
  let op : EngineOp :=
    { id := id, eng := eng, kind := kind, stage := .held, issuer := v.issuer, order := v.s.nextId, pins := pins, checked := v.ordered,
      left := v.tile.mx.nextId }
  let v1 : View := { v with s := { v.s with nextId := v.s.nextId + 1 } }
  let v1 := v1.modTile fun t => { t with ops := t.ops ++ [op], nextOp := id + 1 }
  let v1 := if v.ordered then v1.modCtx fun c => { c with buf := c.buf ++ [.command eng id] } else v1
  if v.specOpen then v1.modCtx fun c => { c with deferred := c.deferred ++ [.command eng id] }
  else if v.ordered then { v1 with s := v1.s.shadowSoon v.s.cur.tile eng id }
  else { v1 with s := v1.s.sendCommand v.issuer eng id }

def State.op? (s : State) (n id : Nat) : Option EngineOp := (s.tile n).ops.find? fun o => o.id == id
def State.modOp (s : State) (n id : Nat) (f : EngineOp → EngineOp) : State :=
  s.modTile n fun t => { t with ops := t.ops.map fun o => if o.id = id then f o else o }

/-! ## Window checks and translation of a command (R175, R217, R333) -/

/-- The number that near pointers of an agent carry for a launch. -/
def State.nearTag (s : State) (agent ctxnum : Nat) : Nat :=
  if isCore agent then agent - 4096 else ((s.launch? ctxnum).bind fun l => l.virtual? agent).getD 0xfff

/-- The place of a pointer in windows 0x1 to 0x5 for an engine of an agent. -/
def State.enginePlace (s : State) (agent ctxnum : Nat) (p : Word) (len : Nat) : Option Place :=
  if winOf p = 1 then
    let tag := s.nearTag agent ctxnum
    if tagOf p = tag ∧ s.namesNone ctxnum tag = false ∧ midZero p = true ∧ offOf p + len ≤ s.sliceLimit agent then some (.slice agent (offOf p)) else none
  else s.place agent ctxnum p len

/-- One end of a command: pointer, bytes, alignment, use. -/
abbrev End := Word × Nat × Nat × PageUse

/-- Checks the ends in order and pins their translations: the first failure, or the granules pinned. -/
def State.checkEnds (s : State) (agent ctxnum : Nat) : List End → Except (Nat × Word) (State × List Nat)
  | [] => .ok (s, [])
  | (p, len, align, use) :: es =>
    match s.enginePlace agent ctxnum p len with
    | none => .error (Cause.window, p)
    | some pl =>
      if (p.extractLsb' 0 48).toNat % align ≠ 0 then .error (Cause.window, p)
      else match pl with
        | .ext va =>
          let part := s.partOf ctxnum
          match s.probe part use (granules va len) with
          | none => .error (Cause.translate, p)
          | some s =>
            let vas := (granules va len).map Prod.fst
            match (vas.foldl (fun s a => s.pin part a true) s).checkEnds agent ctxnum es with
            | .ok (s, l) => .ok (s, vas ++ l)
            | .error e => .error e
        | _ => s.checkEnds agent ctxnum es

/-- The ends of a copy (R218). -/
def Copy.ends (c : Copy) : List End :=
  (if c.op = 3 then [] else [(c.src, c.len, 16, .read)]) ++ (if c.op = 1 then [] else [(c.dst, c.len, 16, .write)])

/-- The byte address of element e of the affine side (R338). -/
def Layout.affine (y : Layout) (e : Nat) : Int :=
  let d := y.extent
  let i0 := e % d.getD 0 1
  let i1 := e / d.getD 0 1 % d.getD 1 1
  let i2 := e / (d.getD 0 1 * d.getD 1 1) % d.getD 2 1
  let i3 := e / (d.getD 0 1 * d.getD 1 1 * d.getD 2 1)
  Int.ofNat (y.base.extractLsb' 0 48).toNat + Int.ofNat i0 * y.stride.getD 0 0 + Int.ofNat i1 * y.stride.getD 1 0 +
    Int.ofNat i2 * y.stride.getD 2 0 + Int.ofNat i3 * y.stride.getD 3 0

/-- The ends of a layout command: every element of the affine side, which must stay in the 48-bit field, and the dense run. -/
def Layout.ends (y : Layout) : Option (List End) :=
  let offs := (natsFrom 0 y.count).map y.affine
  if offs.all fun o => decide (0 ≤ o ∧ o + Int.ofNat y.size ≤ 2 ^ 48) then
    some ((y.base, 0, y.size, .read) :: offs.map (fun o => (BitVec.ofNat 64 (2 ^ 62 + o.toNat), y.size, 1, if y.op = 0 then .read else .write)) ++
      [(y.dense, y.count * y.size, y.size, if y.op = 0 then .write else .read)])
  else none

/-- The ends that a command record or a ring operation checks (R217): none where an element leaves the address field. `tag` is that of the
agent's near pointers. -/
def OpKind.ends (k : OpKind) (eng : Nat) (core : Bool) (tag ringBytes : Nat) : Option (List End) :=
  let near (off len : Nat) (use : PageUse) : End := (nearPtr tag off, len, 1, use)
  match k with
  | .record bs => match eng with
    | 0 => if core then (Layout.ofBytes bs).ends else some (Copy.ofBytes bs).ends
    | 2 => let c := Coll.ofBytes bs; some ((if c.srck = 0 then [near c.src c.len .read] else []) ++ [near c.dst c.len .write])
    | _ =>
      let c := Cons.ofBytes bs
      some ([near c.src (32 * c.nrec) .read, near c.dst (if c.op = 2 then 32 else 32 * c.cap) .write, near c.res 8 .write])
  | .eop fn a _ map _ bs =>
    if eng = 2 then let c := Coll.ofBytes bs; some [near c.dst c.len .write]
    else if eng ≠ 0 then some []
    else match fn with
      | 0 => some [(a, ringBytes, 16, if map.getLsbD 12 then .write else .read)]
      | 2 => some [(a, ringBytes, 64, .write)]
      | _ => some []
  | .ringMove .. => some []

/-- The pointer that a failure outside the address field reports. -/
def OpKind.basePtr (k : OpKind) : Word := match k with | .record bs => wordAt bs 8 | .eop _ a _ _ _ _ => a | .ringMove .. => 0

def State.checkOp (s : State) (agent ctxnum : Nat) (k : OpKind) (eng ringBytes : Nat) : Except (Nat × Word) (State × List Nat) :=
  match k.ends eng (isCore agent) (s.nearTag agent ctxnum) ringBytes with
  | some es => s.checkEnds agent ctxnum es
  | none => .error (Cause.window, k.basePtr)

/-- Accepts a checked command: an ORDERED or DELTA task's windows and translations are checked here, and a failure becomes its pending
fault (R217). -/
def View.acceptChecked (v : View) (eng : Nat) (kind : OpKind) (ringBytes : Nat) : View :=
  if !v.ordered then v.accept eng kind []
  else match v.s.checkOp v.s.cur.tile v.ctx.ctxnum kind eng ringBytes with
    | .ok (s, pins) => ({ v with s := s } : View).accept eng kind pins
    | .error (cause, p) => ({ v with s := v.s.logWalk v.ctx.ctxnum cause p } : View).modCtx fun c => c.withFault v.s.nextId cause p

/-! ## CPUSH, ECFG and COLL (R215 to R221, R224, R326) -/

/-- Element width of the accumulators (R17, R26). -/
def View.accWidth (v : View) : Nat := if v.accmode.getLsbD 0 then 16 else 32

/-- An engine that the agent lacks (R326). -/
def View.hasEngine (v : View) (eng : Nat) : Ex Unit :=
  if isCore v.s.cur.tile && eng != 0 then trapWith Cause.illegal v.s.cur.illegalValue else .ok ()

/-- The near object that a record names first, for a task outside its field (R422). -/
def recordNear (eng : Nat) (bs : List Byte) : Option Nat :=
  match eng with
  | 0 =>
    let c := Copy.ofBytes bs
    let near (p : Word) (used : Bool) : Option Nat := if used ∧ winOf p = 1 then some (offOf p) else none
    ((near c.src (c.op != 3)).or (near c.dst (c.op != 1))).or (if c.lb then some c.lbar else none)
  | 2 => let c := Coll.ofBytes bs; some (if c.srck = 0 then c.src else c.dst)
  | _ => some (Cons.ofBytes bs).src

/-- Slots that the issuing berth has claimed (R238). -/
def View.claims (v : View) : BitVec 16 := if v.holdsMx then v.tile.mx.claims else 0

/-- The checks of a command record at acceptance (R217): its structure, an arrangement it names as the berth sees it (R267), a slot that is not
claimed, and R422. -/
def View.recordCheck (v : View) (eng : Nat) (bs : List Byte) : Ex Unit := do
  let head := wordAt bs 0
  let l := (v.s.launch? v.ctx.ctxnum).getD {}
  let ok := match eng with
    | 0 => if isCore v.s.cur.tile then layoutStructure bs else copyStructure l bs
    | 2 => collStructure l v.holdsMx v.accWidth bs
    | 4 => consStructure bs
    | _ => false
  if !ok then trapWith Cause.illegal head
  if eng = 4 ∧ (Cons.ofBytes bs).op = 2 ∧ (arrAt v.readNear (Cons.ofBytes bs).dst).isNone = true then
    trapWith Cause.illegal (BitVec.ofNat 64 (Cons.ofBytes bs).dst)
  if eng = 0 ∧ isCore v.s.cur.tile = false ∧ fieldAt bs 0 1 = 1 ∧ v.claims.getLsbD (slotOf (wordAt bs 0x10)) = false then
    trapWith Cause.regwin (BitVec.ofNat 64 (slotOf (wordAt bs 0x10)))
  match (if v.outsideField then recordNear eng bs else none) with
  | some off => trapWith Cause.window (nearPtr 0xfff off)
  | none => .ok ()

/-- A shadow that is occupied, or that a queued command names (R375). -/
def Tile.shadowUsed (t : Tile) (k : Nat) : Bool :=
  (t.coll.shadow[Fin.ofNat 2 k]).isSome || t.ops.any fun o => o.eng == 2 && o.waiting && match o.kind with
    | .record bs => (Coll.ofBytes bs).srck == k + 1
    | _ => false

/-- A collective command whose accumulator shadow is taken traps with RINGOVER (R375). -/
def View.shadowCheck (v : View) (eng : Nat) (bs : List Byte) : Ex Unit :=
  let k := (Coll.ofBytes bs).srck
  if eng = 2 ∧ k ≠ 0 ∧ v.tile.shadowUsed (k - 1) = true then trapWith Cause.ringover 2 else .ok ()

/-- CPUSH (R215, R217). -/
def commandPush (eng : Nat) (a : BitVec 7) (sc : BitVec 3) (v : View) : Ex View := do
  v.hasEngine eng
  let us : List Use := [⟨2, a, .octet false⟩]
  v.check us [] none
  v.acquired
  v.sliceFree
  let bs := (v.octet a).flatMap wordBytes
  if eng = 1 ∨ eng = 3 then trapWith Cause.illegal (wordAt bs 0)
  if 8 ≤ v.tile.engineUsed eng then .ok ((v.result 0 (.scalar 1) 1 {} false false).advance sc)
  else do
    v.recordCheck eng bs
    v.shadowCheck eng bs
    v.commitRoom
    .ok (((v.acceptChecked eng (.record bs) 0).result 0 (.scalar 0) 1 {} false false).advance sc)

/-- ECFG (R224, R251). -/
def engineConfig (eng : Nat) (fn : BitVec 3) (a : BitVec 7) (sc : BitVec 3) (v : View) : Ex View := do
  v.resolved
  v.hasEngine eng
  let us : List Use := [⟨2, a, .src false⟩]
  v.check us [] none
  if eng = 3 ∧ (v.tile.xu.holder.any fun h => h != v.s.cur.berth % 4) = true then trapWith Cause.regwin (BitVec.ofNat 64 fn.toNat)
  let x := v.scalar 2 a
  let e := Fin.ofNat 5 eng
  .ok (((v.touchSources us).modTile fun t => { t with eregs := t.eregs.set e ((t.eregs[e]).set (Fin.ofNat 8 fn.toNat) x) }).advance sc)

/-- COLL (R220). -/
def collective (fn : BitVec 3) (a b : BitVec 7) (sc : BitVec 3) (v : View) : Ex View := do
  if isCore v.s.cur.tile then trapWith Cause.illegal v.s.cur.illegalValue
  let us : List Use := [⟨2, a, .src false⟩, ⟨3, b, .src false⟩]
  v.check us [] none
  v.acquired
  v.sliceFree
  let off := v.scalar 3 b
  if off.toNat % 64 ≠ 0 ∨ v.s.sliceLimit v.s.cur.tile < off.toNat + 64 then trapWith Cause.illegal off
  if v.outsideField then trapWith Cause.window (nearPtr 0xfff off.toNat)
  v.roomIn 2
  let t := v.readReleased off.toNat 64
  let bs := [BitVec.ofNat 8 fn.toNat] ++ (t.drop 1).take 7 ++ wordBytes (v.scalar 2 a) ++ t.drop 16
  v.recordCheck 2 bs
  v.shadowCheck 2 bs
  v.commitRoom
  .ok (((v.touchSources us).acceptChecked 2 (.record bs) 0).advance sc)

/-! ## Rings (R222, R223) -/

/-- The ring map of engine register 0 (R224): ring and count of each that is used. -/
structure RingMap where
  in0 : Option (Nat × Nat)
  in1 : Option (Nat × Nat)
  out : Option (Nat × Nat)
  deriving DecidableEq, Repr

def RingMap.of (w : Word) : RingMap :=
  let x := w.toNat
  { in0 := if w.getLsbD 12 then some (x % 16, x / 2 ^ 32 % 256) else none,
    in1 := if w.getLsbD 13 then some (x / 16 % 16, x / 2 ^ 40 % 256) else none,
    out := if w.getLsbD 14 then some (x / 256 % 16, x / 2 ^ 48 % 256) else none }

def RingMap.used (m : RingMap) : List (Nat × Nat) := m.in0.toList ++ m.in1.toList ++ m.out.toList

def Tile.ring (t : Tile) (k : Nat) : Ring := t.rings[Fin.ofNat 16 k]
def Tile.setRing (t : Tile) (k : Nat) (r : Ring) : Tile := { t with rings := t.rings.set (Fin.ofNat 16 k) r }
def Ring.size (r : Ring) : Nat := 2 ^ r.lg
def Ring.room (r : Ring) : Nat := r.size - r.occ
/-- The slice offset of element k (R222). -/
def Ring.elem (r : Ring) (k : Nat) : Nat := r.base + k % r.size * 2 ^ r.esl

/-- The descriptor in 16 bytes, with PROD and CONS zero: none where it breaks R222. -/
def ringOf (bs : List Byte) (eng limit : Nat) : Option Ring :=
  let x := leNat bs
  let base := x % 2 ^ 17
  let lg := x / 2 ^ 32 % 256
  let esl := x / 2 ^ 40 % 256
  if x / 2 ^ 17 % 2 ^ 15 = 0 ∧ x / 2 ^ 48 % 2 ^ 16 = 0 ∧ base % 64 = 0 ∧ 1 ≤ lg ∧ lg ≤ 12 ∧ 3 ≤ esl ∧ esl ≤ 8 ∧ 2 ^ (lg + esl) ≤ 0x10000 ∧
     base + 2 ^ (lg + esl) ≤ limit then
    some { valid := true, eng := eng, base := base, lg := lg, esl := esl }
  else none

/-- The logical neighbours by trace links: +x, -x, +y and -y (R368). -/
def traceNeighbours (n : Nat) : List Nat :=
  [tileAt (tileX n + 1) (tileY n) (tileZ n), tileAt (tileX n + 15) (tileY n) (tileZ n), tileAt (tileX n) (tileY n + 1) (tileZ n),
   tileAt (tileX n) (tileY n + 15) (tileZ n)]

/-- The tile and the ring that a trace stream feeds (R369): none for any other operation. -/
def State.traceTarget (s : State) (n ctxnum : Nat) (a map : Word) : Option (Nat × Nat) :=
  let m := RingMap.of map
  if m.in0.isSome && m.in1.isNone && m.out.isNone && (winOf a == 2 || winOf a == 3) then
    match s.place n ctxnum a 1 with
    | some (.slice t off) =>
      if (traceNeighbours n).contains t then
        ((natsFrom 0 16).find? fun k => let r := (s.tile t).ring k
          r.valid && r.eng == 1 && r.base == off && (m.in0.map fun x => ((s.tile n).ring x.1).esl) == some r.esl).map fun k => (t, k)
      else none
    | _ => none
  else none

/-- The target of an operation that is a trace stream. -/
def State.streamOf (s : State) (n : Nat) (o : EngineOp) : Option (Nat × Nat) :=
  match o.kind with
  | .eop 0 a _ map _ _ => if o.eng = 0 then s.traceTarget n o.issuer.ctxnum a map else none
  | _ => none

/-- The rings of its own tile that an operation names. -/
def EngineOp.rings (o : EngineOp) : List Nat :=
  match o.kind with
  | .eop _ _ _ map _ _ => (RingMap.of map).used.map Prod.fst
  | .ringMove k _ _ => [k]
  | .record _ => []

/-- A queued or running operation names a ring: an operation of the tile, or a neighbour's trace stream (R223, R369). -/
def State.ringNamed (s : State) (n k : Nat) : Bool :=
  ((s.tile n).ops.any fun o => o.rings.contains k) ||
  (!isCore n && (traceNeighbours n).any fun m => (s.tile m).ops.any fun o => s.streamOf m o == some (n, k))

/-- Whether the rings of an operation hold their counts and have room (R225, R369). -/
def State.ringsReady (s : State) (n : Nat) (o : EngineOp) : Bool :=
  match o.kind with
  | .eop _ _ _ map _ _ =>
    let m := RingMap.of map
    let t := s.tile n
    (m.in0.toList ++ m.in1.toList).all (fun x => decide (x.2 ≤ (t.ring x.1).occ)) &&
    m.out.all (fun x => decide (x.2 ≤ (t.ring x.1).room)) &&
    match s.streamOf n o with
    | some (d, k) => m.in0.all fun x => decide (x.2 ≤ ((s.tile d).ring k).room)
    | none => true
  | _ => false

/-- Operations that may fire: taken, with ready rings, behind no earlier operation on one of their rings. -/
def State.firing (s : State) (n : Nat) : List EngineOp → List Nat → List EngineOp
  | [], _ => []
  | o :: os, busy =>
    match o.kind with
    | .eop .. =>
      if o.stage = .queued ∧ o.checked = true ∧ s.ringsReady n o = true ∧ (o.rings.any fun k => busy.contains k) = false then
        o :: s.firing n os (o.rings ++ busy)
      else if o.stage = .held then s.firing n os busy
      else s.firing n os (o.rings ++ busy)
    | _ => s.firing n os busy

/-- Announces the firings that a tile's rings now allow. -/
def State.kick (s : State) (n : Nat) : State :=
  (s.firing n (s.tile n).ops []).foldl (fun s o =>
    s.once (if (s.streamOf n o).isSome then .traceStreamFiring n o.id else .ringOperationFiring n o.id)) s

/-- A ring of a tile has moved: continuations, firings, and neighbours' streams look again (R211, R225, R369). -/
def State.ringsMoved (s : State) (n : Nat) : State :=
  let s := (s.wake n).kick n
  if isCore n then s else (traceNeighbours n).foldl (fun s m => s.kick m) s

/-- The operands of a ring instruction, and the ring's number (R223, R422). -/
def View.ringArg (v : View) (us : List Use) (a : BitVec 7) : Ex Nat := do
  v.check us [] none
  v.acquired
  let k := v.scalar 2 a
  if 16 ≤ k.toNat then trapWith Cause.illegal k
  .ok k.toNat

/-- A ring instruction outside the field (R422). -/
def View.ringNear (v : View) (off : Nat) : Ex Unit := if v.outsideField then trapWith Cause.window (nearPtr 0xfff off) else .ok ()

/-- A ring is set up (R223): PROD and CONS are 0. -/
def State.setUpRing (s : State) (n k : Nat) (r : Ring) : State := (s.modTile n fun t => t.setRing k r).wake n

/-- RINGI (R223): the descriptor is read as it stands at tile scope (R216). A speculative one sets the ring up when the branch has resolved
(R78). -/
def ringInit (eng : Nat) (a b : BitVec 7) (sc : BitVec 3) (v : View) : Ex View := do
  v.hasEngine eng
  let us : List Use := [⟨2, a, .src false⟩, ⟨3, b, .src false⟩]
  let k ← v.ringArg us a
  v.sliceFree
  let n := v.s.cur.tile
  let b := v.scalar 3 b
  if b.toNat % 16 ≠ 0 ∨ v.s.sliceLimit n < b.toNat + 16 then trapWith Cause.illegal b
  v.ringNear b.toNat
  match ringOf (v.readReleased b.toNat 16) eng (min (v.s.sliceLimit n) 0x20000) with
  | none => trapWith Cause.illegal b
  | some r =>
    if v.s.ringNamed n k then trapWith Cause.ringover (BitVec.ofNat 64 k)
    let v1 := v.touchSources us
    if v.specOpen then .ok ((v1.modCtx fun c => { c with deferred := c.deferred ++ [.ringInit k eng r.base r.lg r.esl] }).advance sc)
    else .ok (({ v1 with s := v1.s.setUpRing n k r } : View).advance sc)

/-- Elements that moves of a ring which have not been performed add or take: those of FREE tasks, and the task's own (R216). -/
def View.movesAhead (v : View) (k : Nat) (produce : Bool) : Nat :=
  (v.tile.ops.map fun o => match o.kind with
    | .ringMove j c p => if j = k ∧ p = produce ∧ (o.issuer.ordered = false ∨ o.issuer.same v.issuer = true) then c.toNat else 0
    | _ => 0).sum

/-- A pointer move performed now (R223). -/
def State.moveRing (s : State) (n k : Nat) (count : BitVec 32) (produce : Bool) : State :=
  (s.modTile n fun t =>
    let r := t.ring k
    t.setRing k (if produce then { r with prod := r.prod + count } else { r with cons := r.cons + count })).ringsMoved n

/-- The entry of a pointer move that waits. -/
def View.addMove (v : View) (eng k : Nat) (count : BitVec 32) (produce : Bool) : View :=
  let id := v.tile.nextOp
  v.modTile fun t => { t with nextOp := id + 1, ops := t.ops ++
    [{ id := id, eng := eng, kind := .ringMove k count produce, stage := .held, issuer := v.issuer, checked := true }] }

/-- A pointer move that waited is performed now. -/
def State.performMove (s : State) (n id : Nat) : State :=
  match (s.op? n id).map EngineOp.kind with
  | some (.ringMove k c p) => (s.modTile n fun t => { t with ops := t.ops.filter fun o => o.id != id }).moveRing n k c p
  | _ => s

/-- Writes of an issuer's closed units are not yet performed, so a RINGP's move still waits (R223, R305). -/
def State.moveWaits (s : State) (iss : Issuer) : Bool := s.notPerformed iss.tile iss.berth (s.berth iss.tile iss.berth).unit

/-- The move of entry `id` follows the writes that its RINGP has released. -/
def State.holdMove (s : State) (iss : Issuer) (eng id : Nat) : State :=
  s.modTile iss.tile fun t => { t with held := t.held ++ [{ issuer := iss, release := 0, after := true, items := [.command eng id] }] }

/-- A RINGP's segment is released, and the move of entry `id` follows the writes that it releases. -/
def State.releaseMove (s : State) (iss : Issuer) (items : List Item) (eng id : Nat) : State :=
  let s := s.commitUnit iss items 0
  if s.moveWaits iss then s.holdMove iss eng id else s.performMove iss.tile id

/-- The move of a RINGP whose segment `iss` has just closed: at once, or behind the writes that it released. -/
def View.produce (v : View) (iss : Issuer) (eng k : Nat) (count : BitVec 32) : View :=
  if v.s.moveWaits iss then
    let v1 := v.addMove eng k count true
    { v1 with s := v1.s.holdMove iss eng v.tile.nextOp }
  else { v with s := v.s.moveRing iss.tile k count true }

/-- RINGP (R223): the release first, then the move, which follows the writes it releases; under speculation both wait for the branch (R78). -/
def ringProduce (a b : BitVec 7) (sc : BitVec 3) (v : View) : Ex View := do
  let us : List Use := [⟨2, a, .src false⟩, ⟨3, b, .src false⟩]
  let k ← v.ringArg us a
  let r := v.tile.ring k
  let c := v.scalar 3 b
  v.ringNear r.base
  v.roomIn r.eng
  let v1 ← if v.ordered then .ok v else v.checkSegment
  if r.size < r.occ + v.movesAhead k true + c.toNat then trapWith Cause.ringover (BitVec.ofNat 64 k)
  v.commitRoom
  let v1 := v1.touchSources us
  let m := c.extractLsb' 0 32
  let id := v.tile.nextOp
  if v.ordered then .ok ((v1.accept r.eng (.ringMove k m true) []).advance sc)
  else if v.specOpen then
    .ok (((v1.addMove r.eng k m true).modCtx fun c => { c with buf := [], deferred := c.deferred ++ [.produce c.buf id] }).advance sc)
  else .ok ((v1.closeSegment 0).produce v1.issuer r.eng k m |>.advance sc)

/-- RINGC (R223); a speculative one moves the pointer when the branch has resolved (R78). -/
def ringConsume (a b : BitVec 7) (sc : BitVec 3) (v : View) : Ex View := do
  let us : List Use := [⟨2, a, .src false⟩, ⟨3, b, .src false⟩]
  let k ← v.ringArg us a
  v.loadsDone
  let r := v.tile.ring k
  let c := v.scalar 3 b
  v.ringNear r.base
  v.roomIn r.eng
  if r.occ < v.movesAhead k false + c.toNat then trapWith Cause.ringover (BitVec.ofNat 64 k)
  v.commitRoom
  let v1 := v.touchSources us
  let m := c.extractLsb' 0 32
  let id := v.tile.nextOp
  if v.ordered then .ok ((v1.accept r.eng (.ringMove k m false) []).advance sc)
  else if v.specOpen then .ok (((v1.addMove r.eng k m false).modCtx fun c => { c with deferred := c.deferred ++ [.consume id] }).advance sc)
  else .ok (({ v1 with s := v1.s.moveRing v.s.cur.tile k m false } : View).advance sc)

/-- RINGQ (R223). -/
def ringQuery (fn : BitVec 3) (a : BitVec 7) (sc : BitVec 3) (v : View) : Ex View := do
  let us : List Use := [⟨2, a, .src false⟩]
  let k ← v.ringArg us a
  let r := v.tile.ring k
  v.ringNear r.base
  let x : Nat := match fn.toNat with | 0 => r.occ | 1 => r.room | 2 => r.prod.toNat | _ => r.cons.toNat
  .ok (((v.touchSources us).result 0 (.scalar (BitVec.ofNat 64 x)) 4 (v.capture v.etype us none)).advance sc)

/-! ## Engine operations at acceptance (R225) -/

/-- The rings of an operation are set up, bound to ENG, with counts that fit, and the map keeps its layout. -/
def View.mapOk (v : View) (eng : Nat) (map : Word) : Bool :=
  map.extractLsb' 15 17 == 0 && map.extractLsb' 56 8 == 0 && (RingMap.of map).used.all fun (k, c) =>
    let r := v.tile.ring k
    r.valid && r.eng == eng && decide (1 ≤ c ∧ c ≤ r.size)

/-- Bytes that a use of a ring moves. -/
def Tile.useBytes (t : Tile) (u : Option (Nat × Nat)) : Nat := match u with | some (k, c) => c * 2 ^ (t.ring k).esl | none => 0

def Tile.useEsl (t : Tile) (u : Option (Nat × Nat)) : Nat := match u with | some (k, _) => (t.ring k).esl | none => 0

/-- What every EOP begins with: the operands, room, and the ring map of its engine (R215, R224, R225, R326, R422). -/
def View.eopStart (v : View) (eng : Nat) (a b : BitVec 7) : Ex (Word × RingMap) := do
  if isCore v.s.cur.tile then trapWith Cause.illegal v.s.cur.illegalValue
  v.check [⟨2, a, .src false⟩, ⟨3, b, .src false⟩] [] none
  v.acquired
  v.sliceFree
  v.commitRoom
  v.roomIn eng
  let map := (v.tile.eregs[Fin.ofNat 5 eng])[(0 : Fin 8)]
  if !v.mapOk eng map then trapWith Cause.illegal map
  match (if v.outsideField then (RingMap.of map).used.head? else none) with
  | some (k, _) => trapWith Cause.window (nearPtr 0xfff (v.tile.ring k).base)
  | none => .ok (map, RingMap.of map)

/-- An EOP's combination of rings, or ILLEGAL with engine register 0. -/
def needMap (map : Word) (ok : Bool) : Ex Unit := if ok then .ok () else trapWith Cause.illegal map
/-- A reserved bit or a limit of an operand, or ILLEGAL with that operand. -/
def needOperand (x : Word) (ok : Bool) : Ex Unit := if ok then .ok () else trapWith Cause.illegal x

def RingMap.inOnly (m : RingMap) : Bool := m.in0.isSome && m.in1.isNone && m.out.isNone
def RingMap.outOnly (m : RingMap) : Bool := m.in0.isNone && m.in1.isNone && m.out.isSome

/-- EOP, ENG 0, FN 0: a copy between a ring and a pointer, or a trace stream (R225, R369). -/
def eopCopy (a b : BitVec 7) (sc : BitVec 3) (v : View) : Ex View := do
  let (map, m) ← v.eopStart 0 a b
  let p := v.scalar 2 a
  let w := v.scalar 3 b
  needMap map (m.inOnly || m.outOnly)
  needOperand w (barWordOk w)
  if m.inOnly && (winOf p == 2 || winOf p == 3) && (v.s.traceTarget v.s.cur.tile v.ctx.ctxnum p map).isNone then trapWith Cause.illegal p
  let bytes := v.tile.useBytes (m.in0.or m.out)
  .ok (((v.touchSources [⟨2, a, .src false⟩, ⟨3, b, .src false⟩]).acceptChecked 0 (.eop 0 p w map v.ctx.cr []) bytes).advance sc)

/-- EOP, ENG 0, FN 1: ring elements into a slot that the berth has claimed (R217, R225). -/
def eopSlotFill (a b : BitVec 7) (sc : BitVec 3) (v : View) : Ex View := do
  let (map, m) ← v.eopStart 0 a b
  let p := v.scalar 2 a
  let w := v.scalar 3 b
  needMap map m.inOnly
  needOperand w (barWordOk w)
  needOperand p (slotWordOk p (v.tile.useBytes m.in0))
  if !v.claims.getLsbD (slotOf p) then trapWith Cause.regwin (BitVec.ofNat 64 (slotOf p))
  .ok (((v.touchSources [⟨2, a, .src false⟩, ⟨3, b, .src false⟩]).acceptChecked 0 (.eop 1 p w map v.ctx.cr []) 0).advance sc)

/-- EOP, ENG 0, FN 2: ring elements added to external memory (R225, R340). -/
def eopAccumulate (a b : BitVec 7) (sc : BitVec 3) (v : View) : Ex View := do
  let (map, m) ← v.eopStart 0 a b
  let p := v.scalar 2 a
  let w := v.scalar 3 b
  let l := (v.s.launch? v.ctx.ctxnum).getD {}
  needMap map m.inOnly
  needOperand w (w >>> 38 == 0 && decide (ctlBar w % 16 = 0) && winOf p == 4 && decide (offOf p % 64 = 0 ∧ 6 ≤ v.tile.useEsl m.in0 ∧
    ctlSlice w < l.sliceCount (ctlAxis w)))
  .ok (((v.touchSources [⟨2, a, .src false⟩, ⟨3, b, .src false⟩]).acceptChecked 0 (.eop 2 p w map v.ctx.cr []) (v.tile.useBytes m.in0)).advance sc)

/-- EOP, ENG 2: NIN0 elements are one slice's partial (R225). The command of R219 is built from the template here. -/
def eopCollective (a b : BitVec 7) (sc : BitVec 3) (v : View) : Ex View := do
  let (map, m) ← v.eopStart 2 a b
  let p := v.scalar 2 a
  let w := v.scalar 3 b
  needMap map m.inOnly
  needOperand p (decide (p.toNat < 4096))
  needOperand w (decide (w.toNat % 64 = 0 ∧ w.toNat + 64 ≤ v.s.sliceLimit v.s.cur.tile))
  let t := v.readReleased w.toNat 64
  needMap map (fieldAt t 0x18 4 == v.tile.useBytes m.in0)
  let line := BitVec.ofNat 64 (fieldAt t 8 8 / 4096 * 4096 + p.toNat)
  let bs := t.take 2 ++ [0] ++ (t.drop 3).take 5 ++ wordBytes line ++ leBytes 4 0 ++ t.drop 0x14
  v.recordCheck 2 bs
  .ok (((v.touchSources [⟨2, a, .src false⟩, ⟨3, b, .src false⟩]).acceptChecked 2 (.eop 0 p w map v.ctx.cr bs) 0).advance sc)

/-! ## The resolution of a branch (R77, R78, R144) -/

/-- What a speculative instruction left takes effect, in issue order, now that the branch has not been taken (R78). -/
def State.perform (s : State) (n b : Nat) (c : Ctx) : List Deferred → State × Ctx
  | [] => (s, c)
  | d :: ds =>
    let iss := issuerOf s n b c
    let (s, c) := match d with
      | .get p ctl row => s.sendGet iss c p ctl row
      | .prio chan base => (s.modTile n fun t => t.setPriority chan base, c)
      | .slice k => (s.modTile n fun t => { t with sliceHeld := max t.sliceHeld (s.now + k) }, c)
      | .command eng id => (if c.task.cls = 0 then s.sendCommand iss eng id else s.shadowSoon n eng id, c)
      | .consume id => (s.performMove n id, c)
      | .produce items id => (s.releaseMove iss items (((s.op? n id).map EngineOp.eng).getD 0) id, c)
      | .ringInit k eng base lg esl => (s.setUpRing n k { valid := true, eng := eng, base := base, lg := lg, esl := esl }, c)
    s.perform n b c ds

/-- What squashed instructions left is gone: their commands, the translations that a RINGP's checks pinned, and their messages' numbers. -/
def State.discard (s : State) (n b : Nat) (c checkpoint : Ctx) : State :=
  let s := (s.dropCommands n (c.deferred.flatMap Deferred.commands)).unpinItems n c.ctxnum (c.deferred.flatMap Deferred.items)
  let messages (k : Ctx) : Nat := ((k.deferred.flatMap Deferred.items ++ k.buf).filter Item.isMessage).length
  s.modBerth n b fun x => { x with seq := x.seq - BitVec.ofNat 16 (messages c - messages checkpoint) }

/-- BRANCH_RESOLVE (R77, R78, R144): a taken transfer squashes every speculative successor by putting back the context it kept, with PC at
the target; otherwise the successors stand, their read stamps are set, what they deferred takes effect, and a speculative YIELD too (R146). -/
def execBranchResolve (tile berth : Nat) (s : State) : Out :=
  let x := s.berth tile berth
  match x.spec with
  | none => .next s
  | some sp =>
    let s := s.modTile tile fun t => t.settleAcc berth sp.taken
    if sp.taken then
      let s := match x.ctx with | some c => s.discard tile berth c sp.checkpoint | none => s
      .next (s.modBerth tile berth fun x => { x with ctx := some sp.checkpoint, spec := none, latch := none, yieldHeld := false,
                                                     nextIssue := sp.nextIfTaken, readySince := sp.nextIfTaken })
    else
      match x.ctx with
      | none => .next (s.setBerth tile berth { x with spec := none, yieldHeld := false })
      | some c =>
        let s := (s.stampLines tile c c.stampsHeld).modBerth tile berth fun x =>
          { x with spec := none, yieldHeld := false, yielding := x.yielding || x.yieldHeld }
        let (s, c) := s.perform tile berth { c with stampsHeld := [], deferred := [] } c.deferred
        .next (s.setCtx tile berth c)

/-! ## The instructions -/

/-- CPUSH (R215, R217). -/
def execCpush (eng : BitVec 4) (a : BitVec 7) (sc : BitVec 3) (s : State) : Out := runView (commandPush eng.toNat a sc) s

/-- ECFG (R224, R251). -/
def execEcfg (eng : BitVec 4) (fn : BitVec 3) (a : BitVec 7) (sc : BitVec 3) (s : State) : Out := runView (engineConfig eng.toNat fn a sc) s

/-- EOP, ENG 0, FN 0 (R225, R369). -/
def execEopCopy (a : BitVec 7) (b : BitVec 7) (sc : BitVec 3) (s : State) : Out := runView (eopCopy a b sc) s

/-- EOP, ENG 0, FN 1 (R225). -/
def execEopSlotFill (a : BitVec 7) (b : BitVec 7) (sc : BitVec 3) (s : State) : Out := runView (eopSlotFill a b sc) s

/-- EOP, ENG 0, FN 2 (R225, R340). -/
def execEopAccumulatingStore (a : BitVec 7) (b : BitVec 7) (sc : BitVec 3) (s : State) : Out := runView (eopAccumulate a b sc) s

/-- EOP, ENG 2 (R225, R373). -/
def execEopCollectiveFold (a : BitVec 7) (b : BitVec 7) (sc : BitVec 3) (s : State) : Out := runView (eopCollective a b sc) s

/-- RINGI (R223). -/
def execRingi (eng : BitVec 4) (a : BitVec 7) (b : BitVec 7) (sc : BitVec 3) (s : State) : Out := runView (ringInit eng.toNat a b sc) s

/-- RINGP (R223). -/
def execRingp (a : BitVec 7) (b : BitVec 7) (sc : BitVec 3) (s : State) : Out := runView (ringProduce a b sc) s

/-- RINGC (R223). -/
def execRingc (a : BitVec 7) (b : BitVec 7) (sc : BitVec 3) (s : State) : Out := runView (ringConsume a b sc) s

/-- RINGQ (R223). -/
def execRingq (fn : BitVec 3) (a : BitVec 7) (sc : BitVec 3) (s : State) : Out := runView (ringQuery fn a sc) s

/-- COLL (R220). -/
def execColl (fn : BitVec 3) (a : BitVec 7) (b : BitVec 7) (sc : BitVec 3) (s : State) : Out := runView (collective fn a b sc) s

end Sys2Proof.Machine
end

