-- ==== Sys2Proof/Machine/Copy.lean ====
section
/-!
DEFINITION. How engines move bytes: copies, fills, slot fills and accumulating stores (R218, R328, R340), the layout commands of a memory core
(R338), late failures (R466) and the counting of a completed operation (R216, R218, R225).
-/
namespace Sys2Proof.Machine

/-! ## Late failures (R466, R288) -/

/-- Bytes 0 to 7 of a command; the ring map of an operation that has no record. -/
def OpKind.head (k : OpKind) : Word :=
  match k with
  | .record bs => wordAt bs 0
  | .eop _ _ _ map _ bs => if bs.isEmpty then map else wordAt bs 0
  | .ringMove .. => 0

/-- A failure after the checks: the pending fault of a running task, otherwise a report, and poison in the arrivals that follow. -/
def State.late (s : State) (n : Nat) (o : EngineOp) (cause : Nat) (value : Word) : State :=
  match s.task? o.issuer with
  | some _ => s.taskFault o.issuer o.order cause value
  | none => (s.modOp n o.id fun x => { x with failed := true, poison := true }).report (.late o.issuer.ctxnum n cause o.kind.head)

/-- An operation has met a poisoned word (R288). -/
def State.metPoison (s : State) (n : Nat) (o : EngineOp) (p : Word) : State :=
  (s.modOp n o.id fun x => { x with poison := true }).late n o Cause.poison p

/-- Lets go of an operation's pins. -/
def State.unpinOp (s : State) (n : Nat) (o : EngineOp) : State :=
  (o.pins.foldl (fun s va => s.pin (s.partOf o.issuer.ctxnum) va false) s).modOp n o.id fun x => { x with pins := [] }

/-! ## Where the bytes of a run come from and go to -/

/-- A place in the agent's own slice: an offset, or the elements of a ring from one on (R222). -/
inductive Spot where
  | at_ (off : Nat)
  | ring (r : Ring) (first : Nat)
  deriving DecidableEq, Repr

/-- The slice offset of a byte of the run. -/
def Spot.off (x : Spot) (pos : Nat) : Nat :=
  match x with
  | .at_ o => o + pos
  | .ring r first => r.elem (first + pos / 2 ^ r.esl) + pos % 2 ^ r.esl

/-- Where a run's bytes come from. -/
inductive Source where
  | here (x : Spot)
  | remote (p : Place)
  /-- The affine side of a layout command (R338). -/
  | elems (y : Layout)
  | fill (w : Word)
  deriving DecidableEq, Repr

/-- Where they go. -/
inductive Sink where
  | here (x : Spot)
  | slot (slot off : Nat)
  | remote (p : Place)
  | elems (y : Layout)
  /-- An accumulating store (R340): external address, SLICE and AXIS. -/
  | sum (va slice axis : Nat)
  deriving DecidableEq, Repr

/-- What an operation moves: its two ends, its bytes, and the pointer that a poisoned word reports. -/
structure Haul where
  src : Source
  dst : Sink
  len : Nat
  ptr : Word
  deriving DecidableEq, Repr

def Place.add (p : Place) (k : Nat) : Place :=
  match p with
  | .slice a o => .slice a (o + k)
  | .ext va => .ext (va + k)
  | .away d t o => .away d t (o + k)

/-- A unit in the agent's slice, read by 8-byte words, with its poisoned words. -/
def State.readSpot (s : State) (n : Nat) (x : Spot) (pos len : Nat) : List Byte × List Nat :=
  let ws := (natsFrom 0 ((len + 7) / 8)).map fun i => (i, x.off (pos + 8 * i), min 8 (len - 8 * i))
  (ws.flatMap fun w => s.readSlice n w.2.1 w.2.2, (ws.filter fun w => !(s.poisonIn (slicePa n w.2.1) w.2.2).isEmpty).map fun w => w.1)

/-- Bytes of a run from a local source, with their poisoned words. -/
def State.readUnit (s : State) (n : Nat) (x : Source) (pos len : Nat) : List Byte × List Nat :=
  match x with
  | .here x => s.readSpot n x pos len
  | .fill w => ((wordBytes w ++ wordBytes w).take len, [])
  | _ => ([], [])

/-- Writes bytes into operand memory (R237); a whole unit clears its poison. An
operation that runs on the slot keeps the unit as it stood (R241). -/
def MatrixUnit.putSlot (m : MatrixUnit) (addr : Nat) (bs : List Byte) (poison : Bool) : MatrixUnit :=
  let units := natsFrom (addr / 16) ((bs.length + 15) / 16)
  let kept := m.slotPoison.filter fun u => !(units.contains u)
  let keep (o : MxOp) : MxOp :=
    if o.doneAt.isNone then o
    else
      let new := units.filter fun u => o.slots.contains (u / 256) && (lookup u o.overwritten).isNone
      { o with overwritten := o.overwritten ++ new.map (fun u => (u, Mem.readBytes m.slots (16 * u) 16)) }
  { m with queue := m.queue.map keep, slots := Mem.writeBytes m.slots addr bs, slotPoison := if poison then kept ++ units else kept }

/-- Writes bytes into the agent's slice at a spot, by 8-byte words of a ring or in one piece. -/
def State.writeSpot (s : State) (iss : Issuer) (n : Nat) (x : Spot) (pos : Nat) (bs : List Byte) : State :=
  match x with
  | .at_ o => s.performWrite n (o + pos) bs iss
  | .ring .. => (natsFrom 0 ((bs.length + 7) / 8)).foldl (fun s i => s.performWrite n (x.off (pos + 8 * i)) ((bs.drop (8 * i)).take 8) iss) s

/-- Writes a part of a run to a local sink (R294). A 16-byte unit with a poisoned word is not moved: its words are marked at the destination
(R288, R466). -/
def State.writeUnits (s : State) (iss : Issuer) (n : Nat) (x : Sink) (pos : Nat) (bs : List Byte) (skip : List Nat) : State :=
  match x with
  | .here x =>
    let s := (cleanRuns bs skip).foldl (fun s r => s.writeSpot iss n x (pos + r.1) r.2) s
    s.poisonSlice n 0 (skip.map fun w => x.off (pos + 8 * w) / 8)
  | .slot k off => s.modTile n fun t =>
      let m := (cleanRuns bs skip).foldl (fun m r => m.putSlot (4096 * k + off + pos + r.1) r.2 false) t.mx
      let mark (m : MatrixUnit) (u : Nat) : MatrixUnit := m.putSlot (16 * u) (Mem.readBytes m.slots (16 * u) 16) true
      { t with mx := (skip.map fun w => (4096 * k + off + pos + 8 * w) / 16).foldl mark m }
  | _ => s

/-- Moves units in increasing address order, each read before it is written (R218); tells whether a poisoned word was met. -/
def moveUnits (iss : Issuer) (n : Nat) (src : Source) (dst : Sink) : Nat → Nat → Nat → State → State × Bool
  | 0, _, _, s => (s, false)
  | k + 1, pos, stop, s =>
    if stop ≤ pos then (s, false)
    else
      let len := min 16 (stop - pos)
      let (bs, ps) := s.readUnit n src pos len
      let (s, met) := moveUnits iss n src dst k (pos + len) stop (s.writeUnits iss n dst pos bs ps)
      (s, met || !ps.isEmpty)

/-- A run written wholly clears the poison of the lines that it covers (R288). -/
def State.clearRun (s : State) (n : Nat) (x : Sink) (len : Nat) : State :=
  match x with
  | .here (.at_ o) => { s with memPoison := clearPoison s.memPoison (slicePa n o) len }
  | _ => s

/-! ## Requests of a run (R218, R328, R338) -/

/-- Bytes up to the end of a request that starts at a place: external addresses are cut at their 1,024-byte boundaries. -/
def Place.room (p : Place) : Nat := match p with | .ext va => 1024 - va % 1024 | _ => 1024

/-- A copy within one slice of another tile whose destination lies ahead of its source, by how far: it must read what it has written. -/
def Haul.chases (h : Haul) : Option Nat :=
  match h.src, h.dst with
  | .remote (.slice a o), .remote (.slice b p) => if a = b ∧ o < p ∧ p < o + h.len then some (p - o) else none
  | .remote (.away d a o), .remote (.away e b p) => if d = e ∧ a = b ∧ o < p ∧ p < o + h.len then some (p - o) else none
  | _, _ => none

/-- Whole elements from `e` on, in order, that lie in one granule. -/
def Layout.joined (y : Layout) (g : Int) : Nat → Nat → List (Nat × Nat)
  | 0, _ => []
  | k + 1, e =>
    let va := y.affine e
    if e < y.count ∧ va / 256 = g ∧ va % 256 + y.size ≤ 256 then (va.toNat, y.size) :: y.joined g k (e + 1) else []

/-- The next request of the affine side from a byte of the run: the elements that lie in one granule together, at most 256 bytes of them, or the
part of an element that crosses granules. -/
def Layout.request (y : Layout) (pos : Nat) : List (Nat × Nat) :=
  let q := pos % y.size
  let va := y.affine (pos / y.size)
  let whole := if q = 0 then y.joined (va / 256) (256 / y.size) (pos / y.size) else []
  if whole.isEmpty then [((va.toNat + q), min (y.size - q) (256 - (va.toNat + q) % 256))] else whole

def partsLen (ps : List (Nat × Nat)) : Nat := (ps.map Prod.snd).sum

/-- Requests of an engine of an agent that have not been answered (R328). -/
def State.engineReqs (s : State) (n : Nat) : List ExtReq :=
  s.reqs.filter fun r => r.src == n && match (s.flight? r.flight).map Flight.kind with
    | some (.fetch ..) => true
    | some (.store ..) => true
    | some (.contrib ..) => true
    | _ => false

/-- An engine keeps at most 256 requests outstanding (R328). -/
def State.mayAsk (s : State) (n : Nat) (p : Place) (len : Nat) : Bool :=
  match p with
  | .ext va => decide ((s.engineReqs n).length + (granules va len).length ≤ 256)
  | _ => true

/-- The request of an operation that has landed and holds a byte of its run. -/
def State.landed (s : State) (n id pos : Nat) : Option Flight :=
  s.flights.find? fun f => f.issuer.tile == n && f.performed && match f.kind with
    | .fetch op p _ len => op == id && decide (p ≤ pos ∧ pos < p + len)
    | _ => false

/-- Sends a request made of parts of one granule, for a flight. -/
def State.sendParts (s : State) (iss : Issuer) (kind : FlightKind) (len : Nat) (ek : ExtKind) (va : Nat) : State :=
  let f : Flight := { id := s.nextId, kind := kind, issuer := iss, data := (natsFrom 0 len).map fun _ => 0, checked := true }
  ({ s with nextId := s.nextId + 1, flights := s.flights ++ [f] }).sendReq iss.tile va ek f.id 0 false iss

/-- Asks for the next bytes of a source: none where it must wait, or has asked for everything. -/
def State.askNext (s : State) (n : Nat) (o : EngineOp) (h : Haul) : Option State :=
  if h.len ≤ o.asked then none
  else match h.src with
    | .remote p =>
      let at_ := p.add o.asked
      let len := min (h.len - o.asked) (min at_.room ((h.chases).getD 1024))
      if !s.mayAsk n at_ len || (h.chases.isSome && (decide (o.put < o.asked) || !(s.opFlights n o.id).isEmpty)) then none
      else some ((s.sendTo o.issuer (.fetch o.id o.asked at_ len) at_ len).modOp n o.id fun o => { o with asked := o.asked + len })
    | .elems y =>
      let ps := y.request o.asked
      let va := (ps.headD (0, 0)).1
      if 256 ≤ (s.engineReqs n).length then none
      else some ((s.sendParts o.issuer (.fetch o.id o.asked (.ext va) (partsLen ps)) (partsLen ps) (.gather ps) va).modOp n o.id
        fun o => { o with asked := o.asked + partsLen ps })
    | _ => none

/-- Where a request carried its bytes ahead of itself within one request of an external copy, they are what it wrote (R218): the order of units
holds there. -/
def Haul.carry (h : Haul) (bs : List Byte) : List Byte :=
  match h.src, h.dst with
  | .remote (.ext a), .remote (.ext b) =>
    if a < b ∧ b < a + bs.length then (natsFrom 0 bs.length).map fun i => bs.getD (i % (b - a)) 0 else bs
  | _, _ => bs

/-- The poisoned words of a request's bytes likewise. -/
def Haul.carryPoison (h : Haul) (len : Nat) (ps : List Nat) : List Nat :=
  match h.src, h.dst with
  | .remote (.ext a), .remote (.ext b) =>
    if a < b ∧ b < a + len then (natsFrom 0 ((len + 7) / 8)).filter fun i => ps.contains (i % ((b - a) / 8)) else ps
  | _, _ => ps

/-- The bytes of a run at hand from a position on, at most `limit` of them, with their poisoned words: none while they have not landed. -/
def State.atHand (s : State) (n : Nat) (o : EngineOp) (h : Haul) (limit : Nat) : Option (List Byte × List Nat) :=
  match h.src with
  | .here _ => some (s.readUnit n h.src o.put (min limit (h.len - o.put)))
  | .fill w => some (((natsFrom 0 ((min limit (h.len - o.put) + 7) / 8)).flatMap fun _ => wordBytes w).take (min limit (h.len - o.put)), [])
  | _ => (s.landed n o.id o.put).map fun f =>
      let k := o.put - match f.kind with | .fetch _ p .. => p | _ => 0
      let bs := (h.carry f.data).drop k |>.take limit
      (bs, ((h.carryPoison f.data.length f.poison).filter fun w => decide (k ≤ 8 * w ∧ 8 * w < k + bs.length)).map fun w => w - k / 8)

/-- The request that has been used up is gone. -/
def State.dropLanded (s : State) (n id pos : Nat) : State :=
  { s with flights := s.flights.filter fun f => !(f.issuer.tile == n && f.performed && match f.kind with
      | .fetch op p _ len => op == id && decide (p + len ≤ pos)
      | _ => false) }

/-- A part of a run has gone to its sink. -/
def State.didPut (s : State) (n : Nat) (o : EngineOp) (h : Haul) (len : Nat) (met : Bool) : State :=
  let s := (s.modOp n o.id fun o => { o with put := o.put + len }).dropLanded n o.id (o.put + len)
  if met then s.metPoison n o h.ptr else s

/-- A store of the operation to the granule of an address is outstanding. -/
def State.storeOut (s : State) (n id va : Nat) : Bool :=
  (s.engineReqs n).any fun r => r.va / 256 == va / 256 && match (s.flight? r.flight).map Flight.kind with
    | some (.store op ..) => op == id
    | _ => false

/-- Sends the next bytes of a run on: none where they are not at hand, or must wait. -/
def State.putNext (s : State) (n : Nat) (o : EngineOp) (h : Haul) : Option State :=
  if h.len ≤ o.put then none
  else match h.dst with
    | .here x =>
      match h.src with
      | .here _ | .fill _ =>
        let (s, met) := moveUnits o.issuer n h.src h.dst (h.len / 16 + 1) 0 h.len s
        some ((if met then s else s.clearRun n h.dst h.len).didPut n o h h.len met)
      | _ => (s.atHand n o h 1024).map fun (bs, ps) => (s.writeUnits o.issuer n (.here x) o.put bs ps).didPut n o h bs.length (!ps.isEmpty)
    | .slot k off => (s.atHand n o h h.len).map fun (bs, ps) => (s.writeUnits o.issuer n (.slot k off) o.put bs ps).didPut n o h bs.length (!ps.isEmpty)
    | .remote p =>
      let at_ := p.add o.put
      (s.atHand n o h at_.room).bind fun (bs, ps) =>
        if !s.mayAsk n at_ bs.length then none
        else some ((s.sendTo o.issuer (.store o.id o.put at_ bs ps) at_ bs.length).didPut n o h bs.length (!ps.isEmpty))
    | .sum va slice axis =>
      let at_ := Place.ext (va + o.put)
      (s.atHand n o h at_.room).bind fun (bs, ps) =>
        if !s.mayAsk n at_ bs.length then none
        else some ((s.sendTo o.issuer (.contrib o.id o.put (va + o.put) bs slice axis ps) at_ bs.length).didPut n o h bs.length (!ps.isEmpty))
    | .elems y =>
      let ps := y.request o.put
      let va := (ps.headD (0, 0)).1
      (s.atHand n o h (partsLen ps)).bind fun (bs, bad) =>
        -- bytes at hand may end before the request does: then its first elements go alone
        let fits := (ps.foldl (fun (acc : Nat × List (Nat × Nat)) p =>
          (acc.1 + p.2, if acc.1 + p.2 ≤ bs.length then acc.2 ++ [(acc.1, p.1)] else acc.2)) (0, [])).2
        let used := partsLen (ps.take fits.length)
        if 256 ≤ (s.engineReqs n).length || s.storeOut n o.id va then none
        else
          let size (k : Nat) : Nat := ((ps.getD k (0, 0)).2)
          let parts := (natsFrom 0 fits.length).map fun k =>
            let e := fits.getD k (0, 0)
            (e.2, (bs.drop e.1).take (size k), bad.any fun w => decide (8 * w < e.1 + size k ∧ e.1 < 8 * w + 8))
          some ((s.sendParts o.issuer (.store o.id o.put (.ext va) [] []) 0 (.scatter parts) va).didPut n o h used (!bad.isEmpty))

/-- Cycles in which an engine moves bytes at 64 a cycle (R218). -/
def moveCycles (len : Nat) : Nat := (len + 63) / 64

/-- An operation's bytes have been moved; it completes after its cycles. -/
def State.moved (s : State) (n id len : Nat) (met : Bool) (p : Word) : State :=
  match s.op? n id with
  | none => s
  | some o =>
    let s := if met then s.metPoison n o p else s
    let s := s.unpinOp n o
    (s.modOp n id fun o => { o with stage := .running len (s.now + moveCycles len), counts := len }).atCycle (s.now + moveCycles len) (.engineOperationComplete n id)

/-- The rings of an operation that has moved its bytes move too (R225). -/
def State.pullRings (s : State) (n : Nat) (o : EngineOp) : State :=
  match o.kind with
  | .eop _ _ _ map _ _ =>
    let m := RingMap.of map
    let s := m.in0.elim s fun (k, c) => s.moveRing n k (BitVec.ofNat 32 c) false
    m.out.elim s fun (k, c) => s.moveRing n k (BitVec.ofNat 32 c) true
  | _ => s

/-- Everything that an operation has moved has been performed. -/
def State.haulDone (s : State) (n : Nat) (o : EngineOp) (h : Haul) : Bool := decide (h.len ≤ o.put) && (s.opFlights n o.id).isEmpty

/-- An operation goes on: it sends on what is at hand, asks for more, and ends once all has been performed. -/
def State.pump (s : State) (n id : Nat) (h : Haul) : Nat → State
  | 0 => s
  | k + 1 =>
    match s.op? n id with
    | none => s
    | some o =>
      match s.putNext n o h with
      | some s => s.pump n id h k
      | none =>
        match s.askNext n o h with
        | some s => s.pump n id h k
        | none => if s.haulDone n o h then (s.pullRings n o).moved n id h.len false h.ptr else s

/-- An engine access of the slice waits for a VSCT's hold (R182). -/
def Haul.nearEnd (h : Haul) : Bool :=
  (match h.src with | .here _ => true | _ => false) || (match h.dst with | .here _ => true | _ => false)

/-- An operation in progress takes its next steps. -/
def State.haul (s : State) (n : Nat) (o : EngineOp) (h : Haul) : State :=
  if h.nearEnd && decide (s.now < (s.tile n).sliceHeld) then s.atCycle (s.tile n).sliceHeld (o.event n)
  else (s.modOp n o.id fun o => { o with stage := .running 0 1, counts := h.len }).pump n o.id h (2 * h.len + 2)

/-! ## Copy commands (R218) -/

/-- A pointer as a source or a destination of an engine. -/
def State.sourceOf (s : State) (n ctxnum : Nat) (p : Word) (len : Nat) : Source :=
  match s.enginePlace n ctxnum p len with
  | some (.slice a off) => if a = n then .here (.at_ off) else .remote (.slice a off)
  | some pl => .remote pl
  | none => .fill 0

def State.sinkOf (s : State) (n ctxnum : Nat) (p : Word) (len : Nat) : Sink :=
  match s.enginePlace n ctxnum p len with
  | some (.slice a off) => if a = n then .here (.at_ off) else .remote (.slice a off)
  | some pl => .remote pl
  | none => .remote (.slice n 0)

/-- An operation in progress: taken and checked, and not yet moved. -/
def EngineOp.underWay (o : EngineOp) : Bool := match o.stage with | .running 0 _ => true | _ => false

/-- A copy command that the engine has taken and checked. -/
def State.takenCopy (s : State) (n id : Nat) (op : Nat) : Option (EngineOp × Copy) :=
  match s.op? n id with
  | some o => match o.kind with
    | .record bs =>
      let c := Copy.ofBytes bs
      if o.eng = 0 ∧ isCore n = false ∧ c.op = op ∧ o.underWay = true then some (o, c) else none
    | _ => none
  | none => none

/-- The run of a copy command. -/
def State.copyHaul (s : State) (n ctxnum : Nat) (c : Copy) : Haul :=
  { src := if c.op = 3 then .fill c.src else s.sourceOf n ctxnum c.src c.len,
    dst := match c.op with
      | 1 => .slot (slotOf c.dst) (slotOff c.dst)
      | 2 => .sum (c.dst.extractLsb' 0 48).toNat c.slice c.axis
      | _ => s.sinkOf n ctxnum c.dst c.len,
    len := c.len, ptr := c.src }

/-- What every copy command does next. -/
def copyStep (tile op code : Nat) (s : State) : Out :=
  match s.takenCopy tile op code with
  | none => .next s
  | some (o, c) => .next (s.haul tile o (s.copyHaul tile o.issuer.ctxnum c))

/-- COPY_COMMAND_COPY (R218). -/
def execCopyCommandCopy (tile op : Nat) (s : State) : Out := copyStep tile op 0 s

/-- COPY_COMMAND_SLOT_FILL (R218). -/
def execCopyCommandSlotFill (tile op : Nat) (s : State) : Out := copyStep tile op 1 s

/-- COPY_COMMAND_ACCUMULATING_STORE (R218, R340). -/
def execCopyCommandAccumulatingStore (tile op : Nat) (s : State) : Out := copyStep tile op 2 s

/-- COPY_COMMAND_FILL (R218). -/
def execCopyCommandFill (tile op : Nat) (s : State) : Out := copyStep tile op 3 s

/-! ## Layout commands (R338) -/

/-- The layout command of a memory core that its address generator has taken. -/
def State.takenLayout (s : State) (n id : Nat) (op : Nat) : Option (EngineOp × Layout) :=
  match s.op? n id with
  | some o => match o.kind with
    | .record bs => if o.eng = 0 ∧ isCore n = true ∧ (Layout.ofBytes bs).op = op ∧ o.underWay = true then some (o, Layout.ofBytes bs) else none
    | _ => none
  | none => none

/-- The run of a layout command: its elements in increasing number. -/
def State.layoutHaul (s : State) (n ctxnum : Nat) (y : Layout) : Haul :=
  let len := y.count * y.size
  if y.op = 0 then { src := .elems y, dst := s.sinkOf n ctxnum y.dense len, len := len, ptr := y.base }
  else { src := s.sourceOf n ctxnum y.dense len, dst := .elems y, len := len, ptr := y.dense }

def layoutStep (core op code : Nat) (s : State) : Out :=
  match s.takenLayout core op code with
  | none => .next s
  | some (o, y) => .next (s.haul core o (s.layoutHaul core o.issuer.ctxnum y))

/-- GATHER (R338). -/
def execGather (core op : Nat) (s : State) : Out := layoutStep core op 0 s

/-- SCATTER (R338). -/
def execScatter (core op : Nat) (s : State) : Out := layoutStep core op 1 s

/-! ## Ring operations of the copy engine (R225, R369) -/

/-- Bytes of the next elements of a ring, with their poisoned words. -/
def State.ringBytes (s : State) (n k count : Nat) : List Byte × List Nat :=
  let r := (s.tile n).ring k
  s.readSpot n (.ring r r.cons.toNat) 0 (count * 2 ^ r.esl)

/-- Puts bytes into the next elements of a ring and moves PROD. A unit with a poisoned word is marked and not moved. -/
def State.ringPut (s : State) (iss : Issuer) (n k : Nat) (bs : List Byte) (poison : List Nat) : State :=
  let r := (s.tile n).ring k
  (s.writeUnits iss n (.here (.ring r r.prod.toNat)) 0 bs poison).moveRing n k (BitVec.ofNat 32 (bs.length / 2 ^ r.esl)) true

/-- An operation whose rings are ready, at its firing. -/
def State.fires (s : State) (n id : Nat) : Option EngineOp := (s.firing n (s.tile n).ops []).find? fun o => o.id == id

/-- The near pointer of a ring's next element, which a poisoned element reports. -/
def State.ringPtr (s : State) (n ctxnum k : Nat) : Word :=
  let r := (s.tile n).ring k
  nearPtr (s.nearTag n ctxnum) (r.elem r.cons.toNat)

/-- The run of a ring operation of the copy engine (R225): elements move from the ring, or into it. -/
def State.ringHaul (s : State) (n ctxnum fn : Nat) (a w map : Word) : Option Haul :=
  let m := RingMap.of map
  match m.in0, m.out with
  | some (k, c), _ =>
    let r := (s.tile n).ring k
    let len := c * 2 ^ r.esl
    some { src := .here (.ring r r.cons.toNat), len := len, ptr := s.ringPtr n ctxnum k,
           dst := match fn with
             | 0 => s.sinkOf n ctxnum a len
             | 1 => .slot (slotOf a) (slotOff a)
             | _ => .sum (a.extractLsb' 0 48).toNat (ctlSlice w) (ctlAxis w) }
  | none, some (k, c) =>
    let r := (s.tile n).ring k
    let len := c * 2 ^ r.esl
    some { src := s.sourceOf n ctxnum a len, dst := .here (.ring r r.prod.toNat), len := len, ptr := a }
  | none, none => none

/-- The copy engine's firing, or its next step (R225). -/
def State.fireCopy (s : State) (n : Nat) (o : EngineOp) (fn : Nat) (a w map : Word) : State :=
  match s.ringHaul n o.issuer.ctxnum fn a w map with
  | some h => s.haul n o h
  | none => s

/-- Another stream into the same ring fires in this cycle and goes first, by the port order +x, -x, +y, -y of the target (R369). -/
def State.streamAhead (s : State) (n d k : Nat) : Bool :=
  ((traceNeighbours d).takeWhile fun m => m != n).any fun m => (s.firing m (s.tile m).ops []).any fun o => s.streamOf m o == some (d, k)

/-- TRACE_STREAM_FIRING (R369): the elements join the neighbour's ring, and the sender's are consumed. -/
def execTraceStreamFiring (tile op : Nat) (s : State) : Out :=
  match s.fires tile op with
  | none => .next s
  | some o =>
    match s.streamOf tile o, o.kind with
    | some (d, k), .eop _ _ _ map _ _ =>
      if s.streamAhead tile d k then .next (s.soon (.traceStreamFiring tile op))
      else match (RingMap.of map).in0 with
      | some (j, c) =>
        let (bs, ps) := s.ringBytes tile j c
        let p := s.ringPtr tile o.issuer.ctxnum j
        let s := s.modOp tile op fun x => { x with stage := .running 0 0 }
        let s := (s.ringPut o.issuer d k bs ps).moveRing tile j (BitVec.ofNat 32 c) false
        .next (s.moved tile op bs.length (!ps.isEmpty) p)
      | none => .next s
    | _, _ => .next s

/-! ## Completion (R216, R218, R225) -/

/-- The barriers an operation counts into at its end: agent, offset, bytes. -/
def State.countsOf (s : State) (n : Nat) (o : EngineOp) : List (Nat × Nat × Nat) :=
  match o.kind with
  | .record bs =>
    match o.eng with
    | 0 =>
      if isCore n then
        let y := Layout.ofBytes bs
        let len := y.count * y.size
        (if y.lb then [(n, y.lbar, len)] else []) ++
        (match y.rb, s.enginePlace n o.issuer.ctxnum y.dense len with | true, some (.slice a _) => [(a, y.rbar, len)] | _, _ => [])
      else
        let c := Copy.ofBytes bs
        (if c.lb then [(n, c.lbar, c.len)] else []) ++
        (match c.rb, s.enginePlace n o.issuer.ctxnum c.dst c.len with | true, some (.slice a _) => [(a, c.rbar, c.len)] | _, _ => [])
    | 4 => let c := Cons.ofBytes bs; if c.lb then [(n, c.lbar, 32 * c.nrec)] else []
    | _ => []
  | .eop fn _ w _ _ _ =>
    match o.eng with
    | 0 => if fn = 2 then [(n, ctlBar w, o.counts)] else ((barWord w).map fun b => (n, b, o.counts)).toList
    | 1 => if fn = 0 then (if w.getLsbD 63 then [] else [(n, (w.extractLsb' 36 17).toNat, o.counts)])
        else ((barWord w).map fun b => (n, b, o.counts)).toList
    | 2 => []
    | _ => ((barWord w).map fun b => (n, b, o.counts)).toList
  | .ringMove .. => []

/-- ENGINE_OPERATION_COMPLETE (R216, R218, R225): the barriers take the bytes, and the operation is gone. -/
def execEngineOperationComplete (tile op : Nat) (s : State) : Out :=
  match s.op? tile op with
  | none => .next s
  | some o =>
    match o.stage with
    | .running done ready =>
      if done = 0 || decide (s.now < ready) || !(s.opFlights tile op).isEmpty then .next s
      else
        let counts := s.countsOf tile o
        let s := s.modTile tile fun t => { t with ops := t.ops.filter fun x => x.id != op }
        .next ((counts.foldl (fun s c => s.arrive c.1 c.2.1 c.2.2 o.issuer o.poison) s).kick tile)
    | _ => .next s

end Sys2Proof.Machine
end

