-- ==== Sys2Proof/Machine/Collective.lean ====
section
/-!
DEFINITION. The collective engine (R373 to R381): the partial store and the shadows, announcements, rounds at their roots, and deliveries.
-/
namespace Sys2Proof.Machine

/-! ## Lines (R374) -/

/-- The coordinate along an axis. -/
def axisOf (c : Nat × Nat × Nat) (axis : Nat) : Nat := match axis with | 0 => c.1 | 1 => c.2.1 | _ => c.2.2

/-- The tiles of a tile's line along an axis, with their coordinates. -/
def State.lineOf (s : State) (ctxnum n axis : Nat) : List (Nat × Nat) :=
  match s.launch? ctxnum with
  | none => []
  | some l => match l.virtual? n with
    | none => []
    | some v =>
      let (x, y, z) := l.coords v
      (natsFrom 0 (l.extent axis)).map fun i =>
        let w := match axis with | 0 => l.virtualAt i y z | 1 => l.virtualAt x i z | _ => l.virtualAt x y i
        (i, l.physical w)

/-- The hitch position of a launch whose line along an axis is a hitch line (R430): four tiles, one on each package. -/
def State.hitchLine (s : State) (ctxnum axis : Nat) : Option Nat :=
  (s.launch? ctxnum).bind fun l => if l.extent axis = 1 then (s.part? l.part).bind Partition.hpos else none

/-- The root of a tile's line. -/
def State.rootOf (s : State) (ctxnum n axis root : Nat) : Option Nat :=
  ((s.lineOf ctxnum n axis).find? fun x => x.1 == root).map Prod.snd

/-- The collective command of an operation of engine 2. -/
def EngineOp.coll? (o : EngineOp) : Option Coll :=
  if o.eng = 2 then match o.kind with
    | .record bs => some (Coll.ofBytes bs)
    | .eop _ _ _ _ _ bs => some (Coll.ofBytes bs)
    | .ringMove .. => none
  else none

/-! ## The partial store (R373, R375) -/

/-- Bytes of the partial store in use: partials, what started rounds reserve, and what the commands that the engine has taken will copy. -/
def Tile.storeUsed (t : Tile) : Nat :=
  (t.coll.partials.map fun p => p.bytes.length).sum +
  ((t.coll.rounds.filter Round.started).map fun r => ((r.parts.head?.map fun p => (Coll.ofBytes p.2.2.2.1).len).getD 0)).sum +
  (t.ops.map fun o => match o.coll? with
    | some c => if o.stage = .running 0 0 ∧ c.srck = 0 ∧ (t.coll.partials.any fun p => p.op == o.id) = false then c.len else 0
    | none => 0).sum

def Tile.storeFits (t : Tile) (len : Nat) : Bool := decide (t.storeUsed + len ≤ 65536)

/-- The partial of a command: in the store, or in a shadow. -/
def CollectiveUnit.partialOf (c : CollectiveUnit) (op : Nat) : Option Partial :=
  (c.partials ++ c.shadow.toList.filterMap id).find? fun p => p.op == op

def State.modColl (s : State) (n : Nat) (f : CollectiveUnit → CollectiveUnit) : State := s.modTile n fun t => { t with coll := f t.coll }

/-- Counts a command's LEN into its LBAR (R375). -/
def State.countSource (s : State) (n : Nat) (o : EngineOp) (c : Coll) (poison : Bool) : State :=
  if c.lb then s.arrive n c.lbar c.len o.issuer (poison || o.poison) else s

/-- Keeps a command's partial and announces its slice. -/
def State.keepPartial (s : State) (n : Nat) (o : EngineOp) (c : Coll) (bs : List Byte) (ps : List Nat) : State :=
  let s := s.modColl n fun u => { u with partials := u.partials ++ [{ op := o.id, bytes := bs, poison := ps }] }
  let s := if ps.isEmpty then s else s.metPoison n o (nearPtr (s.nearTag n o.issuer.ctxnum) c.src)
  (s.countSource n o c (!ps.isEmpty)).soon (.sliceAnnounce n o.id)

/-- The step of a collective command by its operation. -/
def collEvent (n id : Nat) : Nat → Event
  | 0 => .collectiveAdd n id
  | 1 => .collectiveMaximum n id
  | 2 => .collectiveMinimum n id
  | _ => .collectiveBroadcast n id

/-- The engine has taken a command: a near-slice source is copied as it stands at tile scope, and an accumulator's partial is its shadow. -/
def State.takeSource (s : State) (n id code : Nat) : State :=
  match s.op? n id with
  | none => s
  | some o => match o.coll? with
    | none => s
    | some c =>
      if o.stage ≠ .running 0 0 ∨ c.op ≠ code then s
      else if ((s.tile n).coll.partialOf id).isSome then s.once (.sliceAnnounce n id)
      else if s.now < (s.tile n).sliceHeld then s.atCycle (s.tile n).sliceHeld (collEvent n id code)
      else
        (s.unpinOp n o).keepPartial n o c (s.readSlice n c.src c.len) (s.poisonIn (slicePa n c.src) c.len)

/-- COLLECTIVE_ADD (R375, R376). -/
def execCollectiveAdd (tile op : Nat) (s : State) : Out := .next (s.takeSource tile op 0)

/-- COLLECTIVE_MAXIMUM (R375, R376). -/
def execCollectiveMaximum (tile op : Nat) (s : State) : Out := .next (s.takeSource tile op 1)

/-- COLLECTIVE_MINIMUM (R375, R376). -/
def execCollectiveMinimum (tile op : Nat) (s : State) : Out := .next (s.takeSource tile op 2)

/-- COLLECTIVE_BROADCAST (R375, R377). -/
def execCollectiveBroadcast (tile op : Nat) (s : State) : Out := .next (s.takeSource tile op 3)

/-- Bytes of the first rows of an accumulator tile. -/
def accBytes (acc : Rows) (a rows : Nat) : List Byte := (natsFrom 0 rows).flatMap fun i => rowBytes (rowsGet acc (896 + 64 * a + i))

/-- A matrix operation works on an accumulator tile. -/
def MxOp.onTile (o : MxOp) (a : Nat) : Bool :=
  match o.kind with
  | .mma _ x _ _ => x == a
  | .macc _ => true
  | .drain x _ => x == a
  | _ => false

/-- Shadow copies that wait on a tile look again. -/
def State.shadowKick (s : State) (n : Nat) : State :=
  ((s.tile n).ops.filter fun o => o.stage == .queued && ((s.tile n).coll.partialOf o.id).isNone && match o.coll? with
    | some c => c.srck != 0
    | none => false).foldl (fun s o => s.once (.accumulatorShadowCopy n o.id)) s

/-- A command whose shadow has been copied counts its bytes into LBAR once it has reached its engine. -/
def State.countShadow (s : State) (n : Nat) (o : EngineOp) (c : Coll) (poison : Bool) : State :=
  if o.stage = .held ∨ o.counts ≠ 0 then s
  else ((s.modOp n o.id fun o => { o with counts := c.len }).countSource n o c poison).once (.engineTakeCommand n 2)

/-- ACCUMULATOR_SHADOW_COPY (R375): once the operations issued before the command on that accumulator tile have completed, whether or not the
command has reached its engine. -/
def execAccumulatorShadowCopy (tile op : Nat) (s : State) : Out :=
  match s.op? tile op with
  | none => .next s
  | some o => match o.coll? with
    | none => .next s
    | some c =>
      let t := s.tile tile
      let a := c.srck - 1
      if c.srck = 0 ∨ o.waiting = false then .next s
      else match t.coll.shadow[Fin.ofNat 2 a] with
        | some p => if p.op = op then .next (s.countShadow tile o c (!p.poison.isEmpty)) else .next s
        | none =>
          if (t.mx.queue.any fun x => decide (x.id < o.left) && x.onTile a) = true then .next s
          else
            let rows := c.len / 256
            let bad := t.mx.accPoison.filter fun r => decide (896 + 64 * a ≤ r ∧ r < 896 + 64 * a + rows)
            let ps := bad.flatMap fun r => natsFrom ((r - 896 - 64 * a) * 32) 32
            let p : Partial := { op := op, bytes := accBytes t.mx.acc a rows, poison := ps }
            let s := s.modColl tile fun u => { u with shadow := u.shadow.set (Fin.ofNat 2 a) (some p) }
            let s := if ps.isEmpty then s else s.metPoison tile o (nearPtr (s.nearTag tile o.issuer.ctxnum) c.dst)
            .next (s.countShadow tile o c (!ps.isEmpty))

/-! ## Announcements (R374, R375) -/

/-- What the commands of a round must agree on (R374). -/
def Coll.agree (a b : Coll) : Bool :=
  a.op == b.op && a.etype == b.etype && a.nsl == b.nsl && a.len == b.len && a.dst == b.dst && a.rbar == b.rbar && a.all == b.all

/-- The first command of a round. -/
def Round.lead (r : Round) : Option Coll := r.parts.head?.map fun p => Coll.ofBytes p.2.2.2.1
def Round.hasSlice (r : Round) (k : Nat) : Bool := r.parts.any fun p => p.1 == k

/-- Adds an announced command to the first round of its root that lacks its slice; a round whose slice 0 is announced takes its place in
the order of those (R374, R376). -/
def CollectiveUnit.announce (u : CollectiveUnit) (ctxnum n op : Nat) (iss : Issuer) (c : Coll) (bs : List Byte) : CollectiveUnit :=
  let broadcast (r : Round) : Bool := (r.lead.map fun d => d.op == 3).getD false
  let part := (c.slice, n, op, bs, iss)
  let cand := u.rounds.filter fun r => r.ctxnum == ctxnum && r.axis == c.axis && !r.hasSlice c.slice && !broadcast r && c.op != 3
  let pick := cand.foldl (fun (best : Option Round) r => match best with
    | some b => if r.id < b.id then some r else some b
    | none => some r) none
  let fresh : Round :=
    { id := u.nextRound, ctxnum := ctxnum, axis := c.axis, parts := [], acc := [], nextSlice := 0, started := false, failed := false, poison := [],
      deliver := [], folded := false }
  let old := pick.getD fresh
  let r := { old with parts := old.parts ++ [part], failed := old.failed || (old.lead.map fun d => !d.agree c).getD false }
  let rest := u.rounds.filter fun x => x.id != old.id
  { u with
    nextRound := if pick.isNone then u.nextRound + 1 else u.nextRound,
    rounds := if c.slice = 0 then (rest.filter fun x => x.hasSlice 0) ++ [r] ++ rest.filter (fun x => !x.hasSlice 0)
      else u.rounds.map (fun x => if x.id = old.id then r else x) ++ (if pick.isNone then [r] else []) }

/-- The root looks at the first of its rounds that has not been folded again. -/
def State.nextPull (s : State) (root : Nat) : State :=
  match (s.tile root).coll.rounds.filter fun r => !r.folded with
  | r :: _ => if r.hasSlice 0 then s.once (.collectivePull root r.id) else s
  | [] => s

/-- An earlier accepted command of the same line, axis, root and slice has not been announced (R374). -/
def State.announceBlocked (s : State) (n : Nat) (o : EngineOp) (c : Coll) : Bool :=
  (s.lineOf o.issuer.ctxnum n c.axis).any fun x => (s.tile x.2).ops.any fun p =>
    p.issuer.ctxnum == o.issuer.ctxnum && decide (p.order < o.order) && p.stage != .held && p.stage != .running 1 0 && match p.coll? with
      | some d => d.axis == c.axis && d.root == c.root && d.slice == c.slice && (d.op == 3) == (c.op == 3)
      | none => false

/-- The announcement of a command that is on its way, or has come from another package of the hitch. -/
def State.announcement (s : State) (n op : Nat) : Option Flight :=
  s.flights.find? fun f => f.issuer.tile == n && match f.kind with | .announce k .. => k == op | _ => false

/-- Commands of a line that wait for an earlier one of their slice look again. -/
def State.announceMore (s : State) (ctxnum n axis : Nat) : State :=
  (s.lineOf ctxnum n axis).foldl (fun s x => ((s.tile x.2).ops.filter fun p => p.eng == 2 && p.stage == .running 0 0).foldl
    (fun s p => s.once (.sliceAnnounce x.2 p.id)) s) s

/-- A command is announced at its root. -/
def State.announceAt (s : State) (root n op : Nat) (iss : Issuer) (c : Coll) (bs : List Byte) : State :=
  let s := if iss.away.isSome then s else s.modOp n op fun o => { o with stage := .running 1 0 }
  let s := s.modColl root fun u => u.announce iss.ctxnum n op iss c bs
  (s.announceMore iss.ctxnum (if iss.away.isSome then root else n) c.axis).nextPull root

/-- SLICE_ANNOUNCE (R375, R398, R430): the announcement leaves for its root, along the axis or over a rein; it arrives there. -/
def execSliceAnnounce (tile op : Nat) (s : State) : Out :=
  match s.announcement tile op with
  | some f => match f.kind with
    | .announce _ root bs =>
      if f.left ≠ 0 then .next s else .next ((s.dropFlight f.id).announceAt root tile op f.issuer (Coll.ofBytes bs) bs)
    | _ => .next s
  | none =>
    match s.op? tile op with
    | none => .next s
    | some o => match o.coll? with
      | none => .next s
      | some c =>
        if o.stage ≠ .running 0 0 ∨ ((s.tile tile).coll.partialOf op).isNone = true ∨ s.announceBlocked tile o c = true then .next s
        else
          let bs := match o.kind with | .record bs => bs | .eop _ _ _ _ _ bs => bs | .ringMove .. => []
          let k := o.issuer.ctxnum
          let send (root : Nat) : State × Nat :=
            let f : Flight := { id := s.nextId, kind := .announce op root bs, issuer := { o.issuer with tile := tile }, checked := true }
            ({ s with nextId := s.nextId + 1, flights := s.flights ++ [f] }, f.id)
          match (s.hitchLine k c.axis).filter (fun h => h != 0), s.rootOf k tile c.axis c.root with
          | some _, _ =>
            let (s, id) := send tile
            .next ((s.modOp tile op fun o => { o with stage := .running 1 0 }).injectOut tile 0 k 0 (.request id 0 0))
          | none, some root =>
            if root = tile then .next (s.announceAt root tile op o.issuer c bs)
            else let (s, id) := send root; .next (s.inject tile root 10 k 0 0 false (.request id 0 0))
          | none, none => .next s

/-! ## Folding (R376, R377, R381) -/

/-- Folds two partials elementwise under RNE. -/
def foldBytes (op etype : Nat) (x y : List Byte) : List Byte :=
  let t := EType.ofCode etype
  let f := match op with | 0 => elemAdd t .rne | 1 => elemMax t .rne | _ => elemMin t .rne
  let n := t.width / 8
  (List.zipWith f ((chunks n x.length x).map leNat) ((chunks n y.length y).map leNat)).flatMap (leBytes n)

/-- The partials of a round's commands are released, and the commands leave their engines. -/
def State.releaseParts (s : State) (r : Round) : State :=
  (r.parts.filter fun p => p.2.2.2.2.away.isNone).foldl (fun s (_, n, op, _, _) =>
    let s := s.modTile n fun t =>
      { t with
        ops := t.ops.filter fun o => o.id != op,
        coll := { t.coll with
          partials := t.coll.partials.filter fun p => p.op != op,
          shadow := t.coll.shadow.map fun x => if x.map Partial.op = some op then none else x } }
    ((s.once (.engineTakeCommand n 2)).shadowKick n).nextPull n) s

/-- Hops along an axis of the torus. -/
def axisDistance (l : Launch) (axis a b : Nat) : Nat :=
  let o := axisOf (tileX l.origin, tileY l.origin, tileZ l.origin) axis
  let d := ((o + a) % 16 + 16 - (o + b) % 16) % 16
  min d (16 - d)

/-- Puts a coordinate into the order of increasing distance from the root, the lower of a tie first. -/
def insertByDistance (dist : Nat → Nat) (x : Nat) : List Nat → List Nat
  | [] => [x]
  | y :: l => if dist x < dist y ∨ (dist x = dist y ∧ x < y) then x :: y :: l else y :: insertByDistance dist x l

/-- The receiving tiles in the order of their deliveries (R374, R376). -/
def State.receivers (s : State) (ctxnum root axis : Nat) (all : Bool) (coord : Nat) : List Nat :=
  if all then
    let line := s.lineOf ctxnum root axis
    let l := (s.launch? ctxnum).getD {}
    let order := (line.map Prod.fst).foldr (insertByDistance (axisDistance l axis coord)) []
    order.filterMap fun c => (line.find? fun x => x.1 == c).map Prod.snd
  else [root]

def CollectiveUnit.setRound (u : CollectiveUnit) (r : Round) : CollectiveUnit := { u with rounds := u.rounds.map fun x => if x.id = r.id then r else x }

/-- A failed round: each issuing task records ILLEGAL with its own command (R381, R466). -/
def State.failRound (s : State) (r : Round) : State :=
  (r.parts.filter fun p => p.2.2.2.2.away.isNone).foldl (fun s (_, n, op, bs, _) => match s.op? n op with
    | some o => s.late n o Cause.illegal (wordAt bs 0)
    | none => s) s

/-- The pull of a round's partial that is on its way. -/
def State.pullOf (s : State) (root round n op : Nat) : Option Flight :=
  s.flights.find? fun f => f.issuer.tile == root && match f.kind with
    | .pull r t k _ => r == round && t == n && k == op
    | _ => false

/-- The root asks for a partial that another tile holds. -/
def State.sendPull (s : State) (root n : Nat) (r : Round) (op len : Nat) (iss : Issuer) : State :=
  let f : Flight := { id := s.nextId, kind := .pull r.id n op iss.away, issuer := { ctxnum := r.ctxnum, tile := root, berth := 4 },
                      data := if iss.away.isSome then (natsFrom 0 len).map fun _ => 0 else [], checked := true,
                      left := if iss.away.isSome then (cutsOf len).length else 1 }
  let s := { s with nextId := s.nextId + 1, flights := s.flights ++ [f] }
  match iss.away with
  | some d => s.injectOut root d r.ctxnum 0 (.request f.id 0 0)
  | none => s.inject root n 10 r.ctxnum 0 0 false (.request f.id 0 0)

/-- The partial of a round's slice at its root, whose shadow is free from then on: the root's own, or one that has been pulled; otherwise the
pull, which goes out. None where the slice has not been announced, or its partial is on its way. -/
def State.partialFor (s : State) (root : Nat) (r : Round) (len : Nat) : Option (State × Option Partial) :=
  (r.parts.find? fun p => p.1 == r.nextSlice).bind fun (_, n, op, _, iss) =>
    if n = root ∧ iss.away = none then
      ((s.tile n).coll.partialOf op).map fun p => ((s.modColl n fun u => u.freeShadow op).once (.engineTakeCommand n 2), some p)
    else match s.pullOf root r.id n op with
      | none => some (s.sendPull root n r op len iss, none)
      | some f => if f.performed then some (s.dropFlight f.id, some { op := op, bytes := f.data, poison := f.poison }) else none

/-- Sends a result to its receiver: written at once at the root's own tile. -/
def State.resultAt (s : State) (d dst rbar : Nat) (data : List Byte) (poison : List Nat) (iss : Issuer) : State :=
  let s := (s.performWrite d dst data iss).poisonSlice d 0 (poison.map fun w => dst / 8 + w)
  s.arrive d rbar data.length iss (!poison.isEmpty)

/-- COLLECTIVE_PULL (R376): the root's first round takes its next slice, which was asked for while the one before it was folded. -/
def execCollectivePull (root round : Nat) (s : State) : Out :=
  match (s.tile root).coll.rounds.filter fun r => !r.folded with
  | r :: _ =>
    match r.lead with
    | some c =>
      if r.id ≠ round ∨ r.hasSlice 0 = false then .next s
      else if r.failed then
        if c.nsl ≤ r.parts.length then
          .next (((s.failRound r).releaseParts r |>.modColl root fun u => { u with rounds := u.rounds.filter fun x => x.id != r.id }).nextPull root)
        else .next s
      else if !r.started then
        if (s.tile root).storeFits c.len then .next ((s.modColl root fun u => u.setRound { r with started := true }).nextPull root) else .next s
      else if r.nextSlice < c.nsl then
        match s.partialFor root r c.len with
        | none => .next s
        | some (s, none) => .next s
        | some (s, some p) =>
          let acc := if r.nextSlice = 0 then p.bytes else foldBytes c.op c.etype r.acc p.bytes
          .next ((s.modColl root fun u => u.setRound { r with acc := acc, poison := r.poison ++ p.poison, nextSlice := r.nextSlice + 1 }).nextPull root)
      else
        let dest := if (s.hitchLine r.ctxnum r.axis).isSome ∧ c.all = true then natsFrom 0 4 else s.receivers r.ctxnum root r.axis c.all c.root
        let s := (s.releaseParts r).modColl root fun u => u.setRound { r with folded := true, deliver := dest }
        .next ((match dest with | d :: _ => s.soon (.collectiveDelivery root round d) | [] => s).nextPull root)
    | none => .next s
  | [] => .next s

/-- A delivery that is on its way to a receiver, or has come from another package. -/
def State.deliveryTo (s : State) (root round receiver : Nat) : Option Flight :=
  s.flights.find? fun f => f.issuer.tile == root && match f.kind with
    | .deliver r d .. => r == round && d == receiver
    | _ => false

/-- A round whose deliveries have all been made is over: its store is free. -/
def State.endRound (s : State) (root round : Nat) : State :=
  let out := s.flights.any fun f => f.issuer.tile == root && match f.kind with | .deliver r .. => r == round | _ => false
  match (s.tile root).coll.rounds.find? fun r => r.id == round with
  | some r =>
    if r.folded && r.deliver.isEmpty && !out then
      ((s.modColl root fun u => { u with rounds := u.rounds.filter fun x => x.id != round }).nextPull root).once (.engineTakeCommand root 2)
    else s
  | none => s

/-- Sends the result on to the next receiver of a round. In a hitch line the receivers are positions. -/
def State.deliverNext (s : State) (root : Nat) (r : Round) (c : Coll) (iss : Issuer) (d : Nat) : State :=
  let line := (s.hitchLine r.ctxnum r.axis).isSome && c.all
  if (if line then d = 0 else d = root) then s.resultAt root c.dst c.rbar r.acc r.poison iss
  else
    let f : Flight := { id := s.nextId, kind := .deliver r.id (if line then root else d) c.dst c.rbar r.acc, issuer := { iss with tile := root },
                        poison := r.poison, checked := true, left := (cutsOf r.acc.length).length }
    -- what goes to another package is out of this one's hands
    if line then s.injectOutAll root d r.ctxnum (.request f.id) r.acc.length
    else ({ s with nextId := s.nextId + 1, flights := s.flights ++ [f] }).injectAll root d 10 r.ctxnum false false (.request f.id) r.acc.length

/-- COLLECTIVE_DELIVERY (R376, R398): the result leaves for the next receiver in order, along the axis; it arrives, is written, and RBAR counts
it. -/
def execCollectiveDelivery (root round receiver : Nat) (s : State) : Out :=
  match s.deliveryTo root round receiver with
  | some f => match f.kind with
    | .deliver _ d dst rbar data =>
      if !f.performed then .next s
      else .next (((s.dropFlight f.id).resultAt d dst rbar data f.poison f.issuer).endRound root round)
    | _ => .next s
  | none =>
    match (s.tile root).coll.rounds.find? fun r => r.id == round with
    | none => .next s
    | some r =>
      match r.deliver, r.lead, r.parts with
      | d :: rest, some c, (_, _, _, _, iss) :: _ =>
        if d ≠ receiver then .next s
        else
          let s := (s.deliverNext root r c iss d).modColl root fun u => u.setRound { r with deliver := rest }
          .next (match rest with
            | e :: _ => s.soon (.collectiveDelivery root round e)
            | [] => s.endRound root round)
      | _, _, _ => .next s

end Sys2Proof.Machine
end

