-- ==== Sys2Proof/Machine/Matrix.lean ====
section
/-!
DEFINITION. The matrix unit (R234 to R250, R365 to R372): claims, fills, tile operations, the requantizing transposer, remote commands, the
curb, and the steps of its queue.
-/
namespace Sys2Proof.Machine

/-! ## Formats and runs (R27, R53, R237) -/

/-- A matrix operand format (R27). -/
inductive MxFmt where
  | t6 | t8 | s8 | f16 | b16 | f32
  deriving DecidableEq, Repr

def MxFmt.ofCode (c : BitVec 4) : MxFmt :=
  match c.toNat % 8 with
  | 0 => .t6 | 1 => .t8 | 2 => .s8 | 3 => .f16 | 4 => .b16 | _ => .f32

/-- Bytes of an element; t6 is packed. -/
def MxFmt.bytes : MxFmt → Nat
  | .t6 => 1 | .t8 => 1 | .s8 => 1 | .f16 => 2 | .b16 => 2 | .f32 => 4

/-- Bytes of a run of `rows` by K (R237). -/
def MxFmt.runBytes (f : MxFmt) (rows k : Nat) : Nat := match f with | .t6 => rows * k * 3 / 4 | f => rows * k * f.bytes

/-- Operations a cycle (R242). -/
def MxFmt.rate : MxFmt → Nat
  | .t6 => 16384 | .t8 => 8192 | .s8 => 8192 | .f16 => 4096 | .b16 => 4096 | .f32 => 1024

def MxFmt.decode (f : MxFmt) (x : Nat) : FVal :=
  match f with
  | .t6 => Taper.decode .t6 x
  | .t8 => Taper.decode .t8 x
  | .s8 => let i := toInt true 8 x; if i = 0 then .zero false else .fin ⟨i, 0⟩
  | .f16 => fmtF16.decode x
  | .b16 => fmtB16.decode x
  | .f32 => fmtF32.decode x

/-- Element (r, k) of a run that begins at byte `base` (R47, R237). -/
def MxFmt.elem (f : MxFmt) (read : Nat → Byte) (base kk r k : Nat) : FVal :=
  match f with
  | .t6 =>
    let g := base + 24 * (r * kk / 32 + k / 32)
    f.decode (leNat ((natsFrom g 24).map read) / 2 ^ (6 * (k % 32)) % 64)
  | f => f.decode (leNat ((natsFrom (base + (r * kk + k) * f.bytes) f.bytes).map read))

/-- Slots of a run. -/
def slotsOf (first bytes : Nat) : List Nat := natsFrom first ((bytes + 4095) / 4096)

/-! ## Slot and geometry words (R237) -/

def slotA (w : Word) : Nat := w.toNat % 16
def slotB (w : Word) : Nat := w.toNat / 16 % 16
def geoK (w : Word) : Nat := w.toNat % 4096
def geoOk (w : Word) : Bool := decide (32 ≤ geoK w ∧ geoK w ≤ 2048 ∧ geoK w % 32 = 0)

/-- The slots of the runs of a tile operation. -/
def mmaSlots (cr : CRegs) (slotw geo : Word) : List Nat × List Nat :=
  (slotsOf (slotA slotw) ((MxFmt.ofCode cr.fmta).runBytes 64 (geoK geo)),
   slotsOf (slotB slotw) ((MxFmt.ofCode cr.fmtb).runBytes cr.columns (geoK geo)))

/-- The lowest slot of a list that a mask lacks. -/
def lowestMissing (mask : BitVec 16) (slots : List Nat) : Option Nat :=
  (slots.filter fun k => !mask.getLsbD k).foldl (fun b k => match b with | some x => some (min x k) | none => some k) none

/-! ## The queue and the curb (R242, R372) -/

/-- CURBST.COUNT rises once for each operation that waits (R29, R372). -/
def Tile.curbStall (t : Tile) (key : Nat) : Tile :=
  if t.curbWaiting.contains key then t
  else
    let c := t.curbst.toNat % 2 ^ 32 + 1
    { t with curbWaiting := key :: t.curbWaiting,
             curbst := if c = 2 ^ 32 then BitVec.ofNat 64 (2 ^ 63) else BitVec.ofNat 64 (t.curbst.toNat / 2 ^ 63 * 2 ^ 63 + c) }

/-- Room in the queue, in this cycle (R242, R372). -/
def Tile.mxRoom (t : Tile) (now : Nat) : Bool := decide (t.mx.queue.length < 4) && t.mx.entered != some now

/-- Room for a remote command or a firing (R372): it takes the place that the cycle before has left, after that cycle's instruction. -/
def Tile.mxLate (t : Tile) (now : Nat) : Bool := decide (t.mx.queue.length < 4) && t.mx.entered.all fun c => decide (c + 1 < now)

def Tile.curbRoom (t : Tile) : Bool := decide (t.curbUsed < t.curbWindow)

/-- Looks for the entry that begins next. -/
def State.mxKick (s : State) (n : Nat) : State :=
  let m := (s.tile n).mx
  if m.queue.any fun o => o.doneAt.isNone then
    if m.freeAt ≤ s.now then s.once (.matrixQueueExecute n)
    else if s.timed.contains (m.freeAt, .matrixQueueExecute n) then s else s.atCycle m.freeAt (.matrixQueueExecute n)
  else s

/-- An operation enters the queue in a cycle. -/
def State.mxEnter (s : State) (n : Nat) (o : MxOp) (curb : Option Nat) (cycle : Nat := s.now) : State :=
  (s.modTile n fun t =>
    let t := match curb with
      | some key => { t with curbUsed := t.curbUsed + 1, curbWaiting := t.curbWaiting.filter fun k => k != key }
      | none => t
    { t with mx := { t.mx with queue := t.mx.queue ++ [{ o with id := t.mx.nextId }], nextId := t.mx.nextId + 1, entered := some cycle } }).mxKick n

/-- CURB_WINDOW_BOUNDARY (R29, R372). -/
def execCurbWindowBoundary (tile : Nat) (s : State) : Out :=
  .next (s.modTile tile fun t => let l := min t.curbLimit t.curbCeil; { t with curbLimit := l, curbWindow := l, curbUsed := 0 })

/-! ## What every instruction of the unit begins with (R236, R326) -/

/-- An instruction of opcodes 0xc8 to 0xef: not on a memory core, and never speculative. -/
def View.unitInstr (v : View) (us : List Use) : Ex Unit := do
  v.resolved
  if isCore v.s.cur.tile then trapWith Cause.illegal v.s.cur.illegalValue
  v.check us [] none

/-- One that reads or writes the slice: an LDA or a VSCT may hold it (R179, R182, R234). -/
def View.nearInstr (v : View) (us : List Use) : Ex Unit := do
  v.unitInstr us
  v.acquired
  v.sliceFree

/-- Enters the queue, or waits at issue while it is full; a curb-counted operation waits for its window (R242, R372). -/
def View.enterQueue (v : View) (o : MxOp) (curb : Bool) (sc : BitVec 3) : Ex View :=
  if !v.tile.mxRoom v.now then .error .hold
  else if curb && !v.tile.curbRoom then .ok ((v.modTile fun t => t.curbStall v.s.cur.berth).stay)
  else .ok (({ v with s := v.s.mxEnter v.s.cur.tile o (if curb then some v.s.cur.berth else none) } : View).advance sc)

/-- A list of runs of scale bytes is read by an ordered task: their lines are stamped at issue (R234). -/
def View.stampRuns (v : View) (runs : List (Nat × Nat)) : View := runs.foldl (fun v r => v.stamp r.1 r.2) v

/-! ## Claims (R238, R239, R235) -/

/-- SCLAIM (R238). -/
def slotClaim (a : BitVec 7) (sc : BitVec 3) (v : View) : Ex View := do
  let us : List Use := [⟨2, a, .src false⟩]
  v.unitInstr us
  let x := v.scalar 2 a
  if 2 ^ 16 ≤ x.toNat then trapWith Cause.illegal x
  let mask := x.extractLsb' 0 16
  let b := v.s.cur.berth % 4
  let m := v.tile.mx
  let ok := mask != 0 && !m.reserved && (m.holder.all fun h => h == b) && (v.claims &&& mask == 0)
  let v1 := v.touchSources us
  if !ok then .ok ((v1.result 0 (.scalar 0) 2 {} false false).advance sc)
  else
    let clear := v.ordered && !v.ctx.mxReset
    let v2 := v1.modTile fun t => { t with mx := { t.mx with
      holder := some b, claims := v.claims ||| mask, acc := if clear then [] else t.mx.acc, accPoison := if clear then [] else t.mx.accPoison } }
    .ok (((v2.modCtx fun c => { c with mxReset := true }).result 0 (.scalar x) 2 {} false false).advance sc)

/-- Slots that an engine operation fills or works on. -/
def EngineOp.slots (o : EngineOp) : List Nat :=
  match o.kind with
  | .record bs => if o.eng = 0 ∧ fieldAt bs 0 1 = 1 then [slotOf (wordAt bs 0x10)] else []
  | .eop fn a b _ cr _ =>
    if o.eng = 0 ∧ fn = 1 then [slotOf a]
    else if o.eng = 1 ∧ fn = 0 then let m := mmaSlots cr a b; m.1 ++ m.2
    else []
  | .ringMove .. => []

/-- An operation on one of the slots has been accepted and has not completed (R239). What a task's own commit holds back, and a ring operation
whose rings are not ready, cannot be waited for: that wait has no bound. -/
def State.filling (s : State) (n : Nat) (slots : BitVec 16) : Bool :=
  (s.tile n).ops.any fun o => (o.slots.any fun k => slots.getLsbD k) && match o.kind, o.stage with
    | _, .running .. => true
    | .record _, .held => !o.issuer.ordered
    | .record _, .queued => true
    | _, _ => !(o.stage == .held && o.issuer.ordered) && s.ringsReady n o

/-- SRELS (R239). -/
def slotRelease (a : BitVec 7) (sc : BitVec 3) (v : View) : Ex View := do
  let us : List Use := [⟨2, a, .src false⟩]
  v.unitInstr us
  let x := v.scalar 2 a
  if 2 ^ 16 ≤ x.toNat then trapWith Cause.illegal x
  let out := x.extractLsb' 0 16 &&& v.claims
  waitUntil (!(v.tile.mx.queue.any fun o => o.names out) && !v.s.filling v.s.cur.tile out)
  let left := v.claims &&& ~~~out
  .ok (((v.touchSources us).modTile fun t => if v.holdsMx then { t with mx := { t.mx with
    claims := left, holder := if left = 0 then none else t.mx.holder } } else t).advance sc)

/-! ## SFILL (R240) -/

/-- SFILL. -/
def slotFill (a b : BitVec 7) (sc : BitVec 3) (v : View) : Ex View := do
  let us : List Use := [⟨2, a, .src false⟩, ⟨3, b, .src false⟩]
  v.nearInstr us
  let p := v.scalar 2 a
  let w := v.scalar 3 b
  let slot := slotOf w
  let off := slotOff w
  let len := w.toNat / 2 ^ 32 % 2 ^ 13
  if w.toNat ≠ len * 2 ^ 32 + off * 2 ^ 16 + slot ∨ len % 16 ≠ 0 ∨ len = 0 ∨ 4096 < len ∨ off % 16 ≠ 0 ∨ 4096 < off + len then
    trapWith Cause.illegal w
  if offOf p % 16 ≠ 0 then trapWith Cause.illegal p
  if !v.claims.getLsbD slot then trapWith Cause.regwin (BitVec.ofNat 64 slot)
  let src ← v.near p len 16
  if v.nearPoison src len then trapWith Cause.poison p
  let v1 := (v.touchSources us).stamp src len
  v1.enterQueue { id := 0, kind := .sfill slot off (v.readNear src len), cr := v.ctx.cr, issuer := v.issuer, ownView := true, slots := [slot] } false sc

/-! ## Tile operations (R241) -/

/-- MMA and MMAZ (R241). -/
def tileOp (zero : Bool) (tl : BitVec 1) (a b : BitVec 7) (sc : BitVec 3) (v : View) : Ex View := do
  let us : List Use := [⟨2, a, .src false⟩, ⟨3, b, .src false⟩]
  v.unitInstr us
  let w := v.scalar 2 a
  let g := v.scalar 3 b
  if 256 ≤ w.toNat then trapWith Cause.illegal w
  if 4096 ≤ g.toNat ∨ geoOk g = false then trapWith Cause.illegal g
  let (sa, sb) := mmaSlots v.ctx.cr w g
  if (sa ++ sb).any fun k => decide (16 ≤ k) then trapWith Cause.illegal w
  match lowestMissing v.claims (sa ++ sb) with
  | some k => trapWith Cause.regwin (BitVec.ofNat 64 k)
  | none =>
    waitUntil (!v.tile.shadowPending tl.toNat)
    v.acquired
    let o : MxOp := { id := 0, kind := .mma zero tl.toNat w g, cr := v.ctx.cr, issuer := v.issuer, ownView := true, slots := sa ++ sb }
    ((v.touchSources us).stampRuns o.scaleRuns).enterQueue o true sc

/-- MACC (R243). -/
def maccOp (fn : Nat) (sc : BitVec 3) (v : View) : Ex View := do
  v.unitInstr []
  if !v.holdsMx then trapWith Cause.regwin 896
  waitUntil (!v.tile.shadowPending 0 && !v.tile.shadowPending 1)
  v.enterQueue { id := 0, kind := .macc fn, cr := v.ctx.cr, issuer := v.issuer, ownView := true } false sc

/-- MSTAT (R244). -/
def matrixStatus (inFlight : Bool) (sc : BitVec 3) (v : View) : Ex View := do
  v.unitInstr []
  let x : Word := if inFlight then BitVec.ofNat 64 v.tile.mx.queue.length else v.claims.setWidth 64
  .ok ((v.result 0 (.scalar x) 2 {} false false).advance sc)

/-- RQT (R245). -/
def requantize (fn : BitVec 1) (a b : BitVec 7) (sc : BitVec 3) (v : View) : Ex View := do
  let us : List Use := [⟨2, a, .src false⟩, ⟨3, b, .src false⟩]
  v.unitInstr us
  let w := v.scalar 2 a
  let g := v.scalar 3 b
  if 256 ≤ w.toNat then trapWith Cause.illegal w
  let src := g.toNat % 2 ^ 17
  let dst := g.toNat / 2 ^ 32 % 2 ^ 17
  if g.toNat ≠ dst * 2 ^ 32 + src then trapWith Cause.illegal g
  match [slotA w, slotB w].find? fun k => !v.claims.getLsbD k with
  | some k => trapWith Cause.regwin (BitVec.ofNat 64 k)
  | none =>
    let limit := v.s.sliceLimit v.s.cur.tile
    match ((natsFrom src 128) ++ natsFrom dst 128).find? fun o => decide (limit ≤ o % 2 ^ 17) with
    | some o => trapWith Cause.window (nearPtr v.ctx.cr.tilev.toNat (o % 2 ^ 17))
    | none =>
      v.acquired
      let o : MxOp :=
        { id := 0, kind := .rqt (fn == 1) w g, cr := v.ctx.cr, issuer := v.issuer, ownView := true, slots := [slotA w, slotB w] }
      ((v.touchSources us).stampRuns (wrapRuns src 128)).enterQueue o true sc

/-- MCAP (R246). -/
def matrixCapability (a b : BitVec 7) (sc : BitVec 3) (v : View) : Ex View := do
  let us : List Use := [⟨2, a, .src false⟩, ⟨3, b, .src false⟩]
  v.unitInstr us
  let new := v.scalar 2 a
  let ok := v.scalar 3 b == v.tile.mcapkey && new != 0
  let v1 := (v.touchSources us).modTile fun t => if ok then { t with mcapkey := new } else t
  .ok ((v1.result 0 (.scalar (if ok then 0 else 1)) 2 {} false false).advance sc)

/-- MREM (R248): the record is read at issue, and travels as a message of KIND 5. -/
def matrixRemote (a b : BitVec 7) (sc : BitVec 3) (v : View) : Ex View := do
  let us : List Use := [⟨2, a, .src false⟩, ⟨3, b, .src false⟩]
  v.nearInstr us
  let off ← v.near (v.scalar 2 a) 64 64
  if v.nearPoison off 64 then trapWith Cause.poison (v.scalar 2 a)
  let w := v.scalar 3 b
  let dest := if w >>> 12 ≠ 0 then none else (v.s.launch? v.ctx.ctxnum).bind fun l => l.destTile w
  let v1 := (v.touchSources us).stamp off 64
  let (v2, status) := v1.queueMessage dest fun t seq =>
    { kind := 5, destTile := t, ts := v.ctx.task.ts, stage := 0, count := 0, poison := v.ctx.poisoned, src := v.s.cur.tile,
      ctxnum := v.ctx.ctxnum, payload := v.readNear off 64, seq := seq }
  .ok ((v2.result 0 (.scalar status) 1 {} false false).advance sc)

/-! ## Ring-fed operations at acceptance (R250) -/

/-- EOP, ENG 1, FN 0 (R250). -/
def eopTile (a b : BitVec 7) (sc : BitVec 3) (v : View) : Ex View := do
  let (map, m) ← v.eopStart 1 a b
  let w := v.scalar 2 a
  let g := v.scalar 3 b
  let cr := v.ctx.cr
  needOperand w (decide (w.toNat < 512))
  needOperand g (g.extractLsb' 53 10 == 0 && g.extractLsb' 36 4 == 0 && g.extractLsb' 12 24 == 0 && geoOk g)
  let (sa, sb) := mmaSlots cr w g
  needOperand w ((sa ++ sb).all fun k => decide (k < 16))
  needMap map (m.in0.isSome && m.in1.isSome && m.out.isNone && v.tile.useEsl m.in0 == 8 && v.tile.useEsl m.in1 == 8 &&
    v.tile.useBytes m.in0 == (MxFmt.ofCode cr.fmta).runBytes 64 (geoK g) && v.tile.useBytes m.in1 == (MxFmt.ofCode cr.fmtb).runBytes cr.columns (geoK g))
  match lowestMissing v.claims (sa ++ sb) with
  | some k => trapWith Cause.regwin (BitVec.ofNat 64 k)
  | none => .ok (((v.touchSources [⟨2, a, .src false⟩, ⟨3, b, .src false⟩]).accept 1 (.eop 0 w g map cr []) []).advance sc)

/-- EOP, ENG 1, FN 1 (R250). -/
def eopDrain (a b : BitVec 7) (sc : BitVec 3) (v : View) : Ex View := do
  let (map, m) ← v.eopStart 1 a b
  let w := v.scalar 2 a
  let g := v.scalar 3 b
  needOperand w (decide (w.toNat < 2))
  needOperand g (barWordOk g)
  needMap map (m.outOnly && v.tile.useEsl m.out == 8 && (m.out.map Prod.snd) == some 64)
  if !v.holdsMx then trapWith Cause.regwin 896
  .ok (((v.touchSources [⟨2, a, .src false⟩, ⟨3, b, .src false⟩]).accept 1 (.eop 1 w g map v.ctx.cr []) []).advance sc)

/-! ## What an operation computes (R55, R56, R241, R243, R245) -/

/-- The value that one block adds (R55, R56): the exact sum of its products, scaled, before its rounding to f32. -/
def blockSum (as bs : List FVal) (ea eb : Nat) : FVal :=
  let ps := List.zipWith FVal.mul as bs
  let isNan (x : FVal) : Bool := match x with | .nan => true | _ => false
  let isInf (neg : Bool) (x : FVal) : Bool := match x with | .inf n => n == neg | _ => false
  if (as ++ bs).any isNan || ea == 255 || eb == 255 || ps.any isNan then .nan
  else if ps.any (isInf true) && ps.any (isInf false) then .nan
  else if ps.any (isInf true) then .inf true
  else if ps.any (isInf false) then .inf false
  else
    let sum := ps.foldl (fun (x : Dy) p => x.add p.dy) ⟨0, 0⟩
    if sum.m = 0 then .zero false else .fin (sum.scale ((ea : Int) + (eb : Int) - 254))

/-- The accumulators' format (R26). -/
def CRegs.accFmt (c : CRegs) : Fmt := if c.accmode.getLsbD 0 then (if c.accmode.getLsbD 1 then fmtB16 else fmtF16) else fmtF32
def CRegs.accBits (c : CRegs) : Nat := if c.accmode.getLsbD 0 then 16 else 32

/-- One addition into an accumulator element: c is rounded to f32, and the sum to the accumulator's format (R55). -/
def accAdd (f : Fmt) (acc : Nat) (c : FVal) : Nat := f.encode .rne ((f.decode acc).add .rne (fmtF32.decode (fmtF32.encode .rne c)))

/-- A scale of an operand (R50). -/
def scaleAt (scaled : Bool) (bs : List Byte) (i : Nat) : Nat := if scaled then (bs.getD i 0).toNat else 127

/-- A byte of operand memory as an operation reads it: of a unit that a fill wrote meanwhile, the old or the new, which is open (R241). -/
def MatrixUnit.byteFor (m : MatrixUnit) (o : MxOp) (free addr : Nat) : Byte :=
  match lookup (addr / 16) o.overwritten with
  | some old => if (Config.freeWord free (addr / 16)).getLsbD 0 then old.getD (addr % 16) 0 else Mem.read m.slots addr
  | none => Mem.read m.slots addr

/-- The row of an accumulator tile after a tile operation (R241). -/
def mmaRow (read : Nat → Byte) (o : MxOp) (zero : Bool) (w g : Word) (old : Row) (m : Nat) : Row :=
  let cr := o.cr
  let fa := MxFmt.ofCode cr.fmta
  let fb := MxFmt.ofCode cr.fmtb
  let kk := geoK g
  let nb := kk / 32
  let a (k : Nat) : FVal := fa.elem read (4096 * slotA w) kk m k
  let start := if zero then (natsFrom 0 cr.columns).map fun _ => 0 else rowElems cr.accBits old
  let elem (n acc : Nat) : Nat := (natsFrom 0 nb).foldl (fun acc b =>
    let ks := natsFrom (32 * b) 32
    accAdd cr.accFmt acc (blockSum (ks.map a) (ks.map fun k => fb.elem read (4096 * slotB w) kk n k)
      (scaleAt (cr.fmta.getLsbD 3) o.scaleA (m * nb + b)) (scaleAt (cr.fmtb.getLsbD 3) o.scaleB (n * nb + b)))) acc
  rowOfElems cr.accBits (List.zipWith elem (natsFrom 0 cr.columns) start)

/-- The rows of an accumulator tile. -/
def accRows (a : Nat) : List Nat := natsFrom (896 + 64 * a) 64

/-- Whether an operation reads a poisoned unit of its slots. -/
def MatrixUnit.slotsPoisoned (m : MatrixUnit) (slots : List Nat) : Bool := m.slotPoison.any fun u => slots.contains (u / 256)

/-- A tile operation's effect (R241, R288). -/
def MatrixUnit.runMma (m : MatrixUnit) (o : MxOp) (free : Nat) (zero : Bool) (t : Nat) (w g : Word) : MatrixUnit :=
  let rows := accRows t
  let acc := rows.foldl (fun (acc : Rows × Nat) r =>
    (rowsSet acc.1 r (mmaRow (m.byteFor o free) o zero w g (rowsGet m.acc r) acc.2), acc.2 + 1)) (m.acc, 0)
  let bad := o.scalePoison || m.slotsPoisoned o.slots
  let old := m.accPoison.filter fun r => !(rows.contains r)
  let stay := if zero then [] else m.accPoison.filter fun r => rows.contains r
  { m with acc := acc.1, accPoison := old ++ if bad then rows else stay }

/-- An accumulating copy of one tile into the other, elementwise in ACCMODE's format (R243). -/
def accSum (cr : CRegs) (x y : Row) : Row :=
  let f := cr.accFmt
  rowOfElems cr.accBits (List.zipWith (fun a b => f.encode .rne ((f.decode a).add .rne (f.decode b))) (rowElems cr.accBits x) (rowElems cr.accBits y))

/-- MACC's effect (R243, R288). -/
def MatrixUnit.runMacc (m : MatrixUnit) (cr : CRegs) (fn : Nat) : MatrixUnit :=
  let row (a i : Nat) : Row := rowsGet m.acc (896 + 64 * a + i)
  let new (a i : Nat) : Row := match fn, a with
    | 0, 0 => accSum cr (row 0 i) (row 1 i)
    | 1, 1 => accSum cr (row 1 i) (row 0 i)
    | 2, 0 => 0
    | 3, 1 => 0
    | 4, a => row (1 - a) i
    | _, a => row a i
  let bad (a i : Nat) : Bool := m.accPoison.contains (896 + 64 * a + i)
  let newBad (a i : Nat) : Bool := match fn, a with
    | 0, 0 => bad 0 i || bad 1 i
    | 1, 1 => bad 0 i || bad 1 i
    | 2, 0 => false
    | 3, 1 => false
    | 4, a => bad (1 - a) i
    | _, a => bad a i
  let all := (natsFrom 0 2).flatMap fun a => (natsFrom 0 64).map fun i => (a, i)
  { m with
    acc := all.foldl (fun acc (a, i) => rowsSet acc (896 + 64 * a + i) (new a i)) m.acc,
    accPoison := (all.filter fun (a, i) => newBad a i).map fun (a, i) => 896 + 64 * a + i }

/-- Bytes of elements packed six bits each in blocks of 32 (R47), or one byte each. -/
def tileBytes (t6 : Bool) (xs : List Nat) : List Byte :=
  if t6 then (chunks 32 xs.length xs).flatMap fun g => leBytes 24 (pack 6 g) else xs.map (BitVec.ofNat 8)

/-- RQT's effect (R245): the slot as it is written, and the 128 destination scale bytes. -/
def MatrixUnit.runRqt (m : MatrixUnit) (o : MxOp) (free : Nat) (t6 : Bool) (w : Word) : MatrixUnit × List Byte :=
  let f := if t6 then MxFmt.t6 else .t8
  let tp := if t6 then Taper.t6 else .t8
  let read := m.byteFor o free
  let x (i j : Nat) : FVal :=
    let e := (o.scaleA.getD (2 * i + j / 32) 0).toNat
    match f.elem read (4096 * slotA w) 64 i j with
    | .nan => .nan
    | v => if e = 255 then .nan else match v with | .fin d => .fin (d.scale ((e : Int) - 127)) | v => v
  let blocks := (natsFrom 0 64).flatMap fun j => (natsFrom 0 2).map fun ib =>
    let xs := (natsFrom (32 * ib) 32).map fun i => x i j
    let e := blockScale xs
    (e, xs.map (scaledEncode tp e))
  let m1 := m.putSlot (4096 * slotB w) (tileBytes t6 (blocks.flatMap Prod.snd)) (o.scalePoison || m.slotsPoisoned [slotA w])
  (m1, blocks.map fun b => BitVec.ofNat 8 b.1)

/-! ## Beginning an entry (R234, R242, R370) -/

/-- Near stores of a berth that others may not see yet: held ones, its open buffer, or its trackers' (R234). The later ones among them touch none
of the bytes: those accesses wait. -/
def State.ownItemsOf (s : State) (i : Issuer) : List Item :=
  let t := s.tile i.tile
  ((t.held.filter fun h => h.issuer.berth == i.berth).flatMap Held.items) ++
  ((t.trackers.filter fun x => x.issuer.berth == i.berth && !x.committed && (x.issuer.same i || x.issuer.age < i.age)).flatMap Tracker.buf) ++
  ((s.task? i).map Ctx.buf).getD []

/-- Slice bytes as the unit reads them: the berth's own view for its instructions, the tile's for the others (R216, R234). -/
def State.scaleBytes (s : State) (n : Nat) (o : MxOp) (runs : List (Nat × Nat)) : List Byte × Bool :=
  let items := if o.ownView then s.ownItemsOf o.issuer else []
  (runs.flatMap fun r => (natsFrom r.1 r.2).map fun a => overlay (Mem.read s.mem (slicePa n a)) a items,
   runs.any fun r => (natsFrom r.1 r.2).any fun a => s.memPoison.contains (slicePa n a / 8) && !(items.any fun i => (i.covers a).isSome))

/-- Cycles an operation occupies the unit (R240, R242, R243, R245). -/
def MxOp.cycles (o : MxOp) : Nat :=
  match o.kind with
  | .mma _ _ _ g =>
    let p := min (MxFmt.ofCode o.cr.fmta).rate (MxFmt.ofCode o.cr.fmtb).rate
    (64 * o.cr.columns * geoK g + p - 1) / p
  | .sfill _ _ d => moveCycles d.length
  | _ => 64

/-- Completion after the occupancy: a tile operation's comes 8 cycles later (R242). -/
def MxOp.tail (o : MxOp) : Nat := match o.kind with | .mma .. => 8 | _ => 0

/-- The first entry that has not begun, where nothing ahead of it has still to write what it may read. -/
def nextEntry : List MxOp → Option MxOp
  | [] => none
  | o :: os => if o.doneAt.isNone then some o else match o.kind with
    | .rqt .. => none
    | .sfill .. => none
    | _ => nextEntry os

/-- The runs of scale bytes of A, or of RQT's source, and of B (R241, R245). -/
def MxOp.scaleSources (o : MxOp) : List (Nat × Nat) × List (Nat × Nat) :=
  match o.kind with
  | .mma _ _ _ g =>
    let nb := geoK g / 32
    (if o.cr.fmta.getLsbD 3 then wrapRuns o.cr.scla.toNat (64 * nb) else [],
     if o.cr.fmtb.getLsbD 3 then wrapRuns o.cr.sclb.toNat (o.cr.columns * nb) else [])
  | .rqt _ _ g => (wrapRuns (g.toNat % 2 ^ 17) 128, [])
  | _ => ([], [])

/-- An operation with its scale bytes as they stand (R370): an instruction's are read when the unit begins it, a remote command's at its
acceptance, and an EOP's at its firing. -/
def State.sampled (s : State) (n : Nat) (o : MxOp) : MxOp :=
  let (a, pa) := s.scaleBytes n o o.scaleSources.1
  let (b, pb) := s.scaleBytes n o o.scaleSources.2
  { o with scaleA := a, scaleB := b, scalePoison := pa || pb }

/-- MATRIX_QUEUE_EXECUTE (R242): the unit begins its next entry; one that reads the slice waits for a VSCT (R182). -/
def execMatrixQueueExecute (tile : Nat) (s : State) : Out :=
  let m := (s.tile tile).mx
  match nextEntry m.queue with
  | none => .next s
  | some o =>
    if s.now < m.freeAt then .next (s.mxKick tile)
    else if o.ownView = true ∧ o.scaleSources ≠ ([], []) ∧ s.now < (s.tile tile).sliceHeld then
      .next (s.atCycle (s.tile tile).sliceHeld (.matrixQueueExecute tile))
    else
      let o := if o.ownView then s.sampled tile o else o
      let stop := s.now + o.cycles
      let begun := { o with doneAt := some (stop + o.tail) }
      let s := s.modTile tile fun t => { t with mx := { t.mx with
        freeAt := stop, queue := t.mx.queue.map fun x => if x.id = o.id then begun else x } }
      .next ((s.atCycle (stop + o.tail) (.tileOperationComplete tile)).mxKick tile)

/-! ## Completing an entry (R242, R245, R248, R250) -/

/-- The destination scale bytes of an RQT become stores of its task: in its open segment or buffer while it runs, with its tracker's work
after it has ended (R245). -/
def State.storeScales (s : State) (n : Nat) (o : MxOp) (dst : Nat) (bs : List Byte) : State :=
  let runs := wrapRuns dst 128
  let items := (runs.foldl (fun (acc : List Item × Nat) r => (acc.1 ++ [.rqtScales r.1 ((bs.drop acc.2).take r.2)], acc.2 + r.2)) ([], 0)).1
  match s.task? o.issuer with
  | some _ => s.modTask o.issuer fun c => { c with buf := c.buf ++ items }
  | none =>
    if o.issuer.ordered then
      let more (x : Tracker) : Tracker :=
        if x.issuer.same o.issuer && !x.committed && !x.aborted then { x with buf := x.buf ++ items } else x
      s.modTile n fun t => { t with trackers := t.trackers.map more }
    else s.commitUnit o.issuer items

/-- An operation of an EOP has done its part: it counts the bytes it moved (R250). -/
def State.parentDone (s : State) (n : Nat) (id bytes : Nat) (bad : Bool) : State :=
  (s.modOp n id fun x => { x with stage := .running bytes s.now, counts := bytes, poison := x.poison || bad }).once (.engineOperationComplete n id)

/-- The target's reply to a remote command (R248, R249): the reason of a refusal, or 0. -/
def State.replyRemote (s : State) (n flight reason : Nat) : State :=
  match s.flight? flight with
  | none => s
  | some f =>
    let (bar, tag) := match f.kind with
      | .message m => (fieldAt m.payload 4 4 % 2 ^ 17, s.nearTag n m.ctxnum)
      | .mxReply tile bar _ => (bar, tile)
      | _ => (0, 0)
    let s := s.modFlight flight fun f => { f with kind := .mxReply tag bar reason, left := 1, performed := true }
    s.inject n f.issuer.tile 9 f.issuer.ctxnum 8 0 false (.response flight 0)

/-- What an operation changes when it completes. -/
def State.mxPerform (s : State) (n : Nat) (o : MxOp) : State :=
  let modMx (f : MatrixUnit → MatrixUnit) : State := s.modTile n fun t => { t with mx := f t.mx }
  match o.kind with
  | .mma zero t w g =>
    let bad := o.scalePoison || (s.tile n).mx.slotsPoisoned o.slots
    let s := modMx fun m => m.runMma o s.steps zero t w g
    match o.parent with
    | some id => s.parentDone n id ((MxFmt.ofCode o.cr.fmta).runBytes 64 (geoK g) + (MxFmt.ofCode o.cr.fmtb).runBytes o.cr.columns (geoK g)) bad
    | none => s
  | .macc fn => modMx fun m => m.runMacc o.cr fn
  | .rqt t6 w g =>
    let (m, bs) := (s.tile n).mx.runRqt o s.steps t6 w
    (s.modTile n fun t => { t with mx := m }).storeScales n o (g.toNat / 2 ^ 32 % 2 ^ 17) bs
  | .sfill k off d => modMx fun m => m.putSlot (4096 * k + off) d false
  | .drain t id =>
    let m := (s.tile n).mx
    let bad := m.accPoison.filter fun r => (accRows t).contains r
    let ps := bad.flatMap fun r => natsFrom ((r - 896 - 64 * t) * 32) 32
    let out : Option (Nat × Nat) := (s.op? n id).bind fun x => (match x.kind with | .eop _ _ _ map _ _ => (RingMap.of map).out | _ => none)
    match out with
    | some (k, _) => (s.ringPut o.issuer n k (accBytes m.acc t 64) ps).parentDone n id 16384 (!ps.isEmpty)
    | none => s

/-- TILE_OPERATION_COMPLETE (R242): the oldest entry completes once its time has come. -/
def execTileOperationComplete (tile : Nat) (s : State) : Out :=
  match (s.tile tile).mx.queue with
  | [] => .next s
  | o :: rest =>
    match o.doneAt with
    | none => .next s
    | some d =>
      if s.now < d then .next s
      else
        let s := s.mxPerform tile o
        let s := s.modTile tile fun t => { t with mx := { t.mx with queue := t.mx.queue.filter fun x => x.id != o.id } }
        let s := match o.reply with | some f => s.replyRemote tile f 0 | none => s
        let s := match rest with
          | x :: _ => if x.doneAt.any fun d => decide (d ≤ s.now) then s.once (.tileOperationComplete tile) else s
          | [] => s
        .next (((s.shadowKick tile).mxKick tile).kick tile)

/-! ## Remote commands (R247 to R249, R367) -/

/-- The layout of a remote command (R247). -/
def remoteLayout (bs : List Byte) : Bool :=
  let op := fieldAt bs 0 1
  let fn := fieldAt bs 1 1
  let fmt (x : Nat) : Bool := decide (x < 16 ∧ x % 8 ≤ 5)
  let g := wordAt bs 0x18
  decide (op < 3 ∧ (if op = 2 then fn < 5 else fn < 2)) && fmt (fieldAt bs 2 1) && fmt (fieldAt bs 3 1) && barField (fieldAt bs 4 4) &&
  decide (fieldAt bs 0x10 8 < 256 ∧ fieldAt bs 0x18 8 < 4096 ∧ fieldAt bs 0x20 4 < 2 ^ 17 ∧ fieldAt bs 0x24 4 < 2 ^ 17) &&
  (decide (op = 2) || geoOk g) && zerosAt bs 0x28 24

/-- The controls a remote command runs with: the record's formats and offsets, the holder's ACCMODE (R248, R370). -/
def remoteRegs (bs : List Byte) (accmode : BitVec 2) : CRegs :=
  { fmta := BitVec.ofNat 4 (fieldAt bs 2 1), fmtb := BitVec.ofNat 4 (fieldAt bs 3 1), scla := BitVec.ofNat 17 (fieldAt bs 0x20 4),
    sclb := BitVec.ofNat 17 (fieldAt bs 0x24 4), accmode := accmode }

/-- The reason for which a target refuses a command: 0 where it accepts it (R248). -/
def Tile.remoteReason (t : Tile) (bs : List Byte) (cr : CRegs) : Nat :=
  let slots := mmaSlots cr (wordAt bs 0x10) (wordAt bs 0x18)
  if wordAt bs 8 ≠ t.mcapkey ∨ t.mcapkey = 0 then 1
  else if t.mx.holder.isNone ∨ t.mx.draining = true then 2
  else if fieldAt bs 0 1 < 2 ∧ remoteLayout bs = true ∧ (lowestMissing t.mx.claims (slots.1 ++ slots.2)).isSome = true then 3
  else if remoteLayout bs then 0 else 4

/-- A remote command at its target: refused at once, or in the queue as the holder's own would be; it waits for room and the curb (R372). -/
def State.remoteCommand (s : State) (flight : Nat) (event : Event) : State :=
  match s.flight? flight with
  | none => s
  | some f => match f.kind with
    | .message m =>
      if f.left ≠ 0 || s.messageBefore f m then s
      else
        let n := m.destTile
        let t := s.tile n
        let bs := m.payload
        let holder := t.mx.holder.bind fun b => (t.berth b).ctx
        let cr := remoteRegs bs ((holder.map fun c => c.cr.accmode).getD 0)
        let reason := t.remoteReason bs cr
        let curb := decide (fieldAt bs 0 1 < 2)
        let key := 4 + 2 * flight
        if reason ≠ 0 then (s.replyRemote n flight reason).nextMessages f m
        else if !t.mxLate s.now then s.atCycle (s.now + 1) event
        else if curb && !t.curbRoom then (s.modTile n fun t => t.curbStall key).atCycle (s.now + 1) event
        else
          let w := wordAt bs 0x10
          let g := wordAt bs 0x18
          let slots := mmaSlots cr w g
          let kind : MxKind := match fieldAt bs 0 1 with
            | 0 => .mma false (fieldAt bs 1 1) w g
            | 1 => .mma true (fieldAt bs 1 1) w g
            | _ => .macc (fieldAt bs 1 1)
          let o : MxOp :=
            { id := 0, kind := kind, cr := cr, issuer := f.issuer, ownView := false, reply := some flight,
              slots := if curb then slots.1 ++ slots.2 else [] }
          let s := (s.mxEnter n (s.sampled n o) (if curb then some key else none) (s.now - 1)).modFlight flight fun f =>
            { f with kind := .mxReply (s.nearTag n m.ctxnum) (fieldAt bs 4 4 % 2 ^ 17) 0, left := 1 }
          s.nextMessages f m
    | _ => s

/-- REMOTE_MMA (R248). -/
def execRemoteMma (flight : Nat) (s : State) : Out := .next (s.remoteCommand flight (.remoteMma flight))

/-- REMOTE_MMAZ (R248). -/
def execRemoteMmaz (flight : Nat) (s : State) : Out := .next (s.remoteCommand flight (.remoteMmaz flight))

/-- REMOTE_MACC (R248). -/
def execRemoteMacc (flight : Nat) (s : State) : Out := .next (s.remoteCommand flight (.remoteMacc flight))

/-- REMOTE_COMMAND_REPLY (R248, R249). -/
def execRemoteCommandReply (flight : Nat) (s : State) : Out :=
  match s.flight? flight with
  | none => .next s
  | some f => match f.kind with
    | .mxReply tile bar reason =>
      if !f.performed then .next s
      else
        let i := f.issuer
        let s := s.dropFlight flight
        let s := if reason = 0 then s else s.modTile i.tile fun t => { t with mx := { t.mx with refusals := t.mx.refusals ++ [(bar, tile, reason)] } }
        .next ((s.arrive i.tile bar 64 i false).atCycle s.now (.releaseHoldEnd i.tile))
    | _ => .next s

/-! ## Ring-fed operations at their firing (R250, R372) -/

/-- A remote command that has arrived and waits to enter the queue of a tile. -/
def State.remoteWaits (s : State) (n : Nat) : Bool :=
  s.flights.any fun f => match f.kind with
    | .message m => m.kind == 5 && m.destTile == n && f.left == 0
    | _ => false

/-- A firing of the matrix unit gives way to remote commands and to firings that were accepted before it (R372). -/
def State.firesLater (s : State) (n : Nat) (o : EngineOp) : Bool :=
  s.remoteWaits n || (s.firing n (s.tile n).ops []).any fun x => x.eng == 1 && decide (x.order < o.order)

/-- The matrix unit's firing: elements go into the runs and the tile operation into the queue, or a drain joins it. -/
def State.fireMatrix (s : State) (n : Nat) (o : EngineOp) (fn : Nat) (w g map : Word) (cr : CRegs) : State :=
  let t := s.tile n
  let m := RingMap.of map
  let event : Event := .ringOperationFiring n o.id
  let curb := decide (fn = 0)
  let key := 5 + 2 * o.id
  if !t.mxLate s.now || s.firesLater n o then s.atCycle (s.now + 1) event
  else if curb && !t.curbRoom then (s.modTile n fun t => t.curbStall key).atCycle (s.now + 1) event
  else
    let base : MxOp := { id := 0, kind := .drain (w.toNat % 2) o.id, cr := cr, issuer := o.issuer, ownView := false, parent := some o.id }
    let s := s.modOp n o.id fun x => { x with stage := .running 0 0 }
    match fn, m.in0, m.in1 with
    | 0, some (ka, ca), some (kb, cb) =>
      let (ba, pa) := s.ringBytes n ka ca
      let (bb, pb) := s.ringBytes n kb cb
      let s := if pa.isEmpty && pb.isEmpty then s else s.metPoison n o (s.ringPtr n o.issuer.ctxnum (if pa.isEmpty then kb else ka))
      let s := s.modTile n fun t => { t with mx :=
        (t.mx.putSlot (4096 * slotA w) ba (!pa.isEmpty)).putSlot (4096 * slotB w) bb (!pb.isEmpty) }
      let slots := mmaSlots cr w g
      let s := (s.moveRing n ka (BitVec.ofNat 32 ca) false).moveRing n kb (BitVec.ofNat 32 cb) false
      let o := s.sampled n { base with kind := .mma false (if w.getLsbD 8 then 1 else 0) w g, slots := slots.1 ++ slots.2 }
      s.mxEnter n o (some key) (s.now - 1)
    | _, _, _ => s.mxEnter n base none (s.now - 1)

/-! ## The instructions -/

/-- SCLAIM (R238). -/
def execSclaim (a : BitVec 7) (sc : BitVec 3) (s : State) : Out := runView (slotClaim a sc) s

/-- SRELS (R239). -/
def execSrels (a : BitVec 7) (sc : BitVec 3) (s : State) : Out := runView (slotRelease a sc) s

/-- SFILL (R240). -/
def execSfill (a : BitVec 7) (b : BitVec 7) (sc : BitVec 3) (s : State) : Out := runView (slotFill a b sc) s

/-- MMA (R241). -/
def execMma (tl : BitVec 1) (a : BitVec 7) (b : BitVec 7) (sc : BitVec 3) (s : State) : Out := runView (tileOp false tl a b sc) s

/-- MMAZ (R241). -/
def execMmaz (tl : BitVec 1) (a : BitVec 7) (b : BitVec 7) (sc : BitVec 3) (s : State) : Out := runView (tileOp true tl a b sc) s

/-- MACC, FN 0 (R243). -/
def execMaccAddAt1ToAt0 (sc : BitVec 3) (s : State) : Out := runView (maccOp 0 sc) s

/-- MACC, FN 1 (R243). -/
def execMaccAddAt0ToAt1 (sc : BitVec 3) (s : State) : Out := runView (maccOp 1 sc) s

/-- MACC, FN 2 (R243). -/
def execMaccZeroAt0 (sc : BitVec 3) (s : State) : Out := runView (maccOp 2 sc) s

/-- MACC, FN 3 (R243). -/
def execMaccZeroAt1 (sc : BitVec 3) (s : State) : Out := runView (maccOp 3 sc) s

/-- MACC, FN 4 (R243). -/
def execMaccExchange (sc : BitVec 3) (s : State) : Out := runView (maccOp 4 sc) s

/-- MSTAT, FN 0 (R244). -/
def execMstatClaimed (sc : BitVec 3) (s : State) : Out := runView (matrixStatus false sc) s

/-- MSTAT, FN 1 (R244). -/
def execMstatInFlight (sc : BitVec 3) (s : State) : Out := runView (matrixStatus true sc) s

/-- RQT (R245). -/
def execRqt (fn : BitVec 1) (a : BitVec 7) (b : BitVec 7) (sc : BitVec 3) (s : State) : Out := runView (requantize fn a b sc) s

/-- MCAP (R246). -/
def execMcap (a : BitVec 7) (b : BitVec 7) (sc : BitVec 3) (s : State) : Out := runView (matrixCapability a b sc) s

/-- MREM (R248). -/
def execMrem (a : BitVec 7) (b : BitVec 7) (sc : BitVec 3) (s : State) : Out := runView (matrixRemote a b sc) s

/-- EOP, ENG 1, FN 0 (R250). -/
def execEopMatrixTileOperation (a : BitVec 7) (b : BitVec 7) (sc : BitVec 3) (s : State) : Out := runView (eopTile a b sc) s

/-- EOP, ENG 1, FN 1 (R250). -/
def execEopAccumulatorDrain (a : BitVec 7) (b : BitVec 7) (sc : BitVec 3) (s : State) : Out := runView (eopDrain a b sc) s

end Sys2Proof.Machine
end

