-- ==== Sys2Proof/Machine/Special.lean ====
section
/-!
DEFINITION. The special functions (R170): each result is the exact value rounded once. The quotient and the roots are exact in Float;
the five functions here are irrational at every finite argument but the exact cases each handles first, so an approximation whose error
is far below the distance of any value to a rounding boundary of the three formats rounds as the exact value does.
-/
namespace Sys2Proof.Machine

/-- Fraction bits of the fixed-point numbers below (DESIGN CHOICE: any number of bits that separates values from
rounding boundaries gives the same results). -/
def fxBits : Nat := 544
def fxOne : Nat := 2 ^ fxBits

/-- pi in fixed point. -/
def fxPi : Nat := 0x3243f6a8885a308d313198a2e03707344a4093822299f31d0082efa98ec4e6c89452821e638d01377be5466cf34e90c6cc0ac29b7c97c50dd3f84d5b5b54709179216d5d9
/-- ln 2 in fixed point. -/
def fxLn2 : Nat := 0xb17217f7d1cf79abc9e3b39803f2f6af40f343267298b62d8a0d175b8baafa2be7b876206debac98559552fb4afa1b10ed2eae35c138214427573b291169b8253e96ca16

def fxMul (x y : Nat) : Nat := x * y / fxOne

/-- The series of e^y, from the term y^k / k!. -/
def expSeries (y : Nat) : Nat → Nat → Nat → Nat
  | 0, _, _ => 0
  | n + 1, k, term => term + expSeries y n (k + 1) (fxMul term y / (k + 1))

/-- e^y of a fixed-point y below 1. -/
def fxExp (y : Nat) : Nat := expSeries y 140 0 fxOne

/-- The even or odd series of cosine and sine, from a term: alternate signs, two factors a step. -/
def trigSeries (y2 : Nat) : Nat → Nat → Int → Int
  | 0, _, _ => 0
  | n + 1, k, term => term - trigSeries y2 n (k + 2) (term * y2 / fxOne / ((k + 1) * (k + 2)))

/-- sin y and cos y of a fixed-point y of at most 2. -/
def fxSin (y : Nat) : Nat := (trigSeries (fxMul y y) 80 1 y).toNat
def fxCos (y : Nat) : Nat := (trigSeries (fxMul y y) 80 0 fxOne).toNat

/-- The series of atanh z, from the term z^k. -/
def atanhSeries (z2 : Nat) : Nat → Nat → Nat → Nat
  | 0, _, _ => 0
  | n + 1, k, term => term / k + atanhSeries z2 n (k + 2) (fxMul term z2)

/-- ln of a fixed-point x in 1 to 2. -/
def fxLn (x : Nat) : Nat :=
  let z := (x - fxOne) * fxOne / (x + fxOne)
  2 * atanhSeries (fxMul z z) 190 1 z

/-- A positive fixed-point value that is known not to be exact, marked so for one rounding. -/
def fxInexact (v : Nat) (k : Int) : Dy := ⟨2 * v + 1, k - fxBits - 1⟩

/-- The fixed-point fraction of a non-negative dyadic below 2^8; lower bits are cut. -/
def Dy.toFx (v : Dy) : Nat :=
  let k : Int := v.e + fxBits
  if 0 ≤ k then v.m.toNat * pow2 k else v.m.toNat / pow2 (-k)

/-- The integer at or below a dyadic, and what is left. -/
def Dy.floor (v : Dy) : Int := if 0 ≤ v.e then v.m * (pow2 v.e : Int) else v.m / (pow2 (-v.e) : Int)
def Dy.frac (v : Dy) : Dy := v.sub (Dy.ofInt v.floor)

/-- VEXP2. Past the exponent range of every format the value is cut to 2^400 or 2^-400, which rounds alike. -/
def FVal.exp2 : FVal → FVal
  | .nan => .nan
  | .inf true => .zero false
  | .inf false => .inf false
  | .zero _ => .fin ⟨1, 0⟩
  | .fin v =>
    if (Dy.ofInt 400).lt v then .fin ⟨1, 400⟩
    else if v.lt (Dy.ofInt (-400)) then .fin ⟨1, -400⟩
    else
      let n := v.floor
      let f := v.frac
      if f.m == 0 then .fin ⟨1, n⟩ else .fin (fxInexact (fxExp (fxMul f.toFx fxLn2)) n)

/-- VLOG2. -/
def FVal.log2 : FVal → FVal
  | .nan => .nan
  | .inf true => .nan
  | .inf false => .inf false
  | .zero _ => .inf true
  | .fin v =>
    if v.m < 0 then .nan
    else
      let l := Nat.log2 v.m.toNat
      let n : Int := v.e + l
      if v.m.toNat == 2 ^ l then (if n == 0 then .zero false else .fin (Dy.ofInt n))
      else
        let x := v.m.toNat * fxOne / 2 ^ l
        let y : Int := n * fxOne + (fxLn x * fxOne / fxLn2 : Nat)
        .fin (if y < 0 then (fxInexact (y.natAbs - 1) 0).neg else fxInexact y.toNat 0)

/-- The argument of a half-turn function reduced modulo 2 to [0, 2), as a dyadic. -/
def halfTurns (v : Dy) : Dy :=
  if 1 ≤ v.e then ⟨0, 0⟩ else ⟨v.m % (pow2 (1 - v.e) : Int), v.e⟩

/-- sin(pi x) of x in [0, 1], not at an end. -/
def fxSinPi (x : Dy) : Dy :=
  let y := if (⟨1, -1⟩ : Dy).lt x then (Dy.ofInt 1).sub x else x
  if y == ⟨1, -1⟩ || (y.sub ⟨1, -1⟩).m == 0 then ⟨1, 0⟩ else fxInexact (fxSin (fxMul y.toFx fxPi)) 0

/-- VSIN: sin(pi a). -/
def FVal.sinPi : FVal → FVal
  | .nan => .nan
  | .inf _ => .nan
  | .zero n => .zero n
  | .fin v =>
    let a := v.abs
    let x := halfTurns a
    let neg := decide (v.m < 0)
    if x.frac.m == 0 then .zero neg
    else if x.lt (Dy.ofInt 1) then (let y := fxSinPi x; .fin (if neg then y.neg else y))
    else (let y := fxSinPi (x.sub (Dy.ofInt 1)); .fin (if neg then y else y.neg))

/-- cos(pi y) of y in (0, 1/2): the sine from 1/4 up keeps the small values exact. -/
def fxCosPi (y : Dy) : Dy :=
  if (⟨1, -2⟩ : Dy).lt y then fxInexact (fxSin (fxMul ((⟨1, -1⟩ : Dy).sub y).toFx fxPi)) 0
  else
    -- 1 - 2 sin^2(pi y / 2), below 1 however small y is
    fxInexact (min (fxCos (fxMul y.toFx fxPi)) (fxOne - 1)) 0

/-- VCOS: cos(pi a). -/
def FVal.cosPi : FVal → FVal
  | .nan => .nan
  | .inf _ => .nan
  | .zero _ => .fin ⟨1, 0⟩
  | .fin v =>
    let x := halfTurns v.abs
    let x := if (Dy.ofInt 1).lt x then (Dy.ofInt 2).sub x else x
    if x.m == 0 then .fin ⟨1, 0⟩
    else if (x.sub (Dy.ofInt 1)).m == 0 then .fin ⟨-1, 0⟩
    else if (x.sub ⟨1, -1⟩).m == 0 then .zero false
    else if x.lt ⟨1, -1⟩ then .fin (fxCosPi x)
    else .fin (fxCosPi ((Dy.ofInt 1).sub x)).neg

/-- e^-t of a non-negative dyadic t below 2^10. -/
def fxExpNeg (t : Dy) : Nat :=
  let q := t.toFx / fxLn2
  let r := t.toFx - q * fxLn2
  -- e^-t = 2^-(q+1) * e^(ln2 - r)
  fxExp (fxLn2 - r) / 2 ^ (q + 1)

/-- VTANH. -/
def FVal.tanh : FVal → FVal
  | .nan => .nan
  | .inf n => .fin ⟨if n then -1 else 1, 0⟩
  | .zero n => .zero n
  | .fin v =>
    let a := v.abs
    let t : Nat :=
      if (Dy.ofInt 300).lt a then fxOne - 1
      else
        let u := fxExpNeg (a.scale 1)
        Nat.min ((fxOne - u) * fxOne / (fxOne + u)) (fxOne - 1)
    let y := fxInexact t 0
    .fin (if v.m < 0 then y.neg else y)

end Sys2Proof.Machine
end

