-- ==== Sys2Proof/Machine/Expansion.lean ====
section
/-!
DEFINITION. The expansion unit (R22, R251 to R263): complex and harmonic arithmetic in f32, the expansion instructions, and near-field evaluation.
-/
namespace Sys2Proof.Machine

/-! ## f32 arithmetic (R252): each component is rounded once from its exact value -/

def f32Of (x : Nat) : FVal := fmtF32.decode x
def f32Bits (v : FVal) : Nat := fmtF32.encode .rne v
/-- A value rounded to f32. -/
def f32Round (v : FVal) : FVal := f32Of (f32Bits v)

/-- A complex value whose parts are f32 values. -/
structure Cx where
  re : FVal
  im : FVal
  deriving DecidableEq, Repr

def Cx.zero : Cx := ⟨.zero false, .zero false⟩
def Cx.one : Cx := ⟨.fin ⟨1, 0⟩, .zero false⟩
def Cx.nan : Cx := ⟨.nan, .nan⟩
def Cx.conj (x : Cx) : Cx := ⟨x.re, x.im.negate⟩
def Cx.negate (x : Cx) : Cx := ⟨x.re.negate, x.im.negate⟩
def Cx.round (x : Cx) : Cx := ⟨f32Round x.re, f32Round x.im⟩

def exactAdd (a b : FVal) : FVal := a.add .rne b
def exactSub (a b : FVal) : FVal := a.sub .rne b
/-- An integer as a value. -/
def intVal (n : Nat) : FVal := if n = 0 then .zero false else .fin ⟨n, 0⟩

def cadd (x y : Cx) : Cx := Cx.round ⟨exactAdd x.re y.re, exactAdd x.im y.im⟩
def csub (x y : Cx) : Cx := Cx.round ⟨exactSub x.re y.re, exactSub x.im y.im⟩
def cmul (x y : Cx) : Cx := Cx.round ⟨exactSub (x.re.mul y.re) (x.im.mul y.im), exactAdd (x.re.mul y.im) (x.im.mul y.re)⟩
/-- x + y z, with complex y. -/
def cfma (x y z : Cx) : Cx :=
  Cx.round ⟨exactSub (exactAdd x.re (y.re.mul z.re)) (y.im.mul z.im), exactAdd (exactAdd x.im (y.re.mul z.im)) (y.im.mul z.re)⟩
/-- x + t z, with real t. -/
def sfma (x : Cx) (t : FVal) (z : Cx) : Cx := Cx.round ⟨exactAdd x.re (t.mul z.re), exactAdd x.im (t.mul z.im)⟩
/-- t z, with real t. -/
def cscale (t : FVal) (z : Cx) : Cx := Cx.round ⟨t.mul z.re, t.mul z.im⟩
/-- z / t, with real t. -/
def cdiv (z : Cx) (t : FVal) : Cx := Cx.round ⟨z.re.div t, z.im.div t⟩

def FVal.isZero : FVal → Bool
  | .zero _ => true
  | _ => false

def crecip (t : Cx) : Cx :=
  let n := f32Round (exactAdd (t.re.mul t.re) (t.im.mul t.im))
  if n.isZero then Cx.nan else Cx.round ⟨t.re.div n, t.im.negate.div n⟩

/-! ### The logarithm (R252) -/

/-- The alternating series of atan z, from the term z^k. -/
def atanSeries (z2 : Nat) : Nat → Nat → Nat → Int
  | 0, _, _ => 0
  | n + 1, k, term => (term / k : Nat) - atanSeries z2 n (k + 2) (fxMul term z2)

/-- z / (1 + sqrt (1 + z^2)): the tangent of half the angle. -/
def halfAngle (z : Nat) : Nat := z * fxOne / (fxOne + isqrt (fxOne * fxOne + z * z))

/-- atan of a fixed-point z of at most 1: three halvings, then the series. -/
def fxAtan (z : Nat) : Nat :=
  let h := halfAngle (halfAngle (halfAngle z))
  8 * (atanSeries (fxMul h h) 90 1 h).toNat

/-- y / x of positive dyadics, in fixed point. -/
def fxRatio (y x : Dy) : Nat :=
  let k : Int := y.e - x.e + fxBits
  if 0 ≤ k then y.m.toNat * pow2 k / x.m.toNat else y.m.toNat / (x.m.toNat * pow2 (-k))

/-- The angle of a point with positive coordinates, in fixed point. -/
def fxAngle (x y : Dy) : Nat := if y.le x then fxAtan (fxRatio y x) else fxPi / 2 - fxAtan (fxRatio x y)

/-- arg of a value other than zero, in (-pi, pi]; no part is NaN. An infinite part points along its axis, two along the diagonal. -/
def cArg (t : Cx) : FVal :=
  let neg := t.im.isNeg
  let sign (v : Dy) : FVal := .fin (if neg then v.neg else v)
  let mirror (a : Nat) : Nat := if t.re.isNeg then fxPi - a else a
  match t.re, t.im with
  | .inf _, .inf _ => sign (fxInexact (mirror (fxPi / 4)) 0)
  | .inf true, .zero _ => .fin (fxInexact fxPi 0)
  | .inf true, _ => sign (fxInexact fxPi 0)
  | .inf false, _ => .zero neg
  | _, .inf _ => sign (fxInexact (fxPi / 2) 0)
  | re, .zero _ => if re.isNeg then .fin (fxInexact fxPi 0) else .zero neg
  | .zero _, _ => sign (fxInexact (fxPi / 2) 0)
  | re, im => sign (fxInexact (mirror (fxAngle re.dy.abs im.dy.abs)) 0)

/-- log |t| of a value other than zero, half the logarithm of the exact square; no part is NaN. -/
def cLogAbs (t : Cx) : FVal :=
  match exactAdd (t.re.mul t.re) (t.im.mul t.im) with
  | .fin v =>
    let l := Nat.log2 v.m.toNat
    let n : Int := v.e + l
    if v.m.toNat = 2 ^ l ∧ n = 0 then .zero false
    else
      let y : Int := n * fxLn2 + (fxLn (v.m.toNat * fxOne / 2 ^ l) : Nat)
      .fin (if y < 0 then (fxInexact (y.natAbs - 1) (-1)).neg else fxInexact y.toNat (-1))
  | _ => .inf false

def FVal.isNan : FVal → Bool
  | .nan => true
  | _ => false

def clog (t : Cx) : Cx :=
  if t.re.isNan || t.im.isNan || (t.re.isZero && t.im.isZero) then Cx.nan else Cx.round ⟨cLogAbs t, cArg t⟩

/-- The bits of a complex value: the real part in [31:0]. -/
def Cx.word (x : Cx) : Word := BitVec.ofNat 64 (f32Bits x.im * 2 ^ 32 + f32Bits x.re)

/-! ## Points, centres and coefficients (R22, R251, R252) -/

/-- A point. -/
structure Point where
  x : FVal
  y : FVal
  z : FVal
  deriving DecidableEq, Repr

def lowF32 (w : Word) : FVal := f32Of (w.toNat % 2 ^ 32)
def highF32 (w : Word) : FVal := f32Of (w.toNat / 2 ^ 32)

/-- The point of a word pair: x and y in a, z in the low half of b. -/
def pointOf (a b : Word) : Point := ⟨lowF32 a, highF32 a, lowF32 b⟩

def diff (p c : Point) : Point := ⟨f32Round (exactSub p.x c.x), f32Round (exactSub p.y c.y), f32Round (exactSub p.z c.z)⟩
/-- diff2: a complex value, z ignored. -/
def Point.flat (p : Point) : Cx := ⟨p.x, p.y⟩
def diff2 (p c : Point) : Cx := (diff p c).flat

/-- Engine register n of the expansion unit. -/
def Tile.xreg (t : Tile) (n : Nat) : Word := (t.eregs[(3 : Fin 5)])[Fin.ofNat 8 n]
def Tile.centreA (t : Tile) : Point := pointOf (t.xreg 1) (t.xreg 2)
def Tile.centreB (t : Tile) : Point := pointOf (t.xreg 3) (t.xreg 4)

/-- The 256 entries of a register. -/
def entriesOf (e : BitVec 8192) : List FVal := (unpack 32 256 e.toNat).map f32Of

/-- Replaces entry i. -/
def setEntry : List FVal → Nat → FVal → List FVal
  | [], _, _ => []
  | _ :: l, 0, v => v :: l
  | x :: l, i + 1, v => x :: setEntry l i v

def pairUp : List FVal → List Cx
  | a :: b :: l => ⟨a, b⟩ :: pairUp l
  | _ => []

/-- Coefficients 0 to p of kind 0. -/
def coefs (es : List FVal) (p : Nat) : List Cx := (pairUp es).take (p + 1)
/-- The entries with the first coefficients of kind 0 replaced; the others stay. -/
def putCoefs (es : List FVal) (cs : List Cx) : List FVal := cs.flatMap (fun c => [c.re, c.im]) ++ es.drop (2 * cs.length)

/-- Adds values to the first coefficients. -/
def addCoefs (es : List FVal) (cs : List Cx) : List FVal := putCoefs es (List.zipWith cadd (pairUp es) cs)

/-! ## Kind 0 (R254 to R258) -/

/-- XFORM. -/
def form0 (p : Nat) (src : Point) (q : FVal) (a : Point) (es : List FVal) : List FVal :=
  let w := diff2 src a
  match coefs es p with
  | [] => es
  | c :: cs =>
    let step (acc : List Cx × Cx × Nat) (x : Cx) : List Cx × Cx × Nat :=
      (acc.1 ++ [sfma x (f32Round (q.negate.div (intVal acc.2.2))) acc.2.1], cmul acc.2.1 w, acc.2.2 + 1)
    putCoefs es (⟨f32Round (exactAdd c.re q), c.im⟩ :: (cs.foldl step ([], w, 1)).1)

/-- One pass of XSHIFT: v[j] := v[j] + d v[j-1] for every j above i, from the highest down. -/
def shiftPass (d : Cx) (i : Nat) (v : List Cx) : List Cx :=
  v.take (i + 1) ++ List.zipWith (fun x y => cfma x d y) (v.drop (i + 1)) (v.drop i)

/-- XSHIFT. -/
def shift0 (p : Nat) (d : Cx) (v : List Cx) : List Cx :=
  let v := (natsFrom 1 (p - 1)).foldl (fun v i => shiftPass d i v) v
  match v with
  | [] => []
  | v0 :: vs =>
    let step (acc : List Cx × Cx × Nat) (x : Cx) : List Cx × Cx × Nat :=
      (acc.1 ++ [sfma x (f32Round (v0.re.negate.div (intVal acc.2.2))) acc.2.1], cmul acc.2.1 d, acc.2.2 + 1)
    v0 :: (vs.foldl step ([], d, 1)).1

/-- A pass from the last coefficient down, each from its own value and its new successor. -/
def suffixPass (f : Cx → Cx → Cx) : List Cx → List Cx
  | [] => []
  | x :: xs => match suffixPass f xs with
    | [] => [x]
    | y :: ys => f x y :: y :: ys

/-- XLSHIFT. -/
def localShift0 (p : Nat) (s : Cx) (v : List Cx) : List Cx :=
  (natsFrom 0 p).foldl (fun v i => v.take i ++ suffixPass (fun x y => cfma x s y) (v.drop i)) v

/-- XCONV: the values that are added to coefficients 0 to p. -/
def conv0 (p : Nat) (t : Cx) (src : List Cx) : List Cx :=
  let a0 := src.headD Cx.zero
  let u := crecip t
  let nu := u.negate
  let w := (src.tail.foldl (fun (acc : List Cx × Cx) a => (acc.1 ++ [cmul a acc.2], cmul acc.2 u)) ([], u)).1
  let part (s a : FVal) (l : Nat) : FVal := f32Round ((exactSub (s.mul (intVal l)) a).div (intVal l))
  let step (acc : List Cx × List Cx × Cx) (l : Nat) : List Cx × List Cx × Cx :=
    let w := suffixPass cadd acc.2.1
    let s := w.headD Cx.zero
    if l = 0 then (acc.1 ++ [cfma s a0 (clog t)], w, acc.2.2)
    else
      let nl := cmul acc.2.2 nu
      (acc.1 ++ [cmul nl ⟨part s.re a0.re l, part s.im a0.im l⟩], w, nl)
  ((natsFrom 0 (p + 1)).foldl step ([], w, Cx.one)).1

/-- XEVAL. -/
def eval0 (w : Cx) (cs : List Cx) : Cx :=
  match cs.reverse with
  | [] => Cx.zero
  | y :: ys => ys.foldl (fun y e => cfma e y w) y

/-- XMEVAL. -/
def multiEval0 (w : Cx) (cs : List Cx) : Cx :=
  match cs with
  | [] => Cx.zero
  | [e0] => cmul e0 (clog w)
  | e0 :: es =>
    let u := crecip w
    let y := eval0 u es
    cfma (cmul y u) e0 (clog w)

/-! ## Kind 1 (R259, R260) -/

/-- Harmonics by degree, each with orders 0 to its degree. -/
abbrev Harm := List (List Cx)

/-- Order m of a degree, of either sign. -/
def orderOf (row : List Cx) (m : Int) : Cx :=
  let c := row.getD m.natAbs Cx.zero
  if 0 ≤ m then c else if m.natAbs % 2 = 1 then c.conj.negate else c.conj

def Harm.get (h : Harm) (n : Nat) (m : Int) : Cx := orderOf (h.getD n []) m

/-- Degrees 0 to p by a recurrence from the two degrees before; `h` holds the latest first. -/
def buildHarm (next : Nat → List Cx → List Cx → List Cx) : Nat → Nat → Harm → Harm
  | 0, _, h => h.reverse
  | k + 1, n, h => buildHarm next k (n + 1) (next n (h.headD []) (h.tail.headD []) :: h)

/-- rho := x^2 + y^2 + z^2, rounded once. -/
def rhoOf (d : Point) : FVal := f32Round (exactAdd (exactAdd (d.x.mul d.x) (d.y.mul d.y)) (d.z.mul d.z))

/-- Degree n of the regular harmonics. -/
def regularRow (d : Point) (n : Nat) (r1 r2 : List Cx) : List Cx :=
  let a := f32Round ((intVal (2 * n - 1)).mul d.z)
  let low := (natsFrom 0 n).map fun m =>
    cdiv (csub (cscale a (r1.getD m Cx.zero)) (cscale (rhoOf d) (if n < m + 2 then Cx.zero else r2.getD m Cx.zero)))
      (intVal ((n + m) * (n - m)))
  low ++ [cdiv (cmul d.flat (r1.getD (n - 1) Cx.zero)) (intVal (2 * n))]

def regular (p : Nat) (d : Point) : Harm := buildHarm (regularRow d) p 1 [[Cx.one]]

/-- Degree n of the irregular harmonics. -/
def irregularRow (d : Point) (n : Nat) (r1 r2 : List Cx) : List Cx :=
  let inv := f32Round (rhoOf d).rcp
  let a := f32Round ((intVal (2 * n - 1)).mul d.z)
  let low := (natsFrom 0 n).map fun m =>
    cscale inv (csub (cscale a (r1.getD m Cx.zero))
      (cscale (intVal ((n - 1) * (n - 1) - m * m)) (if n < m + 2 then Cx.zero else r2.getD m Cx.zero)))
  low ++ [cscale inv (cscale (intVal (2 * n - 1)) (cmul d.flat (r1.getD (n - 1) Cx.zero)))]

def irregular (p : Nat) (d : Point) : Harm := buildHarm (irregularRow d) p 1 [[⟨f32Round (rhoOf d).rsqrt, .zero false⟩]]

/-- Coefficients of kind 1 of order at most p. -/
def solidOf (es : List FVal) (p : Nat) : Harm :=
  (natsFrom 0 (p + 1)).map fun n => (natsFrom 0 (n + 1)).map fun m =>
    ⟨es.getD (n * n + n + m) (.zero false), if m = 0 then .zero false else es.getD (n * n + n - m) (.zero false)⟩

/-- Adds a value to each coefficient (n, m); the imaginary part of m = 0 is discarded. -/
def addSolid (es : List FVal) (p : Nat) (f : Nat → Nat → Cx) : List FVal :=
  let old := solidOf es p
  (natsFrom 0 (p + 1)).foldl (fun es n => (natsFrom 0 (n + 1)).foldl (fun es (m : Nat) =>
    let c := cadd (old.get n (m : Int)) (f n m)
    let es := setEntry es (n * n + n + m) c.re
    if m = 0 then es else setEntry es (n * n + n - m) c.im) es) es

/-- Orders -k to k. -/
def orders (k : Nat) : List Int := (natsFrom 0 (2 * k + 1)).map fun (i : Nat) => (i : Int) - k

/-- A sum over k from 0 to `top` and every order, a left fold from zero; a term whose order exceeds its degree is omitted. -/
def sumTerms (top : Nat) (term : Nat → Int → Option Cx) : Cx :=
  (natsFrom 0 (top + 1)).foldl (fun acc k => (orders k).foldl (fun acc l => match term k l with
    | some c => cadd acc c
    | none => acc) acc) Cx.zero

def form1 (p : Nat) (q : FVal) (d : Point) (es : List FVal) : List FVal :=
  let y := regular p d
  addSolid es p fun n m => cscale q (y.get n m)

def shift1 (p : Nat) (d : Point) (src : Harm) (es : List FVal) : List FVal :=
  let y := regular p d
  addSolid es p fun n m => sumTerms n fun k l =>
    if ((m : Int) - l).natAbs ≤ n - k then some (cmul (y.get k l) (src.get (n - k) (m - l))) else none

def conv1 (p : Nat) (d : Point) (src : Harm) (es : List FVal) : List FVal :=
  let th := irregular p d
  addSolid es p fun n m =>
    let s := sumTerms (p - n) fun k l =>
      if ((m : Int) + l).natAbs ≤ n + k then some (cmul (src.get k l).conj (th.get (n + k) (m + l))) else none
    if n % 2 = 1 then s.negate else s

def localShift1 (p : Nat) (d : Point) (src : Harm) (es : List FVal) : List FVal :=
  let y := regular p d
  addSolid es p fun n m => sumTerms (p - n) fun k l =>
    if ((m : Int) + l).natAbs ≤ n + k then some (cmul (src.get (n + k) (m + l)) (y.get k l).conj) else none

/-- The sum of the real parts of products over every degree and order. -/
def realSum (p : Nat) (term : Nat → Int → Cx) : FVal :=
  (natsFrom 0 (p + 1)).foldl (fun acc n => (orders n).foldl (fun acc m => f32Round (exactAdd acc (term n m).re)) acc) (.zero false)

def eval1 (p : Nat) (d : Point) (f : Harm) : FVal :=
  let y := regular p d
  realSum p fun n m => cmul (f.get n m) (y.get n m).conj

def multiEval1 (p : Nat) (d : Point) (f : Harm) : FVal :=
  let th := irregular p d
  realSum p fun n m => cmul (f.get n m).conj (th.get n m)

/-! ## Holding the unit (R22, R235, R236, R263) -/

/-- The order and the kind. -/
def Tile.xp (t : Tile) : Nat := t.xord.toNat

/-- XORD above the limit of its kind (R24). -/
def Tile.xordBad (t : Tile) : Bool := decide ((if t.xkind = 0 then 127 else 15) < t.xord.toNat)

/-- XTHETA strictly between 0 and 1 (R24). -/
def Tile.xthetaOk (t : Tile) : Bool :=
  let th := f32Of t.xtheta.toNat
  th.cmp (.zero false) == some 1 && th.cmp (.fin ⟨1, 0⟩) == some (-1)

/-- What an expansion instruction begins with: operand traps, the limits of R24 among them, the unit's ownership, a near object, and the wait
while the unit is busy. `num` is what REGWIN reports. -/
def View.expansion (v : View) (us : List Use) (num : Nat) (theta : Bool) : Ex Unit := do
  v.resolved
  if isCore v.s.cur.tile then trapWith Cause.illegal v.s.cur.illegalValue
  let limit (n : Nat) : Word := BitVec.ofNat 64 (2 ^ 63 + n)
  if (firstUse Use.badCode us).isNone then
    if v.tile.xordBad then trapWith Cause.illopnd (limit 0x400)
    if theta && !v.tile.xthetaOk then trapWith Cause.illopnd (limit 0x402)
  v.check us [] none
  if v.tile.xu.reserved || v.tile.xu.holder.any fun h => h != v.s.cur.berth % 4 then trapWith Cause.regwin (BitVec.ofNat 64 num)
  if v.outsideField then trapWith Cause.window (nearPtr 0xfff 0)
  waitUntil (decide (v.tile.xu.busyUntil ≤ v.now))

/-- One that reads or writes the slice: an LDA or a VSCT may hold it (R179, R182, R234). -/
def View.expansionNear (v : View) (us : List Use) (num : Nat) : Ex Unit := do
  v.expansion us num false
  v.acquired
  v.sliceFree

/-- The berth holds the unit for an occupancy; the first use of an ordered task clears the registers and their tags (R235). -/
def View.takeUnit (v : View) (occ : Nat) : View :=
  let clear := v.ordered && !v.ctx.xuReset
  let v1 := v.modTile fun t => { t with xu := { t.xu with
    holder := some (v.s.cur.berth % 4), busyUntil := v.now + occ,
    e := if clear then Vector.replicate 8 0 else t.xu.e, tags := if clear then Vector.replicate 8 0 else t.xu.tags } }
  let v1 := v1.modCtx fun c => { c with xuReset := true }
  { v1 with s := v1.s.atCycle (v.now + occ) (.expansionInstructionComplete v.s.cur.tile) }

def Tile.xe (t : Tile) (k : Nat) : List FVal := entriesOf t.xu.e[Fin.ofNat 8 k]

/-- The entries that an operation of an order writes: every other one keeps its bits (R252). -/
def entryCount (kind0 : Bool) (p : Nat) : Nat := if kind0 then 2 * (p + 1) else (p + 1) ^ 2

/-- A register whose written entries take new values. -/
def mixEntries (written : Nat → Bool) (es : List FVal) (old : BitVec 8192) : BitVec 8192 :=
  BitVec.ofNat 8192 (pack 32 ((es.zip (unpack 32 256 old.toNat)).zipIdx.map fun x => if written x.2 then f32Bits x.1.1 else x.1.2))

/-- Writes entries of a register, keeping its tag. -/
def View.setXe (v : View) (k : BitVec 3) (written : Nat → Bool) (es : List FVal) : View :=
  v.modTile fun t => { t with xu := { t.xu with e := t.xu.e.set (Fin.ofNat 8 k.toNat) (mixEntries written es t.xu.e[Fin.ofNat 8 k.toNat]) } }

def View.setTag (v : View) (k : BitVec 3) (tag : BitVec 32) : View :=
  v.modTile fun t => { t with xu := { t.xu with tags := t.xu.tags.set (Fin.ofNat 8 k.toNat) tag } }

/-- A register number in an operand (R255 to R257). -/
def xregNumber (a : Word) : Ex Nat := if a.toNat < 8 then .ok a.toNat else trapWith Cause.illegal a

def useA (a : BitVec 7) : List Use := [⟨2, a, .src false⟩]
def useAB (a b : BitVec 7) : List Use := [⟨2, a, .src false⟩, ⟨3, b, .src false⟩]

/-- Occupancy of the instructions whose time depends on the order (R263). -/
def formCycles (kind0 : Bool) (p : Nat) : Nat := if kind0 then 4 + p else 4 + (p + 1) ^ 2
def shiftCycles (kind0 : Bool) (p : Nat) : Nat := if kind0 then 8 + (p + 1) ^ 2 else 8 + ((p + 1) ^ 4 + 7) / 8
def evalCycles (kind0 : Bool) (p : Nat) : Nat := if kind0 then 8 + 2 * (p + 1) else 8 + 2 * (p + 1) ^ 2

/-! ## The instructions (R253 to R262) -/

/-- XCLR. -/
def expClear (e : BitVec 3) (sc : BitVec 3) (v : View) : Ex View := do
  v.expansion [] e.toNat false
  .ok ((((v.takeUnit 4).setXe e (fun _ => true) ((natsFrom 0 256).map fun _ => .zero false)).setTag e 0).advance sc)

/-- XLD and XST. -/
def expMemory (store : Bool) (e : BitVec 3) (a : BitVec 7) (sc : BitVec 3) (v : View) : Ex View := do
  v.expansionNear (useA a) e.toNat
  let p := v.scalar 2 a
  let off ← v.near p 1024 64
  let v1 := (v.touchSources (useA a)).takeUnit 20
  if store then do
    let v2 ← v1.buffer p [.store off (leBytes 1024 (v1.tile.xu.e[Fin.ofNat 8 e.toNat]).toNat)]
    .ok (v2.advance sc)
  else
    if v.nearPoison off 1024 then trapWith Cause.poison p
    let new := BitVec.ofNat 8192 (leNat (v.readNear off 1024))
    let v2 := (v1.stamp off 1024).modTile fun t => { t with xu := { t.xu with e := t.xu.e.set (Fin.ofNat 8 e.toNat) new } }
    .ok ((v2.setTag e 0).advance sc)

/-- XFORM. -/
def expForm (e : BitVec 3) (a b : BitVec 7) (sc : BitVec 3) (v : View) : Ex View := do
  v.expansion (useAB a b) e.toNat false
  let t := v.tile
  let kind0 := t.xkind == 0
  let src := pointOf (v.scalar 2 a) (v.scalar 3 b)
  let q := highF32 (v.scalar 3 b)
  let v1 := (v.touchSources (useAB a b)).takeUnit (formCycles kind0 t.xp)
  let es := v1.tile.xe e.toNat
  let written (i : Nat) : Bool := decide (i < entryCount kind0 t.xp) && !(kind0 && i == 1)
  .ok ((v1.setXe e written (if kind0 then form0 t.xp src q t.centreA es else form1 t.xp q (diff src t.centreA) es)).advance sc)

/-- XSHIFT. -/
def expShift (e : BitVec 3) (a : BitVec 7) (sc : BitVec 3) (v : View) : Ex View := do
  v.expansion (useA a) e.toNat false
  let k ← xregNumber (v.scalar 2 a)
  let t := v.tile
  let kind0 := t.xkind == 0
  let v1 := (v.touchSources (useA a)).takeUnit (shiftCycles kind0 t.xp)
  let src := v1.tile.xe k
  let es := v1.tile.xe e.toNat
  let d := diff t.centreA t.centreB
  .ok ((v1.setXe e (fun i => decide (i < entryCount kind0 t.xp)) (if kind0 then addCoefs es (shift0 t.xp d.flat (coefs src t.xp)) else shift1 t.xp d (solidOf src t.xp) es)).advance sc)

/-- XCONV. -/
def expConvert (e : BitVec 3) (a b : BitVec 7) (sc : BitVec 3) (v : View) : Ex View := do
  v.expansion (useAB a b) e.toNat false
  let k ← xregNumber (v.scalar 2 a)
  let c := v.scalar 3 b
  if 2 ^ 32 - 1 ≤ c.toNat then trapWith Cause.illegal c
  let t := v.tile
  let kind0 := t.xkind == 0
  let v1 := (v.touchSources (useAB a b)).takeUnit (shiftCycles kind0 t.xp)
  let tag := v1.tile.xu.tags[Fin.ofNat 8 e.toNat]
  if tag ≠ 0 ∧ c.toNat + 1 ≤ tag.toNat then trapWith Cause.illegal c
  let src := v1.tile.xe k
  let es := v1.tile.xe e.toNat
  let d := diff t.centreB t.centreA
  let new := if kind0 then addCoefs es (conv0 t.xp d.flat (coefs src t.xp)) else conv1 t.xp d (solidOf src t.xp) es
  .ok (((v1.setXe e (fun i => decide (i < entryCount kind0 t.xp)) new).setTag e (BitVec.ofNat 32 (c.toNat + 1))).advance sc)

/-- XLSHIFT. -/
def expLocalShift (e : BitVec 3) (a : BitVec 7) (sc : BitVec 3) (v : View) : Ex View := do
  v.expansion (useA a) e.toNat false
  let k ← xregNumber (v.scalar 2 a)
  let t := v.tile
  let kind0 := t.xkind == 0
  let v1 := (v.touchSources (useA a)).takeUnit (shiftCycles kind0 t.xp)
  let src := v1.tile.xe k
  let es := v1.tile.xe e.toNat
  let s := diff t.centreB t.centreA
  .ok ((v1.setXe e (fun i => decide (i < entryCount kind0 t.xp)) (if kind0 then addCoefs es (localShift0 t.xp s.flat (coefs src t.xp)) else localShift1 t.xp s (solidOf src t.xp) es)).advance sc)

/-- XEVAL and XMEVAL. -/
def expEvaluate (multipole : Bool) (e : BitVec 3) (a b : BitVec 7) (sc : BitVec 3) (v : View) : Ex View := do
  v.expansion (useAB a b) e.toNat false
  let t := v.tile
  let kind0 := t.xkind == 0
  let point := pointOf (v.scalar 2 a) (v.scalar 3 b)
  let occ := evalCycles kind0 t.xp
  let v1 := (v.touchSources (useAB a b)).takeUnit occ
  let es := v1.tile.xe e.toNat
  let d := diff point (if multipole then t.centreA else t.centreB)
  let x : Word :=
    if kind0 then (if multipole then multiEval0 d.flat (coefs es t.xp) else eval0 d.flat (coefs es t.xp)).word
    else BitVec.ofNat 64 (f32Bits (if multipole then multiEval1 t.xp d (solidOf es t.xp) else eval1 t.xp d (solidOf es t.xp)))
  .ok ((v1.result 0 (.scalar x) occ {} true false).advance sc)

/-- The admission code (R261): the comparison is exact, and false where an input is NaN. -/
def admission (t : Tile) (leaves : Word) : Nat :=
  let a := t.centreA
  let b := t.centreB
  let sq (x y : FVal) : FVal := let d := exactSub x y; d.mul d
  let flat := exactAdd (sq a.x b.x) (sq a.y b.y)
  let d2 := if t.xkind = 0 then flat else exactAdd flat (sq a.z b.z)
  let r := exactAdd (highF32 (t.xreg 2)) (highF32 (t.xreg 4))
  let th := f32Of t.xtheta.toNat
  if (r.mul r).cmp ((th.mul th).mul d2) = some (-1) then 0 else if leaves = 3 then 1 else 2

/-- XADM. -/
def expAdmit (a : BitVec 7) (sc : BitVec 3) (v : View) : Ex View := do
  v.expansion (useA a) 8 true
  let x := v.scalar 2 a
  if 4 ≤ x.toNat then trapWith Cause.illegal x
  let v1 := (v.touchSources (useA a)).takeUnit 8
  .ok ((v1.result 0 (.scalar (BitVec.ofNat 64 (admission v.tile x))) 8 {} true false).advance sc)

/-! ## Near fields (R262) -/

/-- A near-field list entry. -/
structure NearEntry where
  toff : Nat
  soff : Nat
  poff : Nat
  tn : Nat
  sn : Nat
  deriving DecidableEq, Repr

def NearEntry.of (a b : Word) : NearEntry :=
  { toff := a.toNat % 2 ^ 32, soff := a.toNat / 2 ^ 32, poff := b.toNat % 2 ^ 32, tn := b.toNat / 2 ^ 32 % 2 ^ 16, sn := b.toNat / 2 ^ 48 }

/-- Bytes of a potential. -/
def potBytes (kind0 : Bool) : Nat := if kind0 then 8 else 4

/-- The operand at fault in an entry that breaks its layout or limits. -/
def NearEntry.fault (x : NearEntry) (kind0 : Bool) (a b : Word) : Option Word :=
  if x.toff % 16 ≠ 0 ∨ x.soff % 16 ≠ 0 ∨ 0x20000 < x.toff + 16 * x.tn ∨ 0x20000 < x.soff + 16 * x.sn then some a
  else if x.poff % potBytes kind0 ≠ 0 ∨ x.tn < 1 ∨ 256 < x.tn ∨ x.sn < 1 ∨ 256 < x.sn ∨ 4096 < x.tn * x.sn ∨
    0x20000 < x.poff + potBytes kind0 * x.tn then some b
  else none

/-- A body: its position and its charge. -/
def nearBody (bs : List Byte) : Point × FVal :=
  let f (i : Nat) : FVal := f32Of (leNat ((bs.drop (4 * i)).take 4))
  (⟨f 0, f 1, f 2⟩, f 3)

def samePosition (kind0 : Bool) (p q : Point) : Bool :=
  p.x.cmp q.x == some 0 && p.y.cmp q.y == some 0 && (kind0 || p.z.cmp q.z == some 0)

/-- What a source adds to a target's potential. -/
def interact (kind0 : Bool) (target : Point) (phi : Cx) (src : Point × FVal) : Cx :=
  if samePosition kind0 target src.1 then phi
  else if kind0 then cadd phi (cscale src.2 (clog (diff2 target src.1)))
  else ⟨f32Round (exactAdd phi.re (f32Round (src.2.mul (f32Round (rhoOf (diff target src.1)).rsqrt)))), phi.im⟩

/-- The potentials of an entry, from its bodies and the potentials as they stood. -/
def nearPotentials (kind0 : Bool) (targets sources pots : List Byte) : List Byte :=
  let srcs := (chunks 16 sources.length sources).map nearBody
  let size := potBytes kind0
  (List.zipWith (fun t p =>
    let old : Cx := ⟨f32Of (leNat (p.take 4)), if kind0 then f32Of (leNat (p.drop 4)) else .zero false⟩
    let new := srcs.foldl (interact kind0 (nearBody t).1) old
    if srcs.all fun x => samePosition kind0 (nearBody t).1 x.1 then p
    else leBytes 4 (f32Bits new.re) ++ if kind0 then leBytes 4 (f32Bits new.im) else [])
    (chunks 16 targets.length targets) (chunks size pots.length pots)).flatMap id

/-- Occupancy of an entry (R263). -/
def NearEntry.cycles (x : NearEntry) : Nat := 16 + 4 * x.tn * x.sn

/-- XNEAR: the entry is a store of the berth, and PROD rises. -/
def expNear (a b : BitVec 7) (sc : BitVec 3) (v : View) : Ex View := do
  v.expansionNear (useAB a b) 8
  let reg := v.tile.xreg 5
  let k := reg.toNat % 16
  let r := v.tile.ring k
  if r.valid = false ∨ r.eng ≠ 3 ∨ r.esl ≠ 4 then trapWith Cause.illegal reg
  if r.room = 0 then trapWith Cause.ringover (BitVec.ofNat 64 k)
  let p := nearPtr v.ctx.cr.tilev.toNat (r.elem r.prod.toNat)
  let off ← v.near p 16 16
  let v1 ← (v.touchSources (useAB a b)).buffer p [.store off (wordBytes (v.scalar 2 a) ++ wordBytes (v.scalar 3 b))]
  let v1 := v1.takeUnit 2
  .ok (({ v1 with s := v1.s.moveRing v.s.cur.tile k 1 true } : View).advance sc)

/-- XDIRECT. -/
def expDirect (a b : BitVec 7) (sc : BitVec 3) (v : View) : Ex View := do
  v.expansionNear (useAB a b) 8
  let x := NearEntry.of (v.scalar 2 a) (v.scalar 3 b)
  let kind0 := v.tile.xkind == 0
  match x.fault kind0 (v.scalar 2 a) (v.scalar 3 b) with
  | some w => trapWith Cause.illegal w
  | none =>
    let ptr (off : Nat) : Word := nearPtr v.ctx.cr.tilev.toNat off
    let size := potBytes kind0 * x.tn
    let t ← v.near (ptr x.toff) (16 * x.tn) 16
    let s ← v.near (ptr x.soff) (16 * x.sn) 16
    let p ← v.near (ptr x.poff) size (potBytes kind0)
    match [(t, 16 * x.tn), (s, 16 * x.sn), (p, size)].find? fun r => v.nearPoison r.1 r.2 with
    | some r => trapWith Cause.poison (ptr r.1)
    | none =>
      let new := nearPotentials kind0 (v.readNear t (16 * x.tn)) (v.readNear s (16 * x.sn)) (v.readNear p size)
      let v1 := (((v.touchSources (useAB a b)).stamp t (16 * x.tn)).stamp s (16 * x.sn)).stamp p size
      let v2 ← v1.buffer (ptr p) [.store p new]
      .ok ((v2.takeUnit x.cycles).advance sc)

/-- EOP, ENG 3, FN 0 (R225, R262): the kind is the one at acceptance. -/
def eopNearField (a b : BitVec 7) (sc : BitVec 3) (v : View) : Ex View := do
  let (map, m) ← v.eopStart 3 a b
  let p := v.scalar 2 a
  let w := v.scalar 3 b
  needMap map (m.inOnly && v.tile.useEsl m.in0 == 4)
  needOperand p (p == 0)
  needOperand w (barWordOk w)
  .ok (((v.touchSources (useAB a b)).accept 3 (.eop 0 p w map v.ctx.cr [v.tile.xkind.zeroExtend 8]) []).advance sc)

/-- One entry of a near-field operation: a broken one is skipped, and one that meets a poisoned word moves nothing (R262, R288, R466). -/
def State.nearEntry (s : State) (n : Nat) (o : EngineOp) (kind0 : Bool) (bs : List Byte) (poisoned : Bool) : State × Nat :=
  let a := wordAt bs 0
  let b := wordAt bs 8
  let x := NearEntry.of a b
  let size := potBytes kind0 * x.tn
  match x.fault kind0 a b with
  | some w => (s.late n o Cause.illegal w, 0)
  | none =>
    let bad (off len : Nat) : Bool := s.poisoned (slicePa n off) len
    match [(x.toff, 16 * x.tn), (x.soff, 16 * x.sn), (x.poff, size)].find? fun r => bad r.1 r.2 with
    | some r => (s.metPoison n o (nearPtr (s.nearTag n o.issuer.ctxnum) r.1), 0)
    | none =>
      if poisoned then (s, 0)
      else
        let new := nearPotentials kind0 (s.readSlice n x.toff (16 * x.tn)) (s.readSlice n x.soff (16 * x.sn)) (s.readSlice n x.poff size)
        (s.performWrite n x.poff new o.issuer, x.cycles)

/-- The expansion unit's firing: the entries of IN0 in order, once the unit is free (R263). -/
def State.fireNear (s : State) (n : Nat) (o : EngineOp) (map : Word) (record : List Byte) : State :=
  let x := (s.tile n).xu
  match (RingMap.of map).in0 with
  | none => s
  | some (k, c) =>
    if s.now < max x.busyUntil (s.tile n).sliceHeld then s.atCycle (max x.busyUntil (s.tile n).sliceHeld) (.ringOperationFiring n o.id)
    else
      let (bs, ps) := s.ringBytes n k c
      let s := if ps.isEmpty then s else s.metPoison n o (s.ringPtr n o.issuer.ctxnum k)
      let s := s.modOp n o.id fun x => { x with stage := .running 0 0 }
      let (s, occ) := (natsFrom 0 c).foldl (fun (acc : State × Nat) i =>
        let (s, occ) := acc.1.nearEntry n o (record.headD 0 == 0) ((bs.drop (16 * i)).take 16) (ps.any fun w => decide (w / 2 = i))
        (s, acc.2 + occ)) (s, 0)
      let s := s.modTile n fun t => { t with xu := { t.xu with busyUntil := s.now + occ } }
      let s := (s.moveRing n k (BitVec.ofNat 32 c) false).modOp n o.id fun x => { x with stage := .running (16 * c) (s.now + occ), counts := 16 * c }
      (s.atCycle (s.now + occ) (.expansionInstructionComplete n)).atCycle (s.now + occ) (.engineOperationComplete n o.id)

/-- EXPANSION_INSTRUCTION_COMPLETE (R263): the unit is free for what waits. -/
def execExpansionInstructionComplete (tile : Nat) (s : State) : Out :=
  .next (if s.now < (s.tile tile).xu.busyUntil then s else s.kick tile)

/-- XCLR (R253). -/
def execXclr (eng : BitVec 3) (sc : BitVec 3) (s : State) : Out := runView (expClear eng sc) s
/-- XLD (R253). -/
def execXld (eng : BitVec 3) (a : BitVec 7) (sc : BitVec 3) (s : State) : Out := runView (expMemory false eng a sc) s
/-- XST (R253). -/
def execXst (eng : BitVec 3) (a : BitVec 7) (sc : BitVec 3) (s : State) : Out := runView (expMemory true eng a sc) s
/-- XFORM (R254, R260). -/
def execXform (eng : BitVec 3) (a : BitVec 7) (b : BitVec 7) (sc : BitVec 3) (s : State) : Out := runView (expForm eng a b sc) s
/-- XSHIFT (R255, R260). -/
def execXshift (eng : BitVec 3) (a : BitVec 7) (sc : BitVec 3) (s : State) : Out := runView (expShift eng a sc) s
/-- XCONV (R256, R260). -/
def execXconv (eng : BitVec 3) (a : BitVec 7) (b : BitVec 7) (sc : BitVec 3) (s : State) : Out := runView (expConvert eng a b sc) s
/-- XLSHIFT (R257, R260). -/
def execXlshift (eng : BitVec 3) (a : BitVec 7) (sc : BitVec 3) (s : State) : Out := runView (expLocalShift eng a sc) s
/-- XEVAL (R258, R260). -/
def execXeval (eng : BitVec 3) (a : BitVec 7) (b : BitVec 7) (sc : BitVec 3) (s : State) : Out := runView (expEvaluate false eng a b sc) s
/-- XMEVAL (R258, R260). -/
def execXmeval (eng : BitVec 3) (a : BitVec 7) (b : BitVec 7) (sc : BitVec 3) (s : State) : Out := runView (expEvaluate true eng a b sc) s
/-- XADM (R261). -/
def execXadm (a : BitVec 7) (sc : BitVec 3) (s : State) : Out := runView (expAdmit a sc) s
/-- XNEAR (R262). -/
def execXnear (a : BitVec 7) (b : BitVec 7) (sc : BitVec 3) (s : State) : Out := runView (expNear a b sc) s
/-- XDIRECT (R262). -/
def execXdirect (a : BitVec 7) (b : BitVec 7) (sc : BitVec 3) (s : State) : Out := runView (expDirect a b sc) s
/-- EOP, ENG 3 (R225, R262). -/
def execEopNearFieldEvaluate (a : BitVec 7) (b : BitVec 7) (sc : BitVec 3) (s : State) : Out := runView (eopNearField a b sc) s

end Sys2Proof.Machine
end

