-- ==== Sys2Proof/Machine/Delta.lean ====
section
/-!
DEFINITION. Incremental computation: the delta instructions (R265 to R272), the commands of the consolidator (R221, R225), the work set and its frontiers (R383 to R387), the intake and its releases (R388 to R391), and frontier
notifications (R392).
-/
namespace Sys2Proof.Machine

/-! ## The consolidator (R272) -/

def consolidatorCycles (n : Nat) : Nat := 8 + 2 * n

/-- What a delta instruction begins with: its operand traps, and the waits of an access of the slice (R179, R182). -/
def View.delta (v : View) (us : List Use) : Ex Unit := do
  v.unitInstr us
  v.acquired
  v.sliceFree

/-- An instruction that the consolidator serves (R272): while another operation runs, or a berth came before it, it stands in line and tries
again. -/
def View.served (v : View) (us : List Use) (run : View → Ex View) : Ex View := do
  v.delta us
  let b := v.s.cur.berth
  let line := v.tile.deltaWait
  if v.now < v.tile.consolidatorFree ∨ (line.head?.any fun x => x != b) = true then
    .ok ((v.modTile fun t => { t with deltaWait := if line.contains b then line else line ++ [b] }).stay)
  else run v

def View.occupyDelta (v : View) (n : Nat) : View := v.modTile fun t => { t with consolidatorFree := v.now + n }

/-- A near run that a delta instruction reads. -/
def View.deltaRead (v : View) (p : Word) (len align : Nat) : Ex Nat := do
  let off ← v.near p len align
  if v.nearPoison off len then trapWith Cause.poison p
  .ok off

/-- Writes of a delta instruction as stores of the berth. -/
def View.deltaStores (v : View) (p : Word) (ws : List (Nat × List Byte)) : Ex View := v.buffer p (ws.map fun w => .store w.1 w.2)

/-- The arrangement at a near pointer (R267). -/
def View.arrangement (v : View) (p : Word) : Ex Arr := do
  let off ← v.deltaRead p 64 1
  match arrAt v.readNear off with
  | some a => .ok a
  | none => trapWith Cause.illegal (BitVec.ofNat 64 off)

/-- Reads a run inside an arrangement's array. -/
def View.arrRead (v : View) (off len : Nat) : Ex Unit := do
  let _ ← v.deltaRead (nearPtr v.ctx.cr.tilev.toNat off) len 1
  .ok ()

/-! ## The delta instructions (R265 to R271) -/

/-- The tile a DEMIT goes to: none where it is refused (R205, R265, R384). -/
def Launch.demitTile (l : Launch) (a : Word) (r : TaskRec) (rs : List DeltaRec) : Option Nat :=
  let st := (destStage a).toNat
  if a.extractLsb' 22 42 ≠ 0 ∨ destCount a < 1 ∨ 7 < destCount a then none
  else if (l.handler? st).all (fun h => h.cls != 2) then none
  else if rs.any fun x => decide (x.time < r.ts.toNat) || (l.incremental && !pointLt (r.ts.toNat, r.stage.toNat) (x.time, st)) then none
  else l.destTile a

/-- DEMIT (R265). -/
def deltaEmit (a b : BitVec 7) (sc : BitVec 3) (v : View) : Ex View := do
  v.delta (useAB a b)
  let p := v.scalar 2 a
  let w := v.scalar 3 b
  let n := if 1 ≤ destCount w ∧ destCount w ≤ 7 then destCount w else 1
  let off ← v.deltaRead p (32 * n) 32
  let bs := v.readNear off (32 * n)
  let rs := deltaRecs bs
  let dest := (v.s.launch? v.ctx.ctxnum).bind fun l => l.demitTile w v.ctx.task rs
  let least := rs.foldl (fun m r => min m r.time) (2 ^ 64 - 1)
  let (v1, status) := ((v.touchSources (useAB a b)).stamp off (32 * n)).queueMessage dest fun t seq =>
    { kind := 4, destTile := t, ts := BitVec.ofNat 64 least, stage := destStage w, count := n, poison := v.ctx.poisoned,
      src := v.s.cur.tile, ctxnum := v.ctx.ctxnum, payload := bs, seq := seq }
  .ok ((v1.result 0 (.scalar status) 1 {} false false).advance sc)

/-- DCONS (R266). -/
def deltaConsolidate (fn : BitVec 3) (a b : BitVec 7) (sc : BitVec 3) (v : View) : Ex View := v.served (useAB a b) fun v => do
  let p := v.scalar 2 a
  let n := (v.scalar 3 b).toNat
  if n < 1 ∨ 256 < n then trapWith Cause.illegal (v.scalar 3 b)
  let off ← v.deltaRead p (32 * n) 32
  let (out, movf) := consolidated (fn == 1) (deltaRecs (v.readNear off (32 * n)))
  let v1 ← ((v.touchSources (useAB a b)).stamp off (32 * n)).deltaStores p
    [(off, (out.flatMap DeltaRec.bytes) ++ leBytes (32 * (n - out.length)) 0)]
  let x : Nat := out.length + if movf then 2 ^ 62 else 0
  let lat := consolidatorCycles n
  .ok (((v1.occupyDelta lat).result 0 (.scalar (BitVec.ofNat 64 x)) lat {} true false).advance sc)

/-- DINS (R268): an empty record ends at once. The insertion is made again on the slice when it becomes visible, so that those of two berths
both count (R273). -/
def deltaInsert (a b : BitVec 7) (sc : BitVec 3) (v : View) : Ex View := v.served (useAB a b) fun v => do
  let p := v.scalar 2 a
  let q := v.scalar 3 b
  let off ← v.deltaRead p 32 32
  let arr ← v.arrangement q
  let bs := v.readNear off 32
  let r := DeltaRec.ofBytes bs
  let v1 := ((v.touchSources (useAB a b)).stamp off 32).stamp arr.off 64
  let done (v : View) (x : Nat) : View := ((v.occupyDelta 12).result 0 (.scalar (BitVec.ofNat 64 x)) 12 {} true false).advance sc
  if r.mult = 0 then .ok (done v1 0)
  else
    v.arrRead (arr.bucket r.key) 256
    let (ws, st, clamped) := arr.insert v.readNear r
    let v2 ← (v1.stamp (arr.bucket r.key) 256).buffer q [.insert arr.off bs ws]
    .ok (done v2 (st + if clamped then 2 ^ 8 else 0))

/-- DLOOK (R269). -/
def deltaLookup (a b : BitVec 7) (sc : BitVec 3) (v : View) : Ex View := v.served (useAB a b) fun v => do
  let key := (v.scalar 2 a).toNat
  let arr ← v.arrangement (v.scalar 3 b)
  let off := arr.bucket key
  v.arrRead off 256
  let hits := ((bucketEntries v.readNear off).map Prod.snd).filter fun e => e.live && e.key == key
  let v1 := ((v.touchSources (useAB a b)).stamp arr.off 64).stamp off 256
  .ok (((v1.occupyDelta 8).result 0 (.vector (rowOfBytes (hits.flatMap DeltaRec.bytes))) 8 {} true false).advance sc)

/-- A tile's copy of F of a stage (R270, R387). -/
def frontierCopy (fs : List (Nat × Nat × Word)) (ctxnum stage : Nat) : Word :=
  ((fs.find? fun f => f.1 == ctxnum && f.2.1 == stage).map fun f => f.2.2).getD 0

/-- DFRONT (R270). -/
def deltaFrontier (a : BitVec 7) (sc : BitVec 3) (v : View) : Ex View := do
  v.delta (useA a)
  let x := v.scalar 2 a
  if 16 ≤ x.toNat then trapWith Cause.illegal x
  -- F acquires the commits below it (R304, R309)
  let chron := ((v.s.launch? v.ctx.ctxnum).map Launch.commitChron).getD 0
  let v1 := (v.touchSources (useA a)).modCtx fun c => c.acquire chron false
  .ok ((v1.result 0 (.scalar (frontierCopy v.tile.frontierF v.ctx.ctxnum x.toNat)) 12 {} true false).advance sc)

/-- DCOMP (R271). -/
def deltaCompact (a b : BitVec 7) (sc : BitVec 3) (v : View) : Ex View := v.served (useAB a b) fun v => do
  let p := v.scalar 2 a
  let t := v.scalar 3 b
  let arr ← v.arrangement p
  if (frontierCopy v.tile.frontierF v.ctx.ctxnum v.ctx.task.stage.toNat).toNat < t.toNat then trapWith Cause.illegal t
  let size := 256 * 2 ^ arr.lgb
  v.arrRead arr.base size
  let buckets := (natsFrom 0 (2 ^ arr.lgb)).map fun h =>
    let es := bucketEntries v.readNear (arr.base + 256 * h)
    (es, compactBucket t.toNat (es.map Prod.snd))
  let changed := buckets.flatMap fun (es, new) => (es.zip new).filterMap fun (e, x) => if e.2 = x then none else some (e.1, x.bytes)
  let live := (buckets.flatMap Prod.snd).countP DeltaRec.live
  let v1 := ((v.touchSources (useAB a b)).stamp arr.off 64).stamp arr.base size
  let v2 ← v1.deltaStores p (changed ++ [(arr.off + 8, leBytes 4 live), (arr.off + 0x18, leBytes 8 (max arr.lowt t.toNat))])
  let lat := 8 + 4 * 2 ^ arr.lgb
  .ok (((v2.occupyDelta lat).result 0 (.scalar (BitVec.ofNat 64 live)) lat {} true false).advance sc)

/-! ## EOP at acceptance (R225) -/

/-- EOP, ENG 4, FN 0. -/
def eopConsolidate (a b : BitVec 7) (sc : BitVec 3) (v : View) : Ex View := do
  let (map, m) ← v.eopStart 4 a b
  let p := v.scalar 2 a
  let w := v.scalar 3 b
  needMap map (m.in0.isSome && m.in1.isNone && m.out.isSome && v.tile.useEsl m.in0 == 5 && v.tile.useEsl m.out == 5 &&
    decide ((m.in0.map Prod.snd).getD 0 ≤ (m.out.map Prod.snd).getD 0))
  needOperand p (p == 0)
  needOperand w (barWordOk w)
  .ok (((v.touchSources (useAB a b)).accept 4 (.eop 0 p w map v.ctx.cr []) []).advance sc)

/-- EOP, ENG 4, FN 1: the descriptor is looked at as the berth sees it (R267). -/
def eopInsert (a b : BitVec 7) (sc : BitVec 3) (v : View) : Ex View := do
  let (map, m) ← v.eopStart 4 a b
  let p := v.scalar 2 a
  let w := v.scalar 3 b
  needMap map (m.inOnly && v.tile.useEsl m.in0 == 5)
  if v.s.sliceLimit v.s.cur.tile < p.toNat + 64 ∨ (arrAt v.readNear p.toNat).isNone = true then trapWith Cause.illegal p
  needOperand w (barWordOk w)
  .ok (((v.touchSources (useAB a b)).accept 4 (.eop 1 p w map v.ctx.cr []) []).advance sc)

/-! ## What the consolidator does for a command or a firing (R221, R225, R272) -/

/-- An engine's writes of a list of runs. -/
def State.engineWrites (s : State) (n : Nat) (iss : Issuer) (ws : List (Nat × List Byte)) : State :=
  ws.foldl (fun s w => s.performWrite n w.1 w.2 iss) s

/-- Inserts records into the arrangement at an offset: the records that changed an entry, and whether a sum was clamped. A broken descriptor
inserts nothing and is a late failure (R267, R466). -/
def State.insertAll (s : State) (n : Nat) (o : EngineOp) (desc : Nat) (rs : List DeltaRec) : State × Nat × Bool :=
  match arrAt (s.readSlice n) desc with
  | none => (s.late n o Cause.illegal (BitVec.ofNat 64 desc), 0, false)
  | some _ => rs.foldl (fun (acc : State × Nat × Bool) r =>
      match arrAt (acc.1.readSlice n) desc with
      | none => acc
      | some a =>
        let (ws, st, clamped) := a.insert (acc.1.readSlice n) r
        (acc.1.engineWrites n o.issuer ws, if r.live && st != 3 then acc.2.1 + 1 else acc.2.1, acc.2.2 || clamped)) (s, 0, false)

/-- The operation has done its work and completes after its occupancy. -/
def State.consolidatorRan (s : State) (n id records bytes : Nat) : State :=
  let stop := s.now + consolidatorCycles records
  let s := (s.modTile n fun t => { t with consolidatorFree := stop }).modOp n id fun o => { o with stage := .running bytes stop, counts := bytes }
  s.atCycle stop (.engineOperationComplete n id)

/-- A consolidator command that the engine has taken. -/
def State.takenCons (s : State) (n id op : Nat) : Option (EngineOp × Cons) :=
  match s.op? n id with
  | some o => match o.kind with
    | .record bs => if o.eng = 4 ∧ (Cons.ofBytes bs).op = op ∧ o.stage = .running 0 0 then some (o, Cons.ofBytes bs) else none
    | _ => none
  | none => none

/-- A command waits for the operation that runs, for the berths' delta instructions that wait (R272), and for a VSCT (R182). -/
def State.consBusy (s : State) (n : Nat) : Bool :=
  decide (s.now < (s.tile n).consolidatorFree ∨ s.now < (s.tile n).sliceHeld) || !(s.tile n).deltaWait.isEmpty

/-- The next cycle in which an operation of the consolidator that waits looks again. -/
def State.consNext (s : State) (n : Nat) : Nat := max (s.now + 1) (max (s.tile n).consolidatorFree (s.tile n).sliceHeld)

/-- The result word of a command (R221). -/
def resultWord (written : Nat) (movf covf : Bool) : List Byte :=
  leBytes 8 (written + (if movf then 2 ^ 62 else 0) + if covf then 2 ^ 63 else 0)

/-- A command of the consolidator: it waits its turn, or reads its records and runs. -/
def State.runCons (s : State) (n id op : Nat) (event : Event) : State :=
  match s.takenCons n id op with
  | none => s
  | some (o, c) =>
    if s.consBusy n then s.atCycle (s.consNext n) event
    else
      let bad := s.poisoned (slicePa n c.src) (32 * c.nrec)
      let s := if bad then s.metPoison n o (nearPtr (s.nearTag n o.issuer.ctxnum) c.src) else s
      let rs := deltaRecs (s.readSlice n c.src (32 * c.nrec))
      let s := s.unpinOp n o
      if op = 2 then
        let (s, written, movf) := s.insertAll n o c.dst rs
        (s.performWrite n c.res (resultWord written movf false) o.issuer).consolidatorRan n id c.nrec (32 * c.nrec)
      else
        let (out, movf) := consolidated (op == 1) rs
        let kept := out.take c.cap
        let s := s.engineWrites n o.issuer (if kept.isEmpty then [] else [(c.dst, kept.flatMap DeltaRec.bytes)])
        let s := if bad then s.poisonSlice n 0 (natsFrom (c.dst / 8) (4 * kept.length)) else s
        (s.performWrite n c.res (resultWord kept.length movf (decide (c.cap < out.length))) o.issuer).consolidatorRan n id c.nrec (32 * c.nrec)

/-- CONSOLIDATE (R221). -/
def execConsolidate (tile op : Nat) (s : State) : Out := .next (s.runCons tile op 0 (.consolidate tile op))

/-- CONSOLIDATE_ACTIVE_SET (R221). -/
def execConsolidateActiveSet (tile op : Nat) (s : State) : Out := .next (s.runCons tile op 1 (.consolidateActiveSet tile op))

/-- INSERT_ARRANGEMENT (R221). -/
def execInsertArrangement (tile op : Nat) (s : State) : Out := .next (s.runCons tile op 2 (.insertArrangement tile op))

/-- The consolidator's firing (R225). -/
def State.fireCons (s : State) (n : Nat) (o : EngineOp) (fn : Nat) (a map : Word) : State :=
  let m := RingMap.of map
  match m.in0 with
  | none => s
  | some (k, c) =>
    if s.consBusy n then s.atCycle (s.consNext n) (.ringOperationFiring n o.id)
    else
      let (bs, ps) := s.ringBytes n k c
      let rs := deltaRecs bs
      let s := if ps.isEmpty then s else s.metPoison n o (s.ringPtr n o.issuer.ctxnum k)
      let s := s.moveRing n k (BitVec.ofNat 32 c) false
      match fn, m.out with
      | 0, some (j, _) =>
        let out := (consolidated false rs).1
        let words := if ps.isEmpty then [] else natsFrom 0 (4 * out.length)
        (s.ringPut o.issuer n j (out.flatMap DeltaRec.bytes) words).consolidatorRan n o.id c (32 * c)
      | _, _ => (s.insertAll n o a.toNat rs).1.consolidatorRan n o.id c (32 * c)

/-! ## The work set and its frontiers (R383 to R387) -/

/-- The points at which a record stands, with that of a record it has consumed. -/
def TaskRec.points (r : TaskRec) : List (Nat × Nat) := (r.ts.toNat, r.stage.toNat) :: r.fed.toList

/-- The points of what a message makes: a record, or the delta records it carries. -/
def Message.points (m : Message) : List (Nat × Nat) :=
  match m.kind with
  | 4 => (deltaRecs m.payload).map fun r => (r.time, m.stage.toNat)
  | 5 => []
  | _ => [(m.ts.toNat, m.stage.toNat)]

def Item.points : Item → List (Nat × Nat)
  | .message m => m.points
  | .spawn r => r.points
  | .continuation r => r.points
  | _ => []

def Ctx.points (c : Ctx) : List (Nat × Nat) := c.task.points ++ c.buf.flatMap Item.points

/-- Points of the records that the depots hold of a launch, by depot and tile. -/
def recordPoints (ctxnum : Nat) (rs : List TaskRec) : List (Nat × Nat) := (rs.filter fun r => r.ctxnum == ctxnum).flatMap TaskRec.points

def Tile.workPoints (t : Tile) (k : Nat) : List (Nat × Nat) :=
  recordPoints k (t.inbox ++ t.deque ++ t.core.inbox ++ t.armed.map Armed.task ++ t.channels.toList.flatMap Channel.overflow) ++
  (t.held.filter fun h => h.issuer.ctxnum == k).flatMap (fun h => h.items.flatMap Item.points) ++
  (t.trackers.filter fun x => x.issuer.ctxnum == k).flatMap (fun x => x.task.points ++ x.buf.flatMap Item.points) ++
  ((t.berths.toList.filterMap Berth.ctx).filter fun c => c.ctxnum == k).flatMap Ctx.points ++
  ((t.intake ++ t.points.flatMap OpenPoint.overflow).filter fun g => g.ctxnum == k).map fun g => (g.time.toNat, g.stage)

/-- The points of the work set W of a launch (R385). -/
def State.workPoints (s : State) (k : Nat) : List (Nat × Nat) :=
  s.tiles.flatMap (fun x => x.2.workPoints k) ++
  s.depots.flatMap (fun d => recordPoints k (d.2.flatMap Prod.snd)) ++
  (s.flights.flatMap fun f => match f.kind with
    | .message m => if m.ctxnum = k then m.points else []
    | _ => recordPoints k f.kind.records) ++
  (((s.launch? k).map Launch.saved).getD []).flatMap fun x => x.ctx.points

/-- The least of a list of times; 2^64 - 1 for none, where each sum also stops. -/
def leastTime (ts : List Nat) : Nat := ts.foldl min (2 ^ 64 - 1)

/-- F and G of a stage (R386). -/
def frontierOf (ps : List (Nat × Nat)) (s : Nat) : Nat := leastTime (ps.map fun p => if p.2 ≤ s then p.1 else p.1 + 1)
def inputFrontierOf (ps : List (Nat × Nat)) (s : Nat) : Nat := leastTime (ps.map fun p => if p.2 < s then p.1 else p.1 + 1)

/-! ## Notifications (R392) -/

def Tile.noticeOf (t : Tile) (ctxnum stage : Nat) : Notice :=
  (t.notices.find? fun x => x.ctxnum == ctxnum && x.stage == stage).getD { ctxnum := ctxnum, stage := stage }
def Tile.setNotice (t : Tile) (x : Notice) : Tile :=
  { t with notices := (t.notices.filter fun y => !(y.ctxnum == x.ctxnum && y.stage == x.stage)) ++ [x] }

/-- The notification of a tile for a stage is outstanding: its record waits, or the task it started or resumed still runs. -/
def State.noticeOut (s : State) (k n stage : Nat) : Bool :=
  let t := s.tile n
  let is (r : TaskRec) : Bool := r.ctxnum == k && r.notice == some stage && r.dest.toNat == (((s.launch? k).bind fun l => l.virtual? n).getD 0xfff)
  (t.inbox ++ (t.channels.toList.flatMap Channel.overflow)).any is || s.tiles.any (fun x =>
    (x.2.deque.any is) || (x.2.berths.toList.filterMap Berth.ctx).any fun c => is c.task) ||
  (s.depots.any fun d => (d.2.flatMap Prod.snd).any is) ||
  (s.flights.any fun f => match f.kind with | .record r _ => is r | _ => false) ||
  (((s.launch? k).map Launch.saved).getD []).any fun x => is x.ctx.task

/-- Creates the notification of a tile for a stage, where it qualifies. -/
def State.notify (s : State) (l : Launch) (k stage : Nat) (f : Word) (raised : Bool) (n : Nat) : State :=
  let x := (s.tile n).noticeOf k stage
  match x.released with
  | none => s
  | some t =>
    if !(decide (t.toNat < f.toNat) && (raised || x.owed)) then s
    else if s.noticeOut k n stage then s.modTile n fun t => t.setNotice { x with owed := true }
    else
      let cp := ((s.part? l.part).map Partition.cpn).getD 0
      let r : TaskRec :=
        { hpc := ((l.handler? stage).map Handler.entry).getD 0, ts := f, src := BitVec.ofNat 13 (5248 + cp), cls := 0, chan := 12,
          stage := BitVec.ofNat 4 stage, dest := BitVec.ofNat 12 ((l.virtual? n).getD 0xfff), launch := l.number,
          part := BitVec.ofNat 6 l.part, ctxnum := k, notice := some stage, body := bodyOf [] [f, x.last, BitVec.ofNat 64 stage] }
      (s.modTile n fun t => t.setNotice { x with last := f, released := none, owed := false }).queueRecord n r

/-! ## Publication and releases (R387 to R391) -/

/-- The least open point of a tile whose input frontier copy has passed it. -/
def Tile.releasable (t : Tile) : Option OpenPoint :=
  let ready := t.points.filter fun p => decide (p.time.toNat < (frontierCopy t.frontierG p.ctxnum p.stage).toNat)
  ready.foldl (fun b p => match b with
    | some q => if pointLt (p.time.toNat, p.stage) (q.time.toNat, q.stage) then some p else b
    | none => some p) none

/-- Announces the release that a tile may make. -/
def State.releaseKick (s : State) (n : Nat) : State :=
  let t := s.tile n
  match t.releasable with
  | none => s
  | some p =>
    let e : Event := .pointRelease n p.time p.stage
    if !s.consBusy n then s.once e
    else if s.timed.contains (s.consNext n, e) then s else s.atCycle (s.consNext n) e

/-- A copy of a frontier takes a new value, which is never below the old. -/
def raiseCopy (fs : List (Nat × Nat × Word)) (k stage : Nat) (x : Word) : List (Nat × Nat × Word) :=
  (fs.filter fun f => !(f.1 == k && f.2.1 == stage)) ++ [(k, stage, if (frontierCopy fs k stage).toNat < x.toNat then x else frontierCopy fs k stage)]

/-- FRONTIER_PUBLISH (R386, R387, R392): the sequencer evaluates F and G, publishes them to every tile of the field, and creates the notifications
of the stages whose F has risen. -/
def execFrontierPublish (launch : Nat) (s : State) : Out :=
  match (s.launch? launch).filter fun l => l.state != .saved with
  | none => .next s
  | some l =>
    let ps := s.workPoints launch
    let stages := natsFrom 0 16
    let old (st : Nat) : Nat := ((lookup st l.pubF).map BitVec.toNat).getD 0
    let oldG (st : Nat) : Nat := ((lookup st l.pubG).map BitVec.toNat).getD 0
    let newF := stages.map fun st => (st, BitVec.ofNat 64 (max (old st) (frontierOf ps st)))
    let newG := stages.map fun st => (st, BitVec.ofNat 64 (max (oldG st) (inputFrontierOf ps st)))
    let s := s.setLaunch launch { l with pubF := newF, pubG := newG }
    let s := l.field.foldl (fun s n => s.modTile n fun t =>
      { t with
        frontierF := newF.foldl (fun fs x => raiseCopy fs launch x.1 x.2) t.frontierF,
        frontierG := newG.foldl (fun fs x => raiseCopy fs launch x.1 x.2) t.frontierG }) s
    let s := newF.foldl (fun s x => l.field.foldl (fun s n => s.notify l launch x.1 x.2 (decide (old x.1 < x.2.toNat)) n) s) s
    .next (l.field.foldl (fun s n => s.releaseKick n) s)

/-- Places of the intake in use (R388). -/
def intakeRoom : Nat := 512

/-- Merges a record into the intake's groups (R388): data records on KEY, VALUE, TIME and stage, activation records without VALUE; a data
group whose sum is 0 is dropped. -/
def intakeAdd (k stage : Nat) (poison : Bool) (r : DeltaRec) (gs : List IntakeGroup) : List IntakeGroup :=
  let active := decide (2 ^ 31 ≤ r.tag)
  let same (g : IntakeGroup) : Bool :=
    g.ctxnum == k && g.stage == stage && g.active == active && g.time.toNat == r.time && g.key.toNat == r.key && (active || g.value.toNat == r.value)
  let new : IntakeGroup :=
    { ctxnum := k, time := BitVec.ofNat 64 r.time, stage := stage, key := BitVec.ofNat 64 r.key, value := BitVec.ofNat 64 r.value,
      tag := BitVec.ofNat 32 r.tag, sum := r.mult, active := active, poison := poison }
  let gs := if gs.any same then gs.map fun g => if same g then { g with sum := g.sum + r.mult, poison := g.poison || poison } else g
    else gs ++ [new]
  gs.filter fun g => g.active || g.sum != 0

/-- A record arrives: its point opens, and it joins the intake, or the point's overflow list where that exists or the intake is full. -/
def Tile.takeDelta (t : Tile) (k stage : Nat) (poison : Bool) (r : DeltaRec) : Tile :=
  let at_ (p : OpenPoint) : Bool := p.ctxnum == k && p.stage == stage && p.time.toNat == r.time
  let t := if t.points.any at_ then t
    else { t with points := t.points ++ [{ ctxnum := k, time := BitVec.ofNat 64 r.time, stage := stage }] }
  if (t.points.any fun p => at_ p && !p.overflow.isEmpty) || decide (intakeRoom ≤ t.intake.length) then
    let more (p : OpenPoint) : OpenPoint := if at_ p then { p with overflow := p.overflow ++ intakeAdd k stage poison r [] } else p
    { t with points := t.points.map more }
  else { t with intake := intakeAdd k stage poison r t.intake }

/-- DELTA_INTAKE_ARRIVAL (R388). -/
def execDeltaIntakeArrival (flight : Nat) (s : State) : Out :=
  match s.flight? flight with
  | none => .next s
  | some f => match f.kind with
    | .message m =>
      if f.left ≠ 0 || m.kind != 4 || s.messageBefore f m then .next s
      else
        let s := s.dropFlight flight
        let s := (deltaRecs m.payload).foldl (fun s r => s.modTile m.destTile fun t => t.takeDelta m.ctxnum m.stage.toNat m.poison r) s
        .next (((s.nextMessages f m).once (.frontierPublish m.ctxnum)).releaseKick m.destTile)
    | _ => .next s

/-- Puts a number into a rising list without repeats. -/
def insertKey (x : Nat) : List Nat → List Nat
  | [] => [x]
  | y :: l => if x = y then y :: l else if x < y then x :: y :: l else y :: insertKey x l

/-- Overflow groups merged into the intake's. -/
def mergeGroups (gs more : List IntakeGroup) : List IntakeGroup :=
  more.foldl (fun gs g => intakeAdd g.ctxnum g.stage g.poison
    { key := g.key.toNat, value := g.value.toNat, time := g.time.toNat, mult := g.sum, tag := g.tag.toNat } gs) gs

/-- The records that a release makes of one key (R389, R390). -/
def releaseRecords (l : Launch) (n k stage : Nat) (time : Word) (key : Nat) (active movf : Bool) (groups : List IntakeGroup) : List TaskRec :=
  let rec_ (g : IntakeGroup) : DeltaRec :=
    { key := key, value := g.value.toNat, time := time.toNat, mult := (clampMult g.sum).1, tag := g.tag.toNat }
  let sorted := (groups.map rec_).foldr DeltaRec.insert []
  let bad (r : DeltaRec) : Bool := groups.any fun g => g.poison && g.value.toNat == r.value
  let parts := if sorted.isEmpty then [[]] else chunks 5 sorted.length sorted
  ((natsFrom 0 parts.length).zip parts).map fun (i, part) =>
    let words := part.flatMap fun r => (natsFrom 0 4).map fun j => wordAt r.bytes (8 * j)
    let state : Nat := part.length + (if active then 2 ^ 16 else 0) + if movf then 2 ^ 32 else 0
    { hpc := ((l.handler? stage).map Handler.entry).getD 0, ts := time, src := BitVec.ofNat 13 n, cls := 2,
      chan := BitVec.ofNat 4 (((l.stage? stage).map StageEntry.chan).getD 0), stage := BitVec.ofNat 4 stage, cmask := 0xffff,
      dest := BitVec.ofNat 12 ((l.virtual? n).getD 0xfff), launch := l.number, part := BitVec.ofNat 6 l.part, ctxnum := k,
      poison := part.any bad,
      body := bodyOf (words.take 16) ((natsFrom 16 4).map (fun j => words.getD j 0) ++
        [BitVec.ofNat 64 state, BitVec.ofNat 64 key, BitVec.ofNat 64 (5 * i), BitVec.ofNat 64 sorted.length]) }

/-- POINT_RELEASE (R389): the least open point that the input frontier has passed. -/
def execPointRelease (tile : Nat) (time : BitVec 64) (stage : Nat) (s : State) : Out :=
  let t := s.tile tile
  match t.releasable with
  | none => .next s
  | some p =>
    if p.time ≠ time ∨ p.stage ≠ stage then .next (s.releaseKick tile)
    else if s.consBusy tile then .next (s.releaseKick tile)
    else
      let k := p.ctxnum
      let l := (s.launch? k).getD {}
      let mine (g : IntakeGroup) : Bool := g.ctxnum == k && g.stage == stage && g.time == time
      let groups := mergeGroups (t.intake.filter mine) p.overflow
      let listed (x : Nat × Nat × Word) : Bool := x.1 == k && x.2.1 == stage
      let old := (t.activation.filter listed).map fun x => x.2.2.toNat
      let keys := (groups.filter (·.active)).foldl (fun ks g =>
        if 0 < g.sum then insertKey g.key.toNat ks else if g.sum < 0 then ks.filter fun x => x != g.key.toNat else ks) (old.foldr insertKey [])
      let data := groups.filter fun g => !g.active
      let movf := data.any fun g => (clampMult g.sum).2
      let all := (data.map fun g => g.key.toNat).foldr insertKey keys
      let n := (t.intake.filter mine).length + p.overflow.length + keys.length
      let x := t.noticeOf k stage
      let least : Word := match x.released with | some r => if r.toNat < time.toNat then r else time | none => time
      let s := s.modTile tile fun t => ({ t with
        intake := t.intake.filter fun g => !mine g, points := t.points.erase p,
        activation := (t.activation.filter fun x => !listed x) ++ keys.map (fun key => (k, stage, BitVec.ofNat 64 key)),
        consolidatorFree := s.now + consolidatorCycles n }).setNotice { x with released := some least }
      let rs := all.flatMap fun key => releaseRecords l tile k stage time key (keys.contains key) movf (data.filter fun g => g.key.toNat == key)
      let s := rs.foldl (fun s r => s.queueRecord tile r) s
      .next ((s.once (.frontierPublish k)).releaseKick tile)

/-! ## The instructions -/

/-- DEMIT (R265). -/
def execDemit (a : BitVec 7) (b : BitVec 7) (sc : BitVec 3) (s : State) : Out := runView (deltaEmit a b sc) s
/-- DCONS (R266). -/
def execDcons (fn : BitVec 3) (a : BitVec 7) (b : BitVec 7) (sc : BitVec 3) (s : State) : Out := runView (deltaConsolidate fn a b sc) s
/-- DINS (R268). -/
def execDins (a : BitVec 7) (b : BitVec 7) (sc : BitVec 3) (s : State) : Out := runView (deltaInsert a b sc) s
/-- DLOOK (R269). -/
def execDlook (a : BitVec 7) (b : BitVec 7) (sc : BitVec 3) (s : State) : Out := runView (deltaLookup a b sc) s
/-- DFRONT (R270). -/
def execDfront (a : BitVec 7) (sc : BitVec 3) (s : State) : Out := runView (deltaFrontier a sc) s
/-- DCOMP (R271). -/
def execDcomp (a : BitVec 7) (b : BitVec 7) (sc : BitVec 3) (s : State) : Out := runView (deltaCompact a b sc) s
/-- EOP, ENG 4, FN 0 (R225). -/
def execEopConsolidate (a : BitVec 7) (b : BitVec 7) (sc : BitVec 3) (s : State) : Out := runView (eopConsolidate a b sc) s
/-- EOP, ENG 4, FN 1 (R225). -/
def execEopInsertArrangement (a : BitVec 7) (b : BitVec 7) (sc : BitVec 3) (s : State) : Out := runView (eopInsert a b sc) s

end Sys2Proof.Machine
end

