-- ==== Sys2Proof/Machine/Firing.lean ====
section
/-!
DEFINITION. How engines take their queued operations (R215 to R217, R375) and how ring operations fire (R225).
-/
namespace Sys2Proof.Machine

/-- Bytes that an engine operation moves between its ring and a pointer. -/
def State.ringEnd (s : State) (n : Nat) (k : OpKind) : Nat :=
  match k with
  | .eop _ _ _ map _ _ => let m := RingMap.of map; (s.tile n).useBytes (m.in0.or m.out)
  | _ => 0

/-- An operation leaves its engine. -/
def State.dropOp (s : State) (n id : Nat) : State :=
  s.modTile n fun t => { t with
    ops := t.ops.filter fun o => o.id != id,
    coll := { t.coll with shadow := t.coll.shadow.map fun x => if x.map Partial.op = some id then none else x } }

/-- The checks of a FREE task's operation when its engine takes it (R217): a failure moves nothing and drops it. -/
def State.checkTaken (s : State) (n : Nat) (o : EngineOp) : Except State State :=
  if o.checked then .ok s
  else match s.checkOp n o.issuer.ctxnum o.kind o.eng (s.ringEnd n o.kind) with
    | .ok (s, pins) => .ok (s.modOp n o.id fun x => { x with checked := true, pins := pins })
    | .error (cause, p) => .error (((s.logWalk o.issuer.ctxnum cause p).late n o cause p).dropOp n o.id)

/-- The step that performs a command record (R218, R219, R221, R338). -/
def recordEvent (n : Nat) (o : EngineOp) (bs : List Byte) : Event :=
  match o.eng, fieldAt bs 0 1 with
  | 0, 0 => if isCore n then .gather n o.id else .copyCommandCopy n o.id
  | 0, 1 => if isCore n then .scatter n o.id else .copyCommandSlotFill n o.id
  | 0, 2 => .copyCommandAccumulatingStore n o.id
  | 0, _ => .copyCommandFill n o.id
  | 2, k => collEvent n o.id k
  | _, 0 => .consolidate n o.id
  | _, 1 => .consolidateActiveSet n o.id
  | _, _ => .insertArrangement n o.id

/-- A collective command waits for room in the partial store, or for its shadow (R375). -/
def State.collReady (s : State) (n : Nat) (o : EngineOp) : Bool :=
  match o.coll? with
  | some c => if c.srck = 0 then (s.tile n).storeFits c.len else ((s.tile n).coll.partialOf o.id).isSome
  | none => true

/-- The first operation that an engine may take: a ring operation that has been taken waits for its rings. -/
def Tile.nextOpOf (t : Tile) (engine : Nat) : Option EngineOp :=
  t.ops.find? fun o => o.eng == engine && o.stage == .queued && !(o.checked && match o.kind with | .eop .. => true | _ => false)

/-- The engine looks at its queue again. -/
def State.takeMore (s : State) (n engine : Nat) : State :=
  if ((s.tile n).nextOpOf engine).isSome then s.once (.engineTakeCommand n engine) else s

/-- ENGINE_TAKE_COMMAND (R215 to R217, R223, R375). -/
def execEngineTakeCommand (tile engine : Nat) (s : State) : Out :=
  match (s.tile tile).nextOpOf engine with
  | none => .next (s.kick tile)
  | some o =>
    -- engines complete their current operations and take no more of a frozen launch (R446)
    if (s.launch? o.issuer.ctxnum).any fun l => l.state == .down then .next s else
    match o.kind with
    | .ringMove k count produce =>
      let r := (s.tile tile).ring k
      let past := decide (if produce then r.size < r.occ + count.toNat else r.occ < count.toNat)
      let s := if past then s.late tile o Cause.ringover (BitVec.ofNat 64 k) else s
      let s := s.dropOp tile o.id
      .next ((if past then s else s.moveRing tile k count produce).takeMore tile engine)
    | .record bs =>
      if engine = 2 ∧ s.collReady tile o = false then .next (s.shadowKick tile)
      else match s.checkTaken tile o with
        | .error s => .next (s.takeMore tile engine)
        | .ok s =>
          let s := s.modOp tile o.id fun x => { x with stage := .running 0 0 }
          .next ((s.soon (recordEvent tile o bs)).takeMore tile engine)
    | .eop .. => match s.checkTaken tile o with
      | .error s => .next (s.takeMore tile engine)
      | .ok s => .next (((s.modOp tile o.id fun x => { x with checked := true }).kick tile).takeMore tile engine)

/-- The collective engine's firing (R225): the elements are the slice's partial, once the store has room. -/
def State.fireColl (s : State) (n : Nat) (o : EngineOp) (map : Word) (record : List Byte) : State :=
  let c := Coll.ofBytes record
  match (RingMap.of map).in0 with
  | some (k, count) =>
    if !(s.tile n).storeFits c.len then s
    else
      let (bs, ps) := s.ringBytes n k count
      let s := s.moveRing n k (BitVec.ofNat 32 count) false
      (s.modOp n o.id fun x => { x with stage := .running 0 0 }).keepPartial n o c bs ps
  | none => s

/-- A ring operation that fires, or one of the copy engine whose bytes are on their way. -/
def State.goesOn (s : State) (n id : Nat) : Option EngineOp :=
  match s.op? n id with
  | some o => if o.eng = 0 ∧ o.stage = .running 0 1 then some o else s.fires n id
  | none => none

/-- RING_OPERATION_FIRING (R225). -/
def execRingOperationFiring (tile op : Nat) (s : State) : Out :=
  match s.goesOn tile op with
  | none => .next s
  | some o =>
    match o.kind with
    | .eop fn a b map cr record =>
      match o.eng with
      | 0 => .next (if (s.streamOf tile o).isSome then s else s.fireCopy tile o fn a b map)
      | 1 => .next (s.fireMatrix tile o fn a b map cr)
      | 2 => .next (if s.now < (s.tile tile).sliceHeld then s.atCycle (s.tile tile).sliceHeld (.ringOperationFiring tile op) else s.fireColl tile o map record)
      | 3 => .next (s.fireNear tile o map record)
      | _ => .next (s.fireCons tile o fn a map)
    | _ => .next s

end Sys2Proof.Machine
end

