-- ==== Sys2Proof/Machine/MainFile.lean ====
section
/-!
DEFINITION. The main file's entries and their write-backs (R279 to R284), the scrubber, correctable and uncorrectable errors (R286 to R288), and
bank-rebuild mode (R289).
-/
namespace Sys2Proof.Machine

/-! ## Entries (R280 to R284) -/

def drowsyAfter : Nat := 65536
def gatedAfter : Nat := 65536 + 2 ^ 20

def RowEntry.dozes (e : RowEntry) (now : Nat) : Bool := e.state == .awake && decide (e.lastTouch + drowsyAfter ≤ now)
def RowEntry.fades (e : RowEntry) (now : Nat) : Bool := e.state == .drowsy && decide (e.lastTouch + gatedAfter ≤ now)

/-- ROW_DROWSY (R280): no touch for 65,536 cycles. -/
def execRowDrowsy (tile entry : Nat) (s : State) : Out :=
  match (s.tile tile).mainFile[entry]? with
  | some e =>
    if e.dozes s.now then .next (s.modTile tile fun t => { t with mainFile := t.mainFile.set entry { e with state := .drowsy } })
    else .next s
  | none => .next s

/-- ROW_GATED (R280): no touch for a further 2^20 cycles; a dirty row is written back. -/
def execRowGated (tile entry : Nat) (s : State) : Out :=
  match (s.tile tile).mainFile[entry]? with
  | some e =>
    if e.fades s.now && !(e.dirty && decide (4 ≤ (s.tile tile).writingBack)) then
      .next ((s.modTile tile fun t => { t with mainFile := t.mainFile.eraseIdx entry }).writeBackRows tile [(e.key, e.dirty)])
    else .next s
  | none => .next s

/-- ROW_FILL (R282): a gated row of the context in a berth gets an entry that holds its image's value; it waits while
the write-back buffer is full (R281). -/
def execRowFill (tile berth row : Nat) (s : State) : Out :=
  match s.ctx? tile berth with
  | some c =>
    if isCore tile || decide (c.cr.mwl.toNat ≤ row) || decide (4 ≤ (s.tile tile).writingBack) || (s.tile tile).mainFile.any (fun e => e.is (c.ctxnum, c.image, row)) then .next s
    else .next (s.touchRows tile c.ctxnum c.image [(row, false)])
  | none => .next s

/-- A row is gated (R280): a dirty one has reached its image, and what its image holds poisoned is what the row holds so. -/
def State.gateRow (s : State) (w : WriteBack) : State :=
  let k : RowKey := (w.ctxnum, w.image, w.row)
  if w.dirty then s.writeImageRow k
  else match (s.launch? w.ctxnum).bind fun l => (lookup w.image l.images).bind fun im => s.imagePa l.part im.locator (256 * w.row) with
    | some pa => s.modRows w.ctxnum w.image id (fun ps => ps.filter (fun p => p.1 != w.row) ++ (s.poisonIn pa 256).map fun x => (w.row, x)) []
    | none => s

/-- WRITE_BACK_DRAIN (R280, R281): the rows whose writes have reached the image are gated, and their places are free. -/
def execWriteBackDrain (tile : Nat) (s : State) : Out :=
  let due (w : WriteBack) : Bool := decide (w.due ≤ s.now)
  let out := (s.tile tile).writeBack.filter due
  let s := out.foldl (fun s w => if (s.tile tile).mainFile.any (fun e => e.is (w.ctxnum, w.image, w.row)) && !w.dirty then s else s.gateRow w) s
  .next (s.modTile tile fun t => { t with writeBack := t.writeBack.filter fun w => !(due w) })

/-- REFRESH_BURST (R283): a burst holds a bank for four cycles and changes no row, no state and no count. -/
def execRefreshBurst (_tile _bank : Nat) (s : State) : Out := .next s

/-- DEBUGGER_ROW_WRITE (R284): the row as one write, whose drowsy entry it wakes; of a gated row the image is written directly. -/
def execDebuggerRowWrite (tile berth row : Nat) (data : BitVec 2048) (s : State) : Out :=
  match s.ctx? tile berth with
  | some c =>
    if c.cr.mwl.toNat ≤ row then .next s
    else
      .next (s.modRows c.ctxnum c.image (fun rs => rowsSet rs row data) (fun ps => ps.filter fun p => p.1 != row) [row])
  | none => .next s

/-! ## Errors (R286 to R288) -/

/-- A word of an array, by the model's numbering: HBM by physical address, the slices where the flat memory keeps them, and above those the
operand memories, the accumulators, the main-file entries of the tiles and the tag words of their lines. -/
inductive Site where
  | hbm (pa : Nat)
  | slice (agent off : Nat)
  | operand (tile off : Nat)
  | acc (tile row : Nat)
  | entry (tile index word : Nat)
  | tag (tile line : Nat)
  | none
  deriving DecidableEq, Repr

/-- The site of an address. -/
def siteOf (a : Nat) : Site :=
  if a < hbmSize then .hbm a
  else if a < 2 ^ 40 then .none
  else if a < 2 ^ 40 + 4096 * 2 ^ 17 then .slice ((a - 2 ^ 40) / 2 ^ 17) (a % 2 ^ 17)
  else if a < 2 ^ 41 then .none
  else if a < 2 ^ 41 + 1152 * 2 ^ 16 then .slice (4096 + (a - 2 ^ 41) / 2 ^ 16) (a % 2 ^ 16)
  else if a < 2 ^ 42 then .none
  else if a < 2 ^ 42 + 4096 * 2 ^ 16 then .operand ((a - 2 ^ 42) / 2 ^ 16) (a % 2 ^ 16)
  else if a < 2 ^ 43 then .none
  else if a < 2 ^ 43 + 4096 * 2 ^ 15 then .acc ((a - 2 ^ 43) / 2 ^ 15) (896 + a % 2 ^ 15 / 256)
  else if a < 2 ^ 44 then .none
  else if a < 2 ^ 44 + 4096 * 2 ^ 18 then .entry ((a - 2 ^ 44) / 2 ^ 18) (a % 2 ^ 18 / 256) (a % 256 / 8)
  else if a < 2 ^ 45 then .none
  else if a < 2 ^ 45 + 4096 * 2 ^ 13 then .tag ((a - 2 ^ 45) / 2 ^ 13) (a % 2 ^ 13 / 4)
  else .none

/-- The agent whose count and report a site belongs to: HBM through its memory core (R286). -/
def Site.agent : Site → Nat
  | .hbm pa => servingCore pa
  | .slice n _ => n
  | .operand n _ => n
  | .acc n _ => n
  | .entry n _ _ => n
  | .tag n _ => n
  | .none => 0

/-- SCRUB_READ (R286): `error` is 0 for a word that is as it was written, 1 for a single-bit error and otherwise an uncorrectable one. It is no
touch. -/
def execScrubRead (address : Nat) (error : Nat) (s : State) : Out :=
  if siteOf address = .none ∨ error = 0 then .next s
  else if error = 1 then .next (s.soon (.correctedWriteBack address))
  else .next (s.soon (.uncorrectableError address))

/-- CORRECTED_WRITE_BACK (R287): the corrected word is written back, which changes no value, and the count rises. -/
def execCorrectedWriteBack (address : Nat) (s : State) : Out :=
  match siteOf address with
  | .none => .next s
  | x => .next (s.modTile x.agent fun t => { t with correctable := t.correctable + 1 })

/-- The context number of the launch that a tile's matrix unit works for (R288). -/
def State.unitOwner (s : State) (n : Nat) : Nat :=
  (((s.tile n).mx.holder.bind fun b => s.ctx? n b).map Ctx.ctxnum).getD (s.tile n).owner

/-- OWNER of a slice's line (R275); where the tag word is poisoned no launch is named, so the steward alone hears (R288). -/
def Tile.ownerOf (t : Tile) (line : Nat) : Nat := if t.tagPoison.contains line then 0 else (((lookup line t.tags).getD 0).extractLsb' 20 12).toNat

/-- A word of a slice is lost: poison, and a report to the launch that owns its line. -/
def State.loseLine (s : State) (n off : Nat) (words : List Nat) : State :=
  (s.poisonSlice n 0 words).report (.poison ((s.tile n).ownerOf (off / 64)) n 0 off)

/-- A unit of operand memory, and a row of the accumulators, marked poisoned. -/
def State.poisonUnit (s : State) (n u : Nat) : State :=
  s.modTile n fun t => { t with mx := { t.mx with slotPoison := addOnce u t.mx.slotPoison } }
def State.poisonAcc (s : State) (n row : Nat) : State :=
  s.modTile n fun t => { t with mx := { t.mx with accPoison := addOnce row t.mx.accPoison } }

/-! ## Bank-rebuild mode (R289) -/

/-- The bank that holds a logical line. -/
def rebuildBank (line : Nat) : Nat := (line / 7 + 1 + line % 7) % 8

/-- The logical lines of a bank: those of every stripe but the eighth ones whose parity it holds. -/
def bankLines (bank : Nat) : List Nat := (natsFrom 0 1792).filter fun l => rebuildBank l == bank

/-- The offset in a frame of a physical address, where it lies in the frame (R278, R465). -/
def State.frameOff (s : State) (part : Nat) (im : Image) (pa : Nat) : Option Nat :=
  ((s.imageRuns part im.locator 0x46000).foldl (fun (acc : Nat × Option Nat) r =>
    (acc.1 + r.2, if r.1 ≤ pa ∧ pa < r.1 + r.2 then some (acc.1 + (pa - r.1)) else acc.2)) (0, none)).2

/-- The row of a frame that a physical address lies in, and the word of it. -/
def State.rowAt (s : State) (pa : Nat) : Option (RowKey × Nat) :=
  firstSome (fun (k, l) => firstSome (fun (ix, im) => if isCore im.agent then none else
    (s.frameOff l.part im pa).map fun o => ((k, ix, o / 256), o % 256 / 8)) l.images) s.launches

/-- The steward or the debugger has written a row of a frame (R39, R284): a gated row has the value of its image, and the state area is that of
the context that was saved or trapped there. -/
def State.imageRowWritten (s : State) (k : RowKey) : State :=
  match (s.launch? k.1).bind fun l => (lookup k.2.1 l.images).map fun im => (l, im) with
  | none => s
  | some (l, im) =>
    match s.imagePa l.part im.locator (256 * k.2.2) with
    | none => s
    | some pa =>
      let row := rowOfBytes (Mem.readBytes s.mem pa 256)
      if k.2.2 < 896 then
        if (s.tile im.agent).rowGated k then s.modRows k.1 k.2.1 (fun rs => rowsSet rs k.2.2 row) id [] else s
      else match (s.ctx? im.agent im.berth).filter fun (c : Ctx) => c.ctxnum == k.1 && c.image == k.2.1 with
        | some c => if c.inHandler then s.setCtx im.agent im.berth (c.withAreaRow false k.2.2 row) else s
        | none => s.modLaunch k.1 fun l =>
          { l with saved := l.saved.map fun (x : Saved) => if x.ctx.image = k.2.1 then { x with ctx := x.ctx.withAreaRow true k.2.2 row } else x }

/-- The rows of frames that a written run of physical memory meets. -/
def State.imageWritten (s : State) (pa len : Nat) : State :=
  let keys := (natsFrom (pa / 256) ((pa + len + 255) / 256 - pa / 256)).filterMap fun i => (s.rowAt (256 * i)).map Prod.fst
  keys.foldl State.imageRowWritten s

/-- A poisoned word of an image: the gated row that it is of holds it poisoned (R280, R288). -/
def State.poisonImage (s : State) (pa : Nat) : State :=
  match s.rowAt pa with
  | none => s
  | some (k, w) =>
    let tile := (((s.launch? k.1).bind fun l => lookup k.2.1 l.images).map Image.agent).getD 0
    if k.2.2 < 896 && (s.tile tile).rowGated k then
      s.modRows k.1 k.2.1 id (fun ps => if ps.contains (k.2.2, w) then ps else ps ++ [(k.2.2, w)]) []
    else s

/-- The word of a slice that an offset names in bank-rebuild mode: above 112 KiB the parity lines stand (R289). -/
def rebuildWord (off : Nat) : Nat := if off < 0x1c000 then off / 8 else 16384 + (off - 0x1c000) / 8

/-- The logical line of a stripe that a bank holds: none for its parity (R289). -/
def lineOfBank (stripe bank : Nat) : Option Nat := (natsFrom (7 * stripe) 7).find? fun l => rebuildBank l == bank

/-- Words of a slice that are lost for good: its data words are poisoned and reported (R288). -/
def State.loseWords (s : State) (n : Nat) (words : List Nat) : State :=
  let s := s.modTile n fun t => { t with lostWords := t.lostWords.filter fun w => !(words.contains w) }
  (words.filter fun w => decide (w < 0x1c000 / 8)).foldl (fun s w => s.loseLine n (8 * w) [w]) s

/-- An uncorrectable error in a slice in bank-rebuild mode (R289): the other lines of the stripe rebuild a first one; a second one in a stripe
that relies on reconstruction is lost, and with it what was rebuilt from it. -/
def State.stripeError (s : State) (n off : Nat) : State :=
  let t := s.tile n
  let w := rebuildWord off
  let stripe := stripeOf w
  let rebuilt := (t.failedBank.bind (lineOfBank stripe)).toList.map fun l => 8 * l + w % 8
  let others := t.lostWords.filter fun x => stripeOf x == stripe && x != w
  let inFailed := t.failedBank.any fun b => (if w < 16384 then some (w / 8) else none) == lineOfBank stripe b
  if inFailed || t.lostWords.contains w then s
  else if t.failedBank.isNone && others.isEmpty then s.modTile n fun t => { t with lostWords := t.lostWords ++ [w] }
  else s.loseWords n (w :: rebuilt ++ others.filter fun x => x % 8 == w % 8)

/-- UNCORRECTABLE_ERROR (R288): the word is poisoned and a report names the array (0 slice, 1 main file, 2 accumulator, 3 operand slot, 4 HBM,
5 tag word), the tile and the offset, row or line. A slice in bank-rebuild mode rebuilds a first one of a stripe (R289). -/
def execUncorrectableError (address : Nat) (s : State) : Out :=
  match siteOf address with
  | .none => .next s
  | .hbm pa => .next (((s.poisonPa [pa / 8]).poisonImage pa).report (.poison 0 (servingCore pa) 4 pa))
  | .slice n off =>
    .next (if (s.tile n).rebuild then s.stripeError n off else (s.loseLine n off [off / 8]).poisonImage (slicePa n off))
  | .tag n line =>
    .next ((s.modTile n fun t => { t with
        tags := insertAt line ((Config.freeWord s.steps line).extractLsb' 0 32) t.tags, tagPoison := addOnce line t.tagPoison }).report
      (.poison 0 n 5 line))
  | .operand n off => .next ((s.poisonUnit n (off / 16)).report (.poison (s.unitOwner n) n 3 off))
  | .acc n row => .next ((s.poisonAcc n row).report (.poison (s.unitOwner n) n 2 row))
  | .entry n i w =>
    match (s.tile n).mainFile[i]? with
    | none => .next s
    | some e => .next ((s.modRows e.ctxnum e.image id (fun ps => if ps.contains (e.row, w) then ps else ps ++ [(e.row, w)]) []).report
        (.poison e.ctxnum n 1 e.row))

/-- BANK_FAILURE (R289): a first failed bank is rebuilt from the others on every access; a second one loses the lines of both (R288). -/
def execBankFailure (tile bank : Nat) (s : State) : Out :=
  let t := s.tile tile
  if !t.rebuild || decide (8 ≤ bank) || isCore tile then .next s
  else match t.failedBank with
    | none =>
      -- words that other lines of their stripes were rebuilding are lost with the lines of the bank that they share a column with
      let old := t.lostWords
      let s := s.modTile tile fun t => { t with failedBank := some bank, lostWords := [] }
      let lose (s : State) (w : Nat) : State :=
        match lineOfBank (stripeOf w) bank with
        | some l => if w < 16384 ∧ l = w / 8 then s else s.loseWords tile [w, 8 * l + w % 8]
        | none => s.loseWords tile [w]
      .next ((old.foldl lose s).report (.bank tile bank))
    | some b =>
      if b = bank then .next s
      else .next (((bankLines b ++ bankLines bank).foldl (fun s l => s.loseLine tile (64 * l) (natsFrom (8 * l) 8)) s).report (.bank tile bank))

end Sys2Proof.Machine
end

