-- ==== Sys2Proof/Machine/Loader.lean ====
section
/-!
DEFINITION. Linked objects (R112 to R121): the checks of the format, the frames and mappings the steward gives their external sections (R330,
R331, R454), and loading and unloading.
-/
namespace Sys2Proof.Machine

/-- The number in `n` bytes at an offset of a list of bytes (R41). -/
def num (bs : List Byte) (off n : Nat) : Nat := leNat ((bs.drop off).take n)

/-- The bytes of a part of a list. -/
def bytesAt (bs : List Byte) (off n : Nat) : List Byte := (bs.drop off).take n

/-! ## Frames and page tables of a partition (R330, R331, R454) -/

/-- Reads external memory for the steward or a command processor: none where a page is not mapped. -/
def State.readVa (s : State) (p va len : Nat) : Option (List Byte) :=
  (pagesOf va len).foldr (fun (a, n) rest => match s.physOf p a, rest with
    | some pa, some bs => some (Mem.readBytes s.mem pa n ++ bs)
    | _, _ => none) (some [])

/-- Writes external memory for the steward: bytes of pages that are not mapped go nowhere. -/
def State.writeVa (s : State) (p va : Nat) (bs : List Byte) : State :=
  (pagesOf va bs.length).foldl (fun s (a, n) => match s.physOf p a with
    | some pa => s.writePa pa ((bs.drop (a - va)).take n)
    | none => s) s

/-- The first byte of the region that keeps a fatal dump: the top 4 GiB of HBM stack 11 (R450). -/
def dumpBase : Nat := hbmSize - 2 ^ 32

/-- A frame that a partition's root table, launch queue or save area lies in (R449). -/
def Partition.holds (p : Partition) (f : Nat) : Bool :=
  meets (65536 * f) 65536 p.ptroot.toNat 4096 || meets (65536 * f) 65536 p.lqueue.toNat 4096 ||
  meets (65536 * f) 65536 (p.save.toNat % 2 ^ 48) (p.save.toNat / 2 ^ 48 * 2 ^ 20)

/-- Whether the steward may grant a frame: none has it, and nothing of the device lies there. -/
def State.frameFree (s : State) (f : Nat) : Bool :=
  decide (0 < f) && decide (65536 * f + 65536 ≤ dumpBase) && !(s.stew.frames.contains f) && !(s.parts.any fun x => x.2.holds f)

/-- The first of the frames from `f` on, in steps, that may be granted. -/
def State.findFrame (s : State) (step : Nat) : Nat → Nat → Option Nat
  | 0, _ => none
  | n + 1, f => if s.frameFree f then some f else if 65536 * f < hbmSize then s.findFrame step n (f + step) else none

/-- Grants a frame for a page of a colour (R327), or for a table, and zeroes it. -/
def State.grantFrame (s : State) (color : Option Nat) : Option (State × Nat) :=
  let found := match color with
    | some c => s.findFrame 9 (2 ^ 24) c
    | none => s.findFrame 1 (2 ^ 24) 1
  found.map fun f =>
    let mem := s.mem.filter fun x => !(decide (65536 * f ≤ x.1 ∧ x.1 < 65536 * f + 65536))
    ({ s with mem := mem, stew := { s.stew with frames := s.stew.frames ++ [f] } }, f)

/-- Maps the page of an address, making the tables it needs: none where no frame is left. A page that no program writes lacks W. -/
def State.mapPage (s : State) (va : Nat) (w : Bool) : Nat → Nat → Nat → Option State
  | 0, _, _ => some s
  | n + 1, level, table =>
    let pa := table + 8 * walkIndex va level
    let e := s.entryAt pa
    if level = 4 then
      if pteValid e then some s
      else (s.grantFrame (some (va / 65536 % 9))).map fun (s, f) =>
        s.writePa pa (leBytes 8 (2 ^ 63 + 2 ^ 61 + (if w then 2 ^ 60 else 0) + 65536 * f))
    else if pteValid e then
      if pteType e = 0 then s.mapPage va w n (level + 1) (pteAddr e) else some s
    else match s.grantFrame none with
      | none => none
      | some (s, f) => (s.writePa pa (leBytes 8 (2 ^ 63 + 65536 * f))).mapPage va w n (level + 1) (65536 * f)

/-- Maps every page of a run. -/
def State.mapRun (s : State) (p va len : Nat) (w : Bool := true) : Option State :=
  let root := ((s.part? p).map fun x => x.ptroot.toNat).getD 0
  (pagesOf va len).foldl (fun s x => s.bind fun s => s.mapPage x.1 w 4 1 root) (some s)

/-- Unmaps every page of a run, and takes its frames back. -/
def State.unmapRun (s : State) (p va len : Nat) : State :=
  let root := ((s.part? p).map fun x => x.ptroot.toNat).getD 0
  (pagesOf va len).foldl (fun s x =>
    match walkFrom s.entryAt x.1 4 1 root [] with
    | (some (e, _), used) => match used.getLast? with
      | some (pa, _) =>
        let s := s.writePa pa (leBytes 8 0)
        { s with stew := { s.stew with frames := s.stew.frames.filter fun f => f != pteAddr e / 65536 } }
      | none => s
    | (none, _) => s) s

/-! ## The format (R112 to R117) -/

/-- A section (R113). -/
structure Section where
  name : Nat
  kind : Nat
  align : Nat
  link : Nat
  offset : Nat
  size : Nat
  addr : Nat
  deriving DecidableEq, Repr

def Section.ofBytes (e : List Byte) : Section :=
  { name := num e 0 4, kind := num e 4 1, align := num e 5 1, link := num e 6 1, offset := num e 8 8, size := num e 16 8, addr := num e 24 8 }

def Section.bytes (x : Section) (obj : List Byte) : List Byte := bytesAt obj x.offset x.size

/-- The sections of an object. -/
def sectionsOf (obj : List Byte) : List Section :=
  (natsFrom 0 (num obj 0x0a 2)).map fun i => Section.ofBytes (bytesAt obj (num obj 0x0c 4 + 32 * i) 32)

/-- A handler entry (R117). -/
def Handler.ofBytes (e : List Byte) : Handler :=
  { entry := BitVec.ofNat 48 (num e 0 6), cls := BitVec.ofNat 2 (num e 8 1), scbchk := num e 9 1 == 1, vtype := BitVec.ofNat 6 (num e 10 1),
    accmode := BitVec.ofNat 2 (num e 11 1), fmta := BitVec.ofNat 4 (num e 12 1), fmtb := BitVec.ofNat 4 (num e 13 1),
    mwl := BitVec.ofNat 10 (num e 14 2), resident := num e 16 2 }

/-- The limits of R117 and R108; with MEMCORE, those of R335. -/
def handlerOk (memcore : Bool) (e : List Byte) : Bool :=
  let mwl := num e 14 2
  decide (num e 6 2 = 0 ∧ num e 8 1 ≤ 2 ∧ num e 9 1 ≤ 1 ∧ num e 10 1 < 64 ∧ num e 10 1 % 16 ≤ 8 ∧ num e 11 1 ≤ 3 ∧
    num e 12 1 < 16 ∧ num e 12 1 % 8 ≤ 5 ∧ num e 13 1 < 16 ∧ num e 13 1 % 8 ≤ 5) &&
  decide (24 ≤ mwl ∧ mwl ≤ 896 ∧ mwl % 8 = 0 ∧ num e 16 2 + 16 ≤ mwl) && (!memcore || decide (num e 8 1 = 0 ∧ mwl = 64))

/-- The header's fields (R112). -/
def headerOk (obj : List Byte) : Bool :=
  let nsect := num obj 0x0a 2
  decide (64 ≤ obj.length ∧ num obj 0 4 = 0x00464f53 ∧ num obj 4 2 = 1 ∧ num obj 6 2 < 8 ∧ num obj 6 2 % 2 = 1 ∧ num obj 8 2 = 0x0b16) &&
  decide (1 ≤ nsect ∧ nsect ≤ 256 ∧ num obj 0x0c 4 % 8 = 0 ∧ num obj 0x0c 4 + 32 * nsect ≤ obj.length ∧ num obj 0x10 2 < nsect ∧
    num obj 0x14 4 = 64 ∧ num obj 0x18 8 % 65536 = 0 ∧ num obj 0x20 8 = obj.length)

/-- A symbol's fields (R115): its name lies in STRINGS, it is absolute by SECT and by TYPE or by neither, and a linked object holds no extern
symbol. -/
def symbolOk (nsect strsize : Nat) (e : List Byte) : Bool :=
  decide (num e 0 4 < strsize ∧ (num e 4 2 < nsect ∨ num e 4 2 = 0xfffe) ∧ num e 6 1 ≤ 2 ∧ num e 7 1 ≤ 1 ∧
    (num e 4 2 = 0xfffe ↔ num e 6 1 = 2))

/-! ## Launch records (R118) -/

/-- The VALID entries of STAGES. -/
def stagesOf (r : List Byte) : List (Nat × StageEntry) :=
  (natsFrom 0 16).filterMap fun i =>
    let e := bytesAt r (0x40 + 4 * i) 4
    if num e 0 1 / 128 = 1 then some (i, { chan := num e 0 1 % 16, handler := num e 2 2 }) else none

/-- The rings that RINGV declares. -/
def ringsOf (r : List Byte) : List RingDecl :=
  (natsFrom 0 16).filterMap fun i =>
    let e := bytesAt r (0xa0 + 8 * i) 8
    if (num r 0x26 2).testBit i then some { ring := i, base := num e 0 4, lg := num e 4 1, eng := num e 5 1, es := num e 6 2 } else none

def Inject.ofBytes (e : List Byte) : Inject :=
  { x := num e 0 1, y := num e 1 1, z := num e 2 1, stage := num e 3 1, ts := BitVec.ofNat 64 (num e 8 8), count := num e 16 1,
    payload := bytesAt e 32 64 }

/-- R107: a ring's limits. -/
def RingDecl.ok (r : RingDecl) : Bool :=
  decide (r.base % 64 = 0 ∧ 1 ≤ r.lg ∧ r.lg ≤ 12 ∧ r.eng ≤ 4) && [8, 16, 32, 64, 128, 256].contains r.es &&
  decide (2 ^ r.lg * r.es ≤ 0x10000 ∧ r.base + 2 ^ r.lg * r.es ≤ 0x20000)

/-- The limits of a record's own fields (R107, R118). -/
def recordFields (r : List Byte) : Bool :=
  let flags := num r 6 2
  let auto := flags / 2 % 2 == 1
  let axes := (natsFrom 0 4).map fun i => num r (0x90 + 2 * i) 2
  let stages := (natsFrom 0 16).map fun i => bytesAt r (0x40 + 4 * i) 4
  decide (num r 4 2 = 1 ∧ flags < 4 ∧ 1 ≤ num r 0xc 2 ∧ num r 0x20 4 ≠ 0) &&
  ((natsFrom 8 3).all fun i => decide (1 ≤ num r i 1 ∧ num r i 1 ≤ 16)) &&
  (if flags % 2 = 1 then decide (num r 0x28 8 < 2 ^ 48) else num r 0x28 8 == 0) &&
  (if auto then decide (num r 0x30 8 = 0 ∧ num r 0x38 4 % 8 = 0 ∧ num r 0x38 4 + 8 ≤ 0x20000) else num r 0x38 4 == 0xffffffff) &&
  (stages.all fun e => decide (num e 0 1 < 128) || decide (num e 0 1 / 16 % 8 = 0 ∧ num e 0 1 % 16 ≤ 11 ∧ num e 2 2 < num r 0xc 2)) &&
  ((natsFrom 0 12).all fun i => decide (num r (0x80 + i) 1 ≤ 7)) && num r 0x8c 4 == 0 &&
  (axes.all fun n => decide (n ≤ 4096)) && (ringsOf r).all RingDecl.ok

/-- The records of a LAUNCH section that begins at an address, which the first of their lists ends (R118): each keeps its limits. -/
def launchesOk (addr : Nat) (bs : List Byte) : Nat → Nat → Nat → Bool
  | 0, _, _ => true
  | n + 1, at_, stop =>
    if stop < at_ + 320 then true
    else
      let r := bytesAt bs at_ 320
      let list (cnt off : Nat) (stop : Nat) : Nat := if num r cnt 2 = 0 then stop else min stop (num r off 8 - addr)
      recordFields r && launchesOk addr bs n (at_ + 320) (list 0xe 0x18 (list 0x24 0x98 stop))

/-- One section's own rules (R113 to R117). -/
def sectionOk (obj : List Byte) (nsect strsize : Nat) (memcore : Bool) (x : Section) : Bool :=
  let inSlice := decide (x.addr + x.size ≤ 0x20000)
  let inExt := decide (x.addr % 65536 = 0 ∧ num obj 0x18 8 ≤ x.addr ∧ x.addr + x.size ≤ 2 ^ 48)
  decide (x.name < strsize ∧ x.align ≤ 16 ∧ x.link = 0 ∧ x.offset % 8 = 0 ∧ x.offset % 2 ^ min x.align 6 = 0 ∧
    x.offset + x.size ≤ obj.length) &&
  match x.kind with
  | 1 => decide (x.addr % 4096 = 0 ∧ x.addr + x.size ≤ 2 ^ 48)
  | 2 => decide (x.size % 4 = 0 ∧ x.size ≤ 4096 ∧ x.addr = 0)
  | 3 => inSlice
  | 4 => inSlice
  | 5 => inExt
  | 6 => inExt && launchesOk x.addr (x.bytes obj) x.size 0 x.size
  | 7 => inExt && decide (x.size % 32 = 0) && (chunks 32 x.size (x.bytes obj)).all (handlerOk memcore) &&
      (!memcore || decide (x.size ≤ 16 * 32))
  | 8 => decide (x.size % 16 = 0 ∧ x.addr = 0) && (chunks 16 x.size (x.bytes obj)).all (symbolOk nsect strsize)
  | 10 => decide (x.addr = 0 ∧ 0 < x.size ∧ num obj x.offset 1 = 0)
  | 11 => decide (x.addr = 0 ∧ x.size = 528 ∧ x.offset + x.size = obj.length)
  | _ => false

/-- No two of a list of runs meet. -/
def apart : List (Nat × Nat) → Bool
  | [] => true
  | r :: rs => (rs.all fun q => !(meets r.1 r.2 q.1 q.2)) && apart rs

/-- Every rule of the format that a linked object must meet (R112 to R117, R121). -/
def objectOk (obj : List Byte) : Bool :=
  headerOk obj &&
  let xs := sectionsOf obj
  let nsect := num obj 0x0a 2
  let of (k : Nat) : List Section := xs.filter fun x => x.kind == k
  let count (k : Nat) : Nat := (of k).length
  let strsize := ((xs[num obj 0x10 2]?).map Section.size).getD 0
  let symsect := num obj 0x12 2
  xs.all (sectionOk obj nsect strsize (num obj 6 1 / 4 % 2 == 1)) &&
  apart (xs.map fun x => (x.offset, x.size)) && apart ((of 1).map fun x => (x.addr, x.size)) &&
  apart ((of 5 ++ of 6 ++ of 7).map fun x => (x.addr, x.size)) &&
  decide (count 2 ≤ 1 ∧ count 8 ≤ 1 ∧ count 10 = 1 ∧ count 11 ≤ 1 ∧ count 11 = num obj 6 1 / 2 % 2) &&
  decide ((xs[num obj 0x10 2]?).map Section.kind = some 10) &&
  (if count 8 = 0 then symsect == 0xffff else decide ((xs[symsect]?).map Section.kind = some 8))

/-- R120: the signature verifies under one of the partition's keys; an unsigned object needs a partition that asks for none. -/
def signatureOk (p : Partition) (obj : List Byte) : Bool :=
  match (sectionsOf obj).find? fun x => x.kind == 11 with
  | none => !p.policy.getLsbD 8
  | some x =>
    let e := x.bytes obj
    let keyid := BitVec.ofNat 64 (num e 0 8)
    decide (num e 8 2 = 1 ∧ num e 10 2 = 1) && keyid != 0 && p.keyids.contains keyid &&
      pssVerify (Config.publicKey keyid).1 (Config.publicKey keyid).2 (obj.take x.offset) (bytesAt e 16 512)

/-! ## Loading and unloading (R121, R335) -/

namespace LoadStatus
def ok := 0
def badobj := 1
def badsig := 2
def overlap := 3
def nospace := 4
def busy := 5
end LoadStatus

/-- What the steward keeps of an object. -/
def loadedOf (id : Nat) (obj : List Byte) : LoadedObject :=
  let xs := sectionsOf obj
  let of (k : Nat) : List Section := xs.filter fun x => x.kind == k
  let runs (l : List Section) : List (Nat × Nat) := l.map fun x => (x.addr, x.size)
  let words := (of 2).flatMap fun x => (chunks 4 x.size (x.bytes obj)).map fun w => BitVec.ofNat 32 (leNat w)
  { id := id, memcore := num obj 6 1 / 4 % 2 == 1, regions := (of 1).map (fun x => (x.addr, (x.size + 4095) / 4096 * 4096)), ext := runs (of 5 ++ of 7 ++ of 6), launches := runs (of 6),
    dict := (natsFrom 0 words.length).zip words, near := (of 3).map (fun x => (x.addr, x.bytes obj)),
    cube := (of 4).map fun x => (x.addr, x.bytes obj) }

/-- The instruction region of a partition (R79): the addresses that its loaded CODE sections cover. -/
def Partition.region (p : Partition) : List (Nat × Nat) := p.objects.flatMap LoadedObject.regions

/-- The launches of a partition see the region as it now is. -/
def State.renewRegions (s : State) (p : Nat) : State :=
  let r := ((s.part? p).map Partition.region).getD []
  { s with launches := s.launches.map fun (k, l) => if l.part = p then (k, { l with regions := r }) else (k, l) }

/-- The parcels of a CODE section, by index (R60). -/
def codeParcels (addr : Nat) (bs : List Byte) : List (Nat × BitVec 16) :=
  let ps := (chunks 2 bs.length bs).map fun b => BitVec.ofNat 16 (leNat b)
  (natsFrom (addr / 2) ps.length).zip ps

/-- The frames that the instruction store gives a run of code: none where none is left (R114, R121). -/
def State.storeFrames (s : State) (len : Nat) : Option (State × List Nat) :=
  (natsFrom 0 ((len + 65535) / 65536)).foldl (fun acc _ => acc.bind fun (s, fs) => (s.grantFrame none).map fun (s, f) => (s, fs ++ [f])) (some (s, []))

/-- The address of the steward's copy of an object's DICT contents (R232): the highest page that meets no range of the partition. -/
def dictPlace (ext : List (Nat × Nat)) : Nat :=
  ((natsFrom 1 (ext.length + 65536)).map fun i => 2 ^ 48 - 65536 * i).find? (fun a => !(ext.any fun r => meets r.1 r.2 a 65536)) |>.getD 0

/-- The dictionary's 4,096 bytes, unoccupied entries all ones (R69). -/
def dictBytes (d : List (Nat × BitVec 32)) : List Byte := (natsFrom 0 1024).flatMap fun i => leBytes 4 ((lookup i d).getD 0xffffffff).toNat

/-- LOAD_OBJECT (R121): BADOBJ, BADSIG, OVERLAP, NOSPACE, or the object is loaded. -/
def execLoadObject (part : Nat) (object : List (BitVec 8)) (s : State) : Out :=
  match s.part? part with
  | none => .next s
  | some p =>
    let x := loadedOf p.nextObject object
    let fail (st : Nat) : Out := .next (s.report (.load part p.nextObject st))
    let clash (f : LoadedObject → List (Nat × Nat)) : Bool :=
      p.objects.any fun y => (f y).any fun a => (f x).any fun b => meets a.1 a.2 b.1 b.2
    if !objectOk object then fail LoadStatus.badobj
    else if !signatureOk p object then fail LoadStatus.badsig
    else if clash LoadedObject.ext then fail LoadStatus.overlap
    else
      let dict := dictPlace (p.objects.flatMap LoadedObject.ext ++ x.ext)
      let mapped := (x.ext.foldl (fun s r => s.bind fun s => s.mapRun part r.1 r.2) (some s)).bind fun s =>
        if x.dict.isEmpty then some s else s.mapRun part dict 4096 false
      match mapped.bind fun s => s.storeFrames ((x.regions.map Prod.snd).sum) with
      | none => fail LoadStatus.nospace
      | some (s, frames) =>
        let xs := sectionsOf object
        let s := (xs.filter fun y => decide (5 ≤ y.kind ∧ y.kind ≤ 7)).foldl (fun s y => s.writeVa part y.addr (y.bytes object)) s
        let s := if x.dict.isEmpty then s else s.writeVa part dict (dictBytes x.dict)
        let code := (xs.filter fun y => y.kind == 1).flatMap fun y => codeParcels y.addr (y.bytes object)
        let services := if x.memcore then
            let es := (xs.filter fun y => y.kind == 7).flatMap fun y => (chunks 32 y.size (y.bytes object)).map Handler.ofBytes
            (natsFrom 0 es.length).zip es
          else p.services
        let x := { x with
          code := code.foldl (fun c y => insertAt y.1 y.2 c) [], ext := x.ext ++ [(dict, 4096)], store := frames, dictAt := dict }
        let s := s.modPart part fun p => { p with objects := p.objects ++ [x], nextObject := p.nextObject + 1, services := services }
        .next ((s.renewRegions part).report (.load part x.id LoadStatus.ok))

/-- UNLOAD_OBJECT (R121): refused with BUSY while a launch of it is queued or placed. -/
def execUnloadObject (part index : Nat) (s : State) : Out :=
  match s.part? part with
  | none => .next s
  | some p =>
    match p.objects.find? fun x => x.id == index with
    | none => .next s
    | some x =>
      let queued := p.queue.any fun q => (q.status.isNone || q.status == some .held) &&
        x.launches.any fun r => meets r.1 r.2 (q.record.extractLsb' 0 48).toNat 320
      let placed := s.launches.any fun l => l.2.part == part && l.2.object == index
      if queued || placed then .next (s.report (.load part index LoadStatus.busy))
      else
        let s := x.ext.foldl (fun s r => s.unmapRun part r.1 r.2) s
        let s := x.ext.foldl (fun s r => s.soon (.shootdown part (BitVec.ofNat 48 r.1) r.2)) s
        let s : State := { s with stew := { s.stew with frames := s.stew.frames.filter fun f => !(x.store.contains f) } }
        let s := s.modPart part fun p => { p with objects := p.objects.filter fun y => y.id != index }
        .next ((s.renewRegions part).report (.load part index LoadStatus.ok))

end Sys2Proof.Machine
end

