-- ==== Sys2Proof/Machine/Launch.lean ====
section
/-!
DEFINITION. Launch queues, admission, placement and retirement (R117, R118, R122 to R124, R213, R275, R348 to R350, R427, R457, R465).
-/
namespace Sys2Proof.Machine

/-! ## Launch records (R118) -/

def LaunchStatus.code : LaunchStatus → Nat
  | .placed => 0 | .nofit => 1 | .badrec => 2 | .noobj => 3 | .held => 4 | .fault => 5

/-- An entry point: even, and in the instruction region (R123). -/
def entryOk (region : List (Nat × Nat)) (pc : Nat) : Bool :=
  decide (pc < 2 ^ 48 ∧ pc % 2 = 0) && region.any fun r => decide (r.1 ≤ pc ∧ pc + 2 ≤ r.1 + r.2)

/-- The record's own fields, and its trap entry in the region (R107, R118, R123). -/
def recordOk (region : List (Nat × Nat)) (r : List Byte) : Bool :=
  recordFields r && (num r 6 2 % 2 == 0 || entryOk region (num r 0x28 8))

/-- Steps 1 of R123: fetches and checks a record, its handler table and its lists. -/
def State.fetchRecord (s : State) (p : Nat) (record : Word) : Except LaunchStatus Fetched :=
  match s.part? p with
  | none => .error .noobj
  | some x =>
    let va := (record.extractLsb' 0 48).toNat
    let inside (o : LoadedObject) : Bool := o.launches.any fun r => decide (r.1 ≤ va ∧ va + 320 ≤ r.1 + r.2)
    match x.objects.find? inside with
    | none => .error .noobj
    | some o =>
      if winOf record ≠ 4 ∨ tagOf record ≠ 0 ∨ va % 64 ≠ 0 then .error .noobj
      else
        match s.readVa p va 320 with
        | none => .error .noobj
        | some r =>
          let list (at_ n size : Nat) : Option (List (List Byte)) :=
            if 2 ^ 48 < num r at_ 8 + n * size then none else (s.readVa p (num r at_ 8) (n * size)).map fun bs => chunks size n bs
          match list 0x10 (num r 0xc 2) 32, list 0x18 (num r 0xe 2) 96, list 0x98 (num r 0x24 2) 8 with
          | some hs, some is, some bars =>
            let injects := is.map Inject.ofBytes
            let barriers := bars.map fun b => (num b 0 4, num b 4 4)
            let ext := (num r 8 1, num r 9 1, num r 10 1)
            let stages := stagesOf r
            let region := x.region
            let good := recordOk region r &&
              (hs.all fun h => handlerOk false h && entryOk region (num h 0 8)) &&
              (barriers.all fun b => decide (b.1 % 16 = 0 ∧ b.1 + 16 ≤ 0x20000 ∧ 1 ≤ b.2)) &&
              (injects.all fun i => decide (i.x < ext.1 ∧ i.y < ext.2.1 ∧ i.z < ext.2.2 ∧ i.count ≤ 8) && (lookup i.stage stages).isSome)
            if good then
              let axis (i : Nat) : Nat := num r (0x90 + 2 * i) 2
              .ok { ext := ext, auto := num r 6 2 / 2 % 2 == 1, handlers := hs, injects := injects, barriers := barriers,
                    energy := num r 0x20 4, trapEntry := BitVec.ofNat 48 (num r 0x28 8), capkey := BitVec.ofNat 64 (num r 0x30 8),
                    capoff := num r 0x38 4, stages := stages, prio := (natsFrom 0 12).map fun i => num r (0x80 + i) 1,
                    slices := (axis 0, axis 1, axis 2, axis 3), rings := ringsOf r, object := o.id }
            else .error .badrec
          | _, _, _ => .error .badrec

/-! ## The queue (R348) -/

/-- The entries of a queue changed by number. -/
def State.modEntry (s : State) (p id : Nat) (f : QueueEntry → QueueEntry) : State :=
  s.modPart p fun x => { x with queue := x.queue.map fun q => if q.id = id then f q else q }

/-- A status is written to an entry; a request block hears of it (R213), and a refused entry is done once it has. -/
def State.setStatus (s : State) (p id : Nat) (st : LaunchStatus) : State :=
  ((s.modEntry p id fun q => { q with status := some st, tell := q.tell ++ [st] }).report (.launch p id st.code)).soon (.launchResult p id)

/-- The entry that the command processor works on: the first that is not decided (R349). -/
def Partition.head? (p : Partition) : Option QueueEntry := p.queue.find? fun q => q.status.isNone || q.status == some .held

/-- LAUNCH_QUEUE_APPEND (R348): the steward appends an entry; a full queue takes none. -/
def execLaunchQueueAppend (part : Nat) (record : BitVec 64) (s : State) : Out :=
  match s.part? part with
  | some p =>
    if 64 ≤ p.waiting || !p.valid then .next s
    else .next ((s.modPart part fun p => p.append record none).once (.launchQueueTake part))
  | none => .next s

/-- Step 1 of R123 for an entry: refused, or ready for admission. -/
def State.checkEntry (s : State) (p : Nat) (q : QueueEntry) : State :=
  match s.fetchRecord p q.record with
  | .error st => (s.setStatus p q.id st).once (.launchQueueTake p)
  | .ok f => (s.modEntry p q.id fun q => { q with fetched := some f }).once (.admission p)

/-- LAUNCH_QUEUE_TAKE (R348): one launch at a time, in arrival order. In a hitch partition an entry waits until it is mirrored (R427). -/
def execLaunchQueueTake (part : Nat) (s : State) : Out :=
  match s.part? part with
  | none => .next s
  | some p =>
    match p.head? with
    | none => .next s
    | some q =>
      if p.down || (p.hpos.isSome && !q.mirrored) then .next s
      else if q.fetched.isSome then .next (s.once (.admission part))
      else .next (s.checkEntry part q)

/-! ## Choosing tiles and frames (R350, R465) -/

/-- The box of tiles at an origin, in order of virtual number (R6, R35). -/
def boxAt (o : Nat) (ext : Nat × Nat × Nat) : List Nat :=
  (natsFrom 0 ext.2.2).flatMap fun z => (natsFrom 0 ext.2.1).flatMap fun y => (natsFrom 0 ext.1).map fun x =>
    tileAt (tileX o + x) (tileY o + y) (tileZ o + z)

/-- A tile that a placement may take. -/
def State.placeable (s : State) (p : Partition) (n : Nat) : Bool :=
  p.dies.getLsbD (dieOf n) && !(p.imgdies.getLsbD (dieOf n)) && !(s.stew.deadDies.contains (dieOf n)) && (s.tile n).owner == 0

/-- First fit. -/
def State.firstFit (s : State) (p : Partition) (ext : Nat × Nat × Nat) : Option Nat :=
  (natsFrom 0 4096).find? fun o => (boxAt o ext).all (s.placeable p)

/-- The dies that a field has a tile on, in increasing number. -/
def diesOf (field : List Nat) : List Nat := (natsFrom 0 64).filter fun d => field.any fun n => dieOf n == d

/-- The contexts of a placement in the order of R465: image number, agent and berth. -/
def contextsOf (field : List Nat) : List (Nat × Nat × Nat) :=
  ((natsFrom 0 field.length).zip field).flatMap (fun (v, n) => (natsFrom 0 4).map fun b => (4 * v + b, n, b)) ++
  (diesOf field).flatMap fun d => (natsFrom 0 4).map fun i => (2 ^ 19 + designatedTile d i, designatedTile d i, 3)

def frameBytes : Nat := 0x46000

/-- The frames of a partition in the order in which they are given: at most `n` of the external region. -/
def Partition.imageFrames (p : Partition) (n : Nat) : List Word :=
  ((natsFrom 0 64).filter fun d => p.imgdies.getLsbD d).flatMap (fun d =>
    (natsFrom 0 29).map fun k => BitVec.ofNat 64 (0xe * 2 ^ 60 + d * 2 ^ 48 + frameBytes * k)) ++
  (let base := p.imgext.toNat % 2 ^ 48
   let size := p.imgext.toNat / 2 ^ 48 * 2 ^ 20
   (natsFrom 0 (min n (size / frameBytes))).map fun k => BitVec.ofNat 64 (4 * 2 ^ 60 + base + frameBytes * k))

/-- Frames for a number of contexts: none where they do not all find one. -/
def State.takeFrames (s : State) (part : Nat) (p : Partition) (need : Nat) : Option (List Word) :=
  let used := s.launches.flatMap fun l => if l.2.part = part ∧ l.2.state ≠ .saved then l.2.images.map fun i => i.2.locator else []
  let fs := ((p.imageFrames (need + used.length)).filter fun f => !(used.contains f)).take need
  if fs.length = need then some fs else none

/-- Zeroes runs of physical memory, as the command processor writes them: OWNER of the lines of a slice is the device (R275). -/
def State.zeroRuns (s : State) (runs : List (Nat × Nat)) : State :=
  let inside (a : Nat) : Bool := runs.any fun r => decide (r.1 ≤ a ∧ a < r.1 + r.2)
  let s : State := { s with mem := s.mem.filter (fun x => !(inside x.1)), memPoison := s.memPoison.filter fun w => !(inside (8 * w)) }
  runs.foldl (fun s r =>
    if 2 ^ 40 ≤ r.1 ∧ r.1 < 2 ^ 40 + 4096 * 2 ^ 17 then
      s.modTile ((r.1 - 2 ^ 40) / 2 ^ 17) fun t => { t with tags := setOwner t.tags 0 (linesOf (r.1 % 2 ^ 17) r.2) }
    else s) s

/-! ## Placement (R123, steps 4 to 7) -/

/-- The base-2 logarithm of a ring's element size. -/
def esLog (es : Nat) : Nat := match es with | 8 => 3 | 16 => 4 | 32 => 5 | 64 => 6 | 128 => 7 | _ => 8

/-- A declared ring, as RINGI makes it. -/
def RingDecl.ring' (r : RingDecl) : Ring := { valid := true, eng := r.eng, base := r.base, lg := r.lg, esl := esLog r.es }

/-- CEIL of a die (R458). -/
def State.ceilOf (s : State) (die : Nat) : Nat := (lookup die s.reck.ceil).getD 64

/-- A tile of a new field: its registers, tables and units as steps 4 to 6 leave them (R22, R29, R251, R275, R363, R365). -/
def Tile.place (t : Tile) (k : Nat) (f : Fetched) (key : Word) (ceil : Nat) (dict : List (Nat × BitVec 32)) (dictAt : Nat) : Tile :=
  let ring (i : Nat) : Ring := ((f.rings.find? fun r => r.ring == i).map RingDecl.ring').getD {}
  let chan (c : Channel) (i : Nat) : Channel := { c with base := f.prio.getD i 0, raise := 0 }
  { t with
    owner := k, berths := t.berths.map fun b => { b with dict := dict, dictbase := BitVec.ofNat 48 dictAt },
    rings := Vector.ofFn fun i : Fin 16 => ring i.val,
    eregs := t.eregs.set 3 (Vector.replicate 8 0),
    mx := { t.mx with slots := [], slotPoison := [], acc := [], accPoison := [] }, tagPoison := [], lostWords := [],
    xu := { t.xu with e := Vector.replicate 8 0, tags := Vector.replicate 8 0 },
    tags := (natsFrom 0 2048).map fun l => (l, BitVec.ofNat 32 (k * 2 ^ 20)), barriers := [],
    curbCeil := ceil, curbLimit := ceil, mcapkey := key, cur := none, last := 3,
    channels := Vector.ofFn fun i : Fin 16 => if i.val < 12 then chan t.channels[i] i.val else t.channels[i] }

/-- Copies the object's near contents, the capability, the rings' slices and the barriers of one tile (R123, R124: the later step's value
stands). -/
def State.placeTile (s : State) (k v n : Nat) (f : Fetched) (o : LoadedObject) (key : Word) : State :=
  let s := s.zeroRuns [(slicePa n 0, 2 ^ 17)]
  let s := s.modTile n fun t => t.place k f key (s.ceilOf (dieOf n)) o.dict o.dictAt
  let s := (o.near ++ if v = 0 then o.cube else []).foldl (fun s x => s.writeSlice n x.1 x.2 k) s
  let s := if f.auto then s.writeSlice n f.capoff (wordBytes key) k else s
  f.barriers.foldl (fun s b => s.barInit n b.1 b.2 k) s

/-- The record of an inject entry, at its tile. -/
def State.inject' (s : State) (l : Launch) (k cp : Nat) (i : Inject) : State :=
  let n := l.physical (l.virtualAt i.x i.y i.z)
  s.queueRecord n (recordOf l { kind := 0, destTile := n, ts := i.ts, stage := BitVec.ofNat 4 i.stage, count := i.count, poison := false,
                                src := 5248 + cp, ctxnum := k, payload := i.payload })

/-- The least context number that no launch of the package has, nor one that a holdup keeps (R275, R443, R462). -/
def State.freeNumber (s : State) : Option Nat := (natsFrom 1 4095).find? fun k => (lookup k s.launches).isNone && (lookup k s.stew.savedLaunches).isNone

/-- Steps 3 to 7 of R123 for an entry whose energy is granted: none where no tiles or no frames fit. -/
def State.placeLaunch (s : State) (part : Nat) (p : Partition) (q : QueueEntry) (f : Fetched) : Option State :=
  match s.firstFit p f.ext, s.freeNumber with
  | some o, some k =>
    let field := boxAt o f.ext
    let cs := contextsOf field
    match s.takeFrames part p cs.length, p.objects.find? fun x => x.id == f.object with
    | some frames, some obj =>
      let images := (cs.zip frames).map fun (c, w) => (c.1, ({ locator := w, agent := c.2.1, berth := c.2.2 } : Image))
      let fresh := Config.randomKey s.steps
      let key := if f.auto then (if fresh = 0 then 1 else fresh) else f.capkey
      let l : Launch :=
        { number := q.number, part := part, origin := o, ext := f.ext, handlers := f.handlers.map Handler.ofBytes, stages := f.stages,
          trapEntry := f.trapEntry, regions := p.region, slices := f.slices, estimate := f.energy, object := f.object, dict := obj.dict,
          images := images.foldl (fun m x => insertAt x.1 x.2 m) [], request := q.request, entryId := q.id }
      let s := frames.foldl (fun s w => s.zeroRuns (s.imageRuns part w 0x3a000)) s
      let s := s.setLaunch k l
      let s := ((natsFrom 0 field.length).zip field).foldl (fun s (v, n) => s.placeTile k v n f obj key) s
      let s := f.injects.foldl (fun s i => s.inject' l k p.cpn i) s
      let s := (s.sequence k).modEntry part q.id fun q => { q with ctxnum := some k }
      some (s.setStatus part q.id .placed)
    | _, _ => none
  | _, _ => none

/-- ADMISSION (R349, R457): the pool grants the estimate, the launch has its number, and it is placed or refused; otherwise the entry holds at
the head of the queue until a refill. The record is taken as it read at its fetch (R122, R123). -/
def execAdmission (part : Nat) (s : State) : Out :=
  match s.part? part with
  | none => .next s
  | some p =>
    match p.head?.bind fun q => q.fetched.map fun f => (q, f) with
    | none => .next s
    | some (q, f) =>
      if p.down then .next s
      else if p.pool < f.energy then
        if q.status = some .held then .next s else .next (s.setStatus part q.id .held)
      else
        let q := { q with number := p.nextNumber }
        let s := s.modPart part fun p => { p with pool := p.pool - f.energy, nextNumber := p.nextNumber + 1 }
        let s := s.modEntry part q.id fun x => { x with number := q.number }
        match s.placeLaunch part p q f with
        | some s => .next (s.once (.launchQueueTake part))
        | none =>
          let s := s.modPart part fun p => { p with pool := p.pool + f.energy }
          .next ((s.setStatus part q.id .nofit).once (.launchQueueTake part))

/-- LAUNCH_RESULT (R213): RESULT is written, and a final status counts 8 bytes into the barrier; a refused entry then leaves the queue. -/
def execLaunchResult (part index : Nat) (s : State) : Out :=
  match (s.part? part).bind fun p => p.queue.find? fun q => q.id == index with
  | none => .next s
  | some q =>
    match q.tell with
    | [] => .next s
    | st :: rest =>
      let s := s.modEntry part index fun q => { q with tell := rest }
      let s := match q.request with
        | none => s
        | some (n, block, bar) =>
          let s := s.writeSlice n (block + 0x10) (wordBytes (BitVec.ofNat 64 (st.code + q.number.toNat * 2 ^ 16))) 0
          if st = .held then s else s.arrive n bar 8 { chron := s.chron } false
      let done := rest.isEmpty && (st == .nofit || st == .badrec || st == .noobj)
      .next (if done then s.modPart part fun p => { p with queue := p.queue.filter fun x => x.id != index } else s)

/-! ## Retirement (R350, R341, R380, R457) -/

/-- A flight of a collective round, which is launch state (R379). -/
def FlightKind.collective : FlightKind → Bool
  | .announce .. => true
  | .pull .. => true
  | .deliver .. => true
  | _ => false

/-- Work of a launch remains (R350): its tasks and what will start them, tracker entries and what they wait for, records. Collective rounds that
wait for a slice do not count (R380), nor do contributions that do (R341). -/
def State.working (s : State) (k : Nat) : Bool :=
  let ours (i : Issuer) : Bool := i.ctxnum == k
  !(s.workPoints k).isEmpty || s.flights.any (fun f => ours f.issuer && !f.kind.collective && !s.flightHeld f) ||
  s.reqs.any (fun r => r.ctxnum == k && match r.kind with | .acc .. => false | _ => true) ||
  s.tiles.any (fun (n, t) => t.ops.any (fun o => ours o.issuer && o.pending && !s.opHeld n o) || t.mx.queue.any (fun o => ours o.issuer) ||
    t.trackers.any (fun x => ours x.issuer) || t.held.any (fun h => ours h.issuer) || t.points.any fun p => p.ctxnum == k)

/-- The held contributions of a launch at a core are folded in slice order, the missing slices skipped, and the lines reported (R341). -/
def State.foldRest (s : State) (core k : Nat) : State :=
  let c := (s.tile core).core
  let mine := (c.held ++ c.spill).filter fun x => x.1 == k
  let before (a b : Contribution) : Bool := decide (a.2.2.2.1 < b.2.2.2.1)
  let sorted := mine.foldl (fun acc x => (acc.takeWhile fun y => !(before x y)) ++ x :: acc.dropWhile fun y => !(before x y)) []
  let s := s.modCore core fun c =>
    { c with held := c.held.filter (fun x => x.1 != k), spill := c.spill.filter (fun x => x.1 != k), next := c.next.filter (fun x => x.1 != k),
             spillNext := c.spillNext.filter fun x => x.1 != k }
  sorted.foldl (fun s x => (s.foldLine core x).report (.heldLines k x.2.2.1)) s

/-- What is left of a launch on a tile goes: entries, lists, copies and waiting rounds. -/
def Tile.forget (t : Tile) (k : Nat) : Tile :=
  { t with
    owner := if t.owner = k then 0 else t.owner,
    mainFile := t.mainFile.filter fun e => e.ctxnum != k,
    activation := t.activation.filter (fun a => a.1 != k), frontierF := t.frontierF.filter (fun f => f.1 != k),
    frontierG := t.frontierG.filter (fun f => f.1 != k), phi := t.phi.filter (fun f => f.1 != k),
    notices := t.notices.filter (fun x => x.ctxnum != k), points := t.points.filter (fun p => p.ctxnum != k),
    intake := t.intake.filter (fun g => g.ctxnum != k), ops := t.ops.filter (fun o => o.issuer.ctxnum != k),
    inbox := t.inbox.filter (fun r => r.ctxnum != k), deque := t.deque.filter (fun r => r.ctxnum != k),
    armed := t.armed.filter (fun a => a.task.ctxnum != k), trackers := t.trackers.filter (fun x => x.issuer.ctxnum != k),
    held := t.held.filter (fun h => h.issuer.ctxnum != k) }

/-- The tiles of a field are free for placement. -/
def State.freeField (s : State) (k : Nat) (l : Launch) : State :=
  let clear (t : Tile) : Tile := { t with coll := {}, mx := { t.mx with queue := [], refusals := [] }, stealAsked := none }
  let s := l.field.foldl (fun s n => s.modTile n clear) s
  { s with tiles := s.tiles.map fun x => (x.1, x.2.forget k) }

/-- Removes a launch that has no work left: its energy that was not consumed returns to the pool. -/
def State.removeLaunch (s : State) (k : Nat) (l : Launch) : State :=
  let rounds := (l.field.map fun n => ((s.tile n).coll.rounds.filter fun r => r.ctxnum == k && !r.failed).length).sum
  let s := (s.tiles.filter fun x => isCore x.1).foldl (fun s x => s.foldRest x.1 k) s
  let s : State := { s with flights := s.flights.filter (fun f => f.issuer.ctxnum != k), reqs := s.reqs.filter fun r => r.ctxnum != k }
  let s := s.freeField k l
  let s := if rounds = 0 then s else s.report (.rounds k rounds)
  let s := s.modPart l.part fun p =>
    { p with pool := min (p.pool + (l.estimate - l.used)) (2 ^ 34 - 1), queue := p.queue.filter fun q => q.id != l.entryId }
  { s with launches := removeAt k s.launches }

/-- LAUNCH_RETIRE (R350). -/
def execLaunchRetire (launch : Nat) (s : State) : Out :=
  match s.launch? launch with
  | none => .next s
  | some l =>
    let told := ((s.part? l.part).bind fun p => p.queue.find? fun q => q.id == l.entryId).all fun q => q.tell.isEmpty
    if l.state ≠ .running || s.working launch || !told then .next s else .next (s.removeLaunch launch l)

/-! ## Hitch partitions (R427) -/

/-- The status that all four packages report: NOFIT before BADREC and NOOBJ. -/
def jointStatus (sts : List Nat) : Option LaunchStatus :=
  if sts.contains 1 then some .nofit else if sts.contains 2 then some .badrec else if sts.contains 3 then some .noobj else none

/-- The status with which this package alone would answer. -/
def State.ownStatus (s : State) (part : Nat) (p : Partition) (record : Word) : Nat :=
  match s.fetchRecord part record with
  | .error st => st.code
  | .ok f => if (s.firstFit p f.ext).isNone then 1 else 0

/-- HITCH_MIRROR_LAUNCH (R427): position 0's processor mirrors an entry, and `peers` are the statuses of the other packages; the placement is
made on all four or on none. -/
def execHitchMirrorLaunch (part : Nat) (record : BitVec 64) (peers : List Nat) (s : State) : Out :=
  match s.part? part with
  | none => .next s
  | some p =>
    if p.hpos.isNone then .next s
    else
      let waiting := p.queue.find? fun q => q.status.isNone && !q.mirrored && q.record == record
      let s := match waiting with
        | some _ => s
        | none => s.modPart part fun p => p.append record none
      let id := (waiting.map QueueEntry.id).getD p.nextEntry
      let s := s.modEntry part id fun q => { q with mirrored := true }
      match jointStatus (s.ownStatus part p record :: peers) with
      | some st =>
        let s := s.modPart part fun p => { p with nextNumber := if st = .nofit then p.nextNumber + 1 else p.nextNumber }
        .next (s.setStatus part id st)
      | none => .next (s.once (.launchQueueTake part))

end Sys2Proof.Machine
end

