-- ==== Sys2Proof/Machine/System.lean ====
section
/-!
DEFINITION. Control registers, traps and the dictionary, opcodes 0xf0 to 0xf5 (R23 to R31, R226 to R232), and what is not an instruction
(R68, R79, R143).
-/
namespace Sys2Proof.Machine

/-! ## Reading a control register (R24 to R31) -/

def packCoords (x y z : Nat) : Word := BitVec.ofNat 64 (x + y * 256 + z * 65536)

/-- The value CRD reads: none for a number the agent does not have (R23, R325). -/
def View.readReg (v : View) (number : Nat) : Option Word :=
  let n := v.s.cur.tile
  let t := v.tile
  let c := v.ctx
  let core := isCore n
  let onTile (w : Word) : Option Word := if core then none else some w
  let zeroOnCore (w : Word) : Option Word := some (if core then 0 else w)
  match number with
  | 0x104 => zeroOnCore (c.cr.fieldpos.zeroExtend 64)
  | 0x105 => zeroOnCore (c.cr.fieldext.zeroExtend 64)
  | 0x107 => zeroOnCore (tilep v.s.fuses n)
  | 0x108 => zeroOnCore (BitVec.ofNat 64 (dieOf n))
  | 0x109 => zeroOnCore (BitVec.ofNat 64 (quadrantOf (tileX n) (tileY n)))
  | 0x200 => some (BitVec.ofNat 64 (chronOf v.s c))
  | 0x201 => some (BitVec.ofInt 64 ((lookup (dieOf n) v.s.reck.accounts).getD 0))
  | 0x202 => onTile (BitVec.ofNat 64 (t.curbCeil * 256 + t.curbLimit))
  | 0x203 => onTile t.curbst
  | 0x304 => zeroOnCore c.cr.image
  | 0x400 => onTile (t.xord.zeroExtend 64)
  | 0x401 => onTile (t.xkind.zeroExtend 64)
  | 0x402 => onTile (t.xtheta.zeroExtend 64)
  | 0x403 => some (v.berth.dictbase.zeroExtend 64)
  | 0x404 => some (bit t.issuepol)
  | 0x405 => onTile 0
  | 0x406 => if core then some (t.core.bkconf.zeroExtend 64) else none
  | number => c.regWord number

/-- CRD (R226): L = 2. -/
def readControl (d : BitVec 7) (number : BitVec 12) (sc : BitVec 3) (v : View) : Ex View := do
  let us : List Use := [⟨1, d, .dst false⟩]
  v.check us [] none
  v.keepRoom us
  match v.readReg number.toNat with
  | some x => .ok ((v.result d (.scalar x) 2 {}).advance sc)
  | none => trapWith Cause.illegal (number.zeroExtend 64)

/-! ## Writing a control register (R23 to R30, R339, R363) -/

/-- Bits from `n` up are zero. -/
def zeroAbove (n : Nat) (x : Word) : Bool := decide (x.toNat < 2 ^ n)

/-- CURB (R29): only LIMIT is written, and zero or an excess stores CEIL. -/
def writeCurb (t : Tile) (x : Word) : Option Tile :=
  if zeroAbove 15 x ∧ x.getLsbD 7 = false then
    let l := x.toNat % 128
    some { t with curbLimit := if l = 0 ∨ t.curbCeil < l then t.curbCeil else l }
  else none

/-- CURBST (R29): COUNT is set, and WRAP is cleared by writing 1. -/
def writeCurbst (t : Tile) (x : Word) : Option Tile :=
  if x.extractLsb' 32 31 = 0 then
    some { t with curbst := BitVec.ofNat 64 ((if t.curbst.getLsbD 63 ∧ x.getLsbD 63 = false then 2 ^ 63 else 0) + x.toNat % 2 ^ 32) }
  else none

/-- ISSUEPOL (R24, R363): cur and last stay. -/
def writeIssuepol (t : Tile) (x : Word) : Option Tile := if zeroAbove 1 x then some { t with issuepol := x.getLsbD 0 } else none

/-- BKCONF (R24, R339). -/
def writeBkconf (t : Tile) (x : Word) : Option Tile :=
  if zeroAbove 32 x then some { t with core := { t.core with bkconf := x.extractLsb' 0 32 } } else none

/-- A berth-scope register (R25 to R27, R30): none for a value its layout does not admit. -/
def writeBerthReg (c : CRegs) (number : Nat) (x : Word) : Option CRegs :=
  match number with
  | 0x000 => if zeroAbove 6 x ∧ x.toNat % 16 ≤ 8 then some { c with vtype := x.extractLsb' 0 6 } else none
  | 0x001 => if zeroAbove 2 x then some { c with accmode := x.extractLsb' 0 2 } else none
  | 0x002 => if zeroAbove 4 x ∧ x.toNat % 8 ≤ 5 then some { c with fmta := x.extractLsb' 0 4 } else none
  | 0x003 => if zeroAbove 4 x ∧ x.toNat % 8 ≤ 5 then some { c with fmtb := x.extractLsb' 0 4 } else none
  | 0x004 => if zeroAbove 17 x then some { c with scla := x.extractLsb' 0 17 } else none
  | 0x005 => if zeroAbove 17 x then some { c with sclb := x.extractLsb' 0 17 } else none
  | 0x008 => if zeroAbove 10 x then some { c with mwb := x.extractLsb' 0 10 } else none
  | 0x300 => if zeroAbove 1 x then some { c with scbchk := x.getLsbD 0 } else none
  | 0x301 => if x.toNat ≤ 16 then some { c with trapcause := x.extractLsb' 0 8 } else none
  | 0x302 => some { c with trapval := x }
  | 0x303 => if x.toNat ≤ 8 then some { c with replayn := x.extractLsb' 0 4 } else none
  | _ => none

/-- A tile-scope register (R24). -/
def writeTileReg (t : Tile) (number : Nat) (x : Word) : Option Tile :=
  match number with
  | 0x202 => writeCurb t x
  | 0x203 => writeCurbst t x
  | 0x400 => if zeroAbove 7 x then some { t with xord := x.extractLsb' 0 7 } else none
  | 0x401 => if x.toNat < 2 then some { t with xkind := x.extractLsb' 0 2 } else none
  | 0x402 => if zeroAbove 32 x then some { t with xtheta := x.extractLsb' 0 32 } else none
  | 0x404 => writeIssuepol t x
  | 0x405 => some { t with mcapkey := x }
  | 0x406 => writeBkconf t x
  | _ => none

def isBerthReg (n : Nat) : Bool := [0x000, 0x001, 0x002, 0x003, 0x004, 0x005, 0x008, 0x300, 0x301, 0x302, 0x303].contains n
def isTileReg (core : Bool) (n : Nat) : Bool :=
  if core then [0x404, 0x406].contains n else [0x202, 0x203, 0x400, 0x401, 0x402, 0x404, 0x405].contains n

/-- The write of CWR (R23): the checks, then the register. -/
def View.writeReg (v : View) (number : Nat) (x : Word) : Ex View :=
  let bad : Ex View := trapWith Cause.illegal x
  if [0x400, 0x401, 0x402].contains number && !isCore v.s.cur.tile && (v.tile.xu.holder.any fun h => h != v.s.cur.berth % 4) then
    trapWith Cause.regwin (BitVec.ofNat 64 number)
  else if isBerthReg number then
    match writeBerthReg v.ctx.cr number x with
    | some c => .ok (v.modCtx fun k => { k with cr := c })
    | none => bad
  else if isTileReg (isCore v.s.cur.tile) number then
    match writeTileReg v.tile number x with
    | some t => .ok (v.modTile fun _ => t)
    | none => bad
  else trapWith Cause.illegal (BitVec.ofNat 64 number)

/-- CWR (R226): it waits for earlier branches (R23). -/
def writeControl (d : BitVec 7) (number : BitVec 12) (sc : BitVec 3) (v : View) : Ex View := do
  v.resolved
  let us : List Use := [⟨1, d, .src false⟩]
  v.check us [] none
  let v1 ← (v.touchSources us).writeReg number.toNat (v.scalar 1 d)
  .ok (v1.advance sc)

/-! ## Traps (R227 to R231) -/

/-- TRAP and BRK (R227). -/
def softTrap (cause : Nat) (imm : BitVec 14) (v : View) : Ex View := do
  v.resolved
  trapWith cause (imm.zeroExtend 64)

/-- BRK of a launch that the debugger has claimed: the berth stays frozen, with PC at the next instruction (R227). -/
def breakpoint (imm : BitVec 14) (sc : BitVec 3) (v : View) : Ex View := do
  v.resolved
  if ((v.s.launch? v.ctx.ctxnum).map Launch.debugger).getD false then
    .ok ((v.advance sc).modBerth fun b => { b with frozen := true })
  else trapWith Cause.brk (imm.zeroExtend 64)

/-- Bytes of rows from `first` on. -/
def rowsBytes (rs : Rows) (first : Nat) : Nat → List Byte
  | 0 => []
  | n + 1 => rowBytes (rowsGet rs first) ++ rowsBytes rs (first + 1) n

/-- A captured operand that a reference names (R229, R230). -/
def refVal (ref : Nat) (area : List Byte) : Option Val :=
  if ref.testBit 15 then
    let u := ref % 128
    if ref.testBit 14 then some (.vector (rowOfBytes ((area.drop (32 * u)).take 256)))
    else some (.scalar (BitVec.ofNat 64 (leNat ((area.drop (32 * u)).take 8))))
  else none

def refMask (ref : Nat) (area : List Byte) : Option Mask :=
  if ref.testBit 15 then some (BitVec.ofNat 256 (leNat ((area.drop (32 * (ref % 128))).take 32))) else none

/-- A replay entry of the frame as its bytes now stand (R229, R435). -/
def parseEntry (e area : List Byte) (issued : Option Nat) : Replay :=
  let num (off n : Nat) : Nat := leNat ((e.drop off).take n)
  let dst := num 12 2
  { word := BitVec.ofNat 32 (num 0 4), epc := BitVec.ofNat 48 (num 4 6), vt := BitVec.ofNat 6 (num 10 1), am := BitVec.ofNat 2 (num 11 1),
    dstKind := dst / 4096 % 8, dstNum := dst % 1024, qpos := num 14 1,
    ops := { d := refVal (num 16 2) area, a := refVal (num 18 2) area, b := refVal (num 20 2) area, mask := refMask (num 22 2) area },
    issued := issued }

/-- The first REPLAYN entries of the frame. -/
def Ctx.frameReplays (c : Ctx) : List Replay :=
  let first := c.cr.mwl.toNat - 16
  let head := rowBytes (rowsGet c.rows first)
  let area := rowsBytes c.rows (first + 1) 15
  (natsFrom 0 (min c.cr.replayn.toNat 8)).map fun i =>
    parseEntry ((head.drop (0x40 + 24 * i)).take 24) area c.savedIssued[i]?

/-- RPC of the frame. -/
def Ctx.frameRpc (c : Ctx) : BitVec 48 :=
  BitVec.ofNat 48 (leNat (((rowBytes (rowsGet c.rows (c.cr.mwl.toNat - 16))).drop 0x18).take 6))

/-- RETURNING FROM A TRAP (R231, R437): the handler is left, the queue comes back with its lives, the replay entries wait for issue, and PC is
RPC; distances count on from the trapped instruction, whose own spacing counts where RPC leads past it (R75). -/
def Ctx.leaveHandler (c : Ctx) (now : Nat) : Ctx :=
  { c with
    inHandler := false, q := c.savedQ.shift (now - c.trapAt), pend := c.savedPend, savedPend := [],
    dist := if c.frameRpc == c.savedTpc then c.savedDist else c.savedDist + c.savedSigma,
    replay := c.frameReplays, pc := (c.frameRpc.extractLsb' 1 47) ++ 0#1, poisoned := c.poisoned || c.handling == Cause.poison, handling := 0 }

/-- The rows of the frame, which TRET reads (R279). -/
def Ctx.frameRows (c : Ctx) : List (Nat × Bool) := (natsFrom (c.cr.mwl.toNat - 16) 16).map fun r => (r, false)

/-- TRET (R231): spaced as a taken transfer (R362). -/
def trapReturn (sc : BitVec 3) (v : View) : Ex View := do
  v.resolved
  if !v.ctx.inHandler then trapWith Cause.illegal v.s.cur.illegalValue
  let c := { v.ctx with replay := if v.s.cur.replay.isSome then v.ctx.replay.tail else v.ctx.replay }
  let s := occupySlot v.s v.s.cur.tile v.s.cur.berth
  let v1 : View := { v with s := s, ctx := c.leaveHandler v.now, touched := v.touched ++ c.frameRows }
  .ok (v1.modBerth fun x => { x with nextIssue := v.now + takenSpacing sc, readySince := v.now + takenSpacing sc, latch := none })

/-! ## The dictionary (R68, R69, R232) -/

/-- The little-endian words of a run of bytes, with their indices. -/
def dictWords (bs : List Byte) : List (Nat × BitVec 32) :=
  (natsFrom 0 1024).map fun i => (i, BitVec.ofNat 32 (leNat ((bs.drop (4 * i)).take 4)))

/-- DICTLD (R232): all entries together, and DICTBASE. -/
def dictLoad (a : BitVec 7) (sc : BitVec 3) (v : View) : Ex View := do
  v.resolved
  let us : List Use := [⟨2, a, .src false⟩]
  v.check us [] none
  let p := v.scalar 2 a
  let va := (p.extractLsb' 0 48).toNat
  if winOf p ≠ 4 ∨ p.extractLsb' 48 12 ≠ 0 ∨ va % 64 ≠ 0 ∨ 2 ^ 48 < va + 4096 then trapWith Cause.window p
  match v.s.extPas (v.s.partOf v.ctx.ctxnum) .read (granules va 4096) with
  | none => trapWith Cause.translate p
  | some (s, pas) =>
    let bs := pas.flatMap fun (pa, n) => Mem.readBytes s.mem pa n
    let v1 := (({ v with s := s } : View).touchSources us).modBerth fun b => { b with dict := dictWords bs, dictbase := p.extractLsb' 0 48 }
    .ok (v1.advance sc)

def dictEntry (b : Berth) (i : Nat) : BitVec 32 := (lookup i b.dict).getD 0xffffffff

/-- A dictionary parcel (R68, R79): the entry's word issues next, in the same cycle, unless it is a marker. -/
def dictParcel (index : BitVec 10) (v : View) : Ex View :=
  let w := dictEntry v.berth index.toNat
  if isDictParcel (w.extractLsb' 16 16) then
    trapWith Cause.illegal ({ v.s.cur with word := w, dict := some index.toNat } : Issue).illegalValue
  else .ok (v.modBerth fun b => { b with latch := some (index.toNat, w) })

/-! ## The instructions -/

/-- CRD (R226). -/
def execCrd (d : BitVec 7) (number : BitVec 12) (sc : BitVec 3) (s : State) : Out := runView (readControl d number sc) s

/-- CWR (R226). -/
def execCwr (d : BitVec 7) (number : BitVec 12) (sc : BitVec 3) (s : State) : Out := runView (writeControl d number sc) s

/-- TRAP (R227). -/
def execTrap (imm : BitVec 14) (_sc : BitVec 3) (s : State) : Out := runView (softTrap Cause.soft imm) s

/-- TRET (R231). -/
def execTret (sc : BitVec 3) (s : State) : Out := runView (trapReturn sc) s

/-- BRK (R227). -/
def execBrk (imm : BitVec 14) (sc : BitVec 3) (s : State) : Out := runView (breakpoint imm sc) s

/-- DICTLD (R232). -/
def execDictld (a : BitVec 7) (sc : BitVec 3) (s : State) : Out := runView (dictLoad a sc) s

/-- DICTIONARY_PARCEL (R68). -/
def execDictionaryParcel (index : BitVec 10) (s : State) : Out := runView (dictParcel index) s

/-- RESERVED_ENCODING (R79, R80): decode ILLEGAL. -/
def execReservedEncoding (word : BitVec 32) (s : State) : Out :=
  runView (fun v => trapWith Cause.illegal ({ v.s.cur with word := word } : Issue).illegalValue) s

/-- FETCH_FAILURE (R143, R80). -/
def execFetchFailure (address : BitVec 48) (s : State) : Out :=
  runView (fun _ => trapWith Cause.illegal (BitVec.ofNat 64 (2 ^ 62 + address.toNat))) s

/-- A register write outside an issue: its effect, or the trap of its berth. -/
def regWrite (tile berth number : Nat) (x : Word) (s : State) : Out :=
  let cur := { s.cur with tile := tile, berth := berth, replay := none }
  match s.ctx? tile berth with
  | none => .next s
  | some c =>
    match ({ s := { s with cur := cur }, ctx := c } : View).writeReg number x with
    | .ok v => .next v.commit
    | .error (.trap cause y) => .next (takeTrap { s with cur := cur } tile berth cause y c.pc c.pc)
    | .error .hold => .next s

/-- A tile-scope write that no berth is named for: a value the layout does not admit leaves the register. -/
def tileWrite (tile : Nat) (f : Tile → Option Tile) (s : State) : Out :=
  match f (s.tile tile) with
  | some t => .next (s.setTile tile t)
  | none => .next s

/-- CURB_WRITE (R29). -/
def execCurbWrite (tile : Nat) (value : BitVec 64) (s : State) : Out := tileWrite tile (fun t => writeCurb t value) s

/-- CURBST_WRITE (R29). -/
def execCurbstWrite (tile : Nat) (value : BitVec 64) (s : State) : Out := tileWrite tile (fun t => writeCurbst t value) s

/-- ISSUEPOL_WRITE (R363). -/
def execIssuepolWrite (tile : Nat) (value : BitVec 64) (s : State) : Out := tileWrite tile (fun t => writeIssuepol t value) s

/-- BKCONF_WRITE (R339). -/
def execBkconfWrite (core : Nat) (value : BitVec 64) (s : State) : Out := tileWrite core (fun t => writeBkconf t value) s

/-- CONTROL_REGISTER_WRITE (R23). -/
def execControlRegisterWrite (tile berth : Nat) (number : BitVec 12) (value : BitVec 64) (s : State) : Out :=
  regWrite tile berth number.toNat value s

/-- DEBUGGER_RESUME (R227). -/
def execDebuggerResume (tile berth : Nat) (s : State) : Out :=
  .next (s.modBerth tile berth fun b => { b with frozen := false, nextIssue := max b.nextIssue (s.now + 1), readySince := s.now + 1 })

/-- DEBUGGER_CLAIM (R227). -/
def execDebuggerClaim (launch : Nat) (s : State) : Out := .next (s.modLaunch launch fun l => { l with debugger := true })

end Sys2Proof.Machine
end

