-- ==== Sys2Proof/Machine/Contain.lean ====
section
/-!
DEFINITION. Energy notices (R433), pre-emption and resumption (R438 to R440), field save and restore (R441 to R444), bringing down, partition
splits and discards (R446, R447), and the steward's crash and the fatal dump (R448, R450).
-/
namespace Sys2Proof.Machine

/-! ## Stopping at a boundary (R145, R300, R438) -/

/-- The task holds the lowest key of its launch (R300). -/
def State.lowest (s : State) (c : Ctx) : Bool :=
  match c.task.key with
  | some k => leastKey (s.orderKeys c.ctxnum) == some (k, c.task.entry)
  | none => false

/-- The berth stands at a boundary at which a request for it may be taken. -/
def State.mayStop (s : State) (n b : Nat) (c : Ctx) : Bool :=
  let x := s.berth n b
  !c.inHandler && !c.stopped && x.spec.isNone && x.latch.isNone && !(s.lowest c)

/-- Steps 1 to 4 of R228 at a boundary; the queue and the chronometer reading are kept with the context (R40, R438). -/
def State.stopCtx (s : State) (n b requester : Nat) (c : Ctx) : State :=
  let s := (saveTrap s n b Cause.preempt (BitVec.ofNat 64 requester) c.pc c.pc).modTile n fun t => { t with deltaWait := t.deltaWait.erase b }
  let floor := chronOf s c
  (s.modCtx n b fun c => { c with stopped := true, floor := max c.floor floor }).modBerth n b fun x => { x with preemptReq := none }

/-- The units that a berth holds have drained (R263, R367, R440). -/
def State.unitsDrained (s : State) (n b : Nat) : Bool :=
  let t := s.tile n
  (t.mx.holder != some (b % 4) || t.mx.queue.isEmpty) && (t.xu.holder != some (b % 4) || decide (t.xu.busyUntil ≤ s.now))

/-- The context with the images of its units (R440). -/
def Tile.imageOf (t : Tile) (n b : Nat) (c : Ctx) : Saved :=
  let mx := t.mx.holder == some (b % 4)
  let claimed (a : Nat) : Bool := t.mx.claims.getLsbD (a / 4096)
  { ctx := { c with cr := { c.cr with dictbase := (t.berth b).dictbase } }, tile := n, hadMx := mx,
    claims := if mx then t.mx.claims else 0,
    slots := if mx then t.mx.slots.filter (fun x => claimed x.1) else [],
    slotPoison := if mx then t.mx.slotPoison.filter (fun u => claimed (16 * u)) else [],
    acc := if mx then t.mx.acc else [], accPoison := if mx then t.mx.accPoison else [], curbst := t.curbst,
    xu := if t.xu.holder = some (b % 4) then some t.xu else none, xregs := t.eregs[3], xord := t.xord, xkind := t.xkind, xtheta := t.xtheta }

/-- Steps 2 to 5 of R438: the context leaves the berth with its units' images, its state area and its pending writes go to the image, its rows'
entries are evictable, and the berth is free. -/
def State.saveCtx (s : State) (n b : Nat) (c : Ctx) : State :=
  let x := (s.tile n).imageOf n b c
  let s := s.modLaunch c.ctxnum fun l => { l with saved := l.saved ++ [x] }
  let s := s.modTile n fun t =>
    let t := releaseUnits t b
    { t with
      mx := { t.mx with draining := t.mx.draining && !x.hadMx },
      mainFile := t.mainFile.map fun e => if e.ctxnum = c.ctxnum ∧ e.image = c.image then { e with evictable := true } else e }
  let s := s.modBerth n b fun y =>
    { y with ctx := none, spec := none, latch := none, yielding := false, yieldHeld := false, preemptReq := none, energyReq := none, nextIssue := s.now + 1 }
  (s.saveArea n c.ctxnum c.image 896 224).offer n

/-- The requester of the step that looks again at a stopped context whose units drain: no source number (R7). -/
def stopAgain : Nat := 2 ^ 20

/-- A request to stop a context: held until the berth may take it; a frozen launch's context stays in its berth, and another is saved once
its units have drained. -/
def State.requestStop (s : State) (n b requester : Nat) : State :=
  match s.ctx? n b with
  | none => s
  | some c =>
    -- a memory-core task is never pre-empted (R326)
    if isCore n then s
    else if !c.stopped && !(s.mayStop n b c) then s.modBerth n b fun x => { x with preemptReq := some requester }
    else
      let s := if c.stopped then s else s.stopCtx n b requester c
      if ((s.launch? c.ctxnum).map fun l => l.state == .down).getD false then s
      else if s.unitsDrained n b then (match s.ctx? n b with | some c => s.saveCtx n b c | none => s)
      else
        let s := if (s.tile n).mx.holder = some (b % 4) then s.modTile n fun t => { t with mx := { t.mx with draining := true } } else s
        s.atCycle (s.now + 1) (.preempt n b stopAgain)

/-- PREEMPT (R438): a channel-15 request for the context in a berth. -/
def execPreempt (tile berth requester : Nat) (s : State) : Out :=
  if requester = stopAgain ∧ ((s.ctx? tile berth).any fun c => c.stopped) = false then .next s
  else .next (s.requestStop tile berth requester)

/-- ENERGY_OVERRUN_NOTICE (R433): ENERGY is raised in the lowest-numbered berth that runs a task of the field's launch, at most once in 1 ms. -/
def execEnergyOverrunNotice (tile overrun : Nat) (s : State) : Out :=
  let t := s.tile tile
  match (natsFrom 0 4).find? fun b => ((t.berth b).ctx.map fun c => c.ctxnum == t.owner).getD false with
  | none => .next s
  | some b =>
    if s.chron < t.energyNoticeAt ∨ ((s.launch? t.owner).map fun l => l.trapEntry == 0).getD true = true then .next s
    else .next ((s.modTile tile fun t => { t with energyNoticeAt := s.chron + 1000000 }).modBerth tile b fun x => { x with energyReq := some overrun })

/-! ## Resuming (R231, R439, R440) -/

/-- Names of issuers that move with a context or a field. -/
def Tile.mapIssuers (t : Tile) (f : Issuer → Issuer) : Tile :=
  let part (p : Nat × Nat × Nat × List Byte × Issuer) : Nat × Nat × Nat × List Byte × Issuer := (p.1, p.2.1, p.2.2.1, p.2.2.2.1, f p.2.2.2.2)
  let round (r : Round) : Round := { r with parts := r.parts.map part }
  { t with
    ops := t.ops.map fun o => { o with issuer := f o.issuer },
    mx := { t.mx with queue := t.mx.queue.map fun o => { o with issuer := f o.issuer } },
    coll := { t.coll with rounds := t.coll.rounds.map round },
    trackers := t.trackers.map fun x => { x with issuer := f x.issuer },
    held := t.held.map fun h => { h with issuer := f h.issuer } }

def State.mapIssuers (s : State) (f : Issuer → Issuer) : State :=
  { s with
    tiles := s.tiles.map fun x => (x.1, x.2.mapIssuers f),
    flights := s.flights.map (fun x => { x with issuer := f x.issuer }), reqs := s.reqs.map fun x => { x with issuer := f x.issuer },
    launches := s.launches.map fun x => (x.1, { x.2 with committing := x.2.committing.map f }) }

/-- The dictionary of a resumed context: what DICTBASE names, or the object's where no DICT contents stand there (R69, R232). -/
def State.dictOf (s : State) (l : Launch) (base : BitVec 48) : List (Nat × BitVec 32) :=
  match s.readVa l.part base.toNat 4096 with
  | some bs => dictWords bs
  | none => l.dict

/-- The units of a saved context are free for it. -/
def Saved.unitsFree (x : Saved) (t : Tile) : Bool := (!x.hadMx || t.mx.holder.isNone) && (x.xu.isNone || t.xu.holder.isNone)

/-- Establishes the unit images again (R440). -/
def Saved.restoreUnits (x : Saved) (t : Tile) (b : Nat) : Tile :=
  let t := if x.hadMx then
      let claimed (a : Nat) : Bool := x.claims.getLsbD (a / 4096)
      let rest := t.mx.slots.filter fun c => !(claimed c.1)
      { t with
        curbst := t.curbst.extractLsb' 32 32 ++ x.curbst.extractLsb' 0 32,
        mx := { t.mx with
          holder := some (b % 4), claims := x.claims, reserved := false, slots := x.slots.foldl (fun m c => Mem.write m c.1 c.2) rest,
          slotPoison := t.mx.slotPoison.filter (fun u => !(claimed (16 * u))) ++ x.slotPoison, acc := x.acc, accPoison := x.accPoison } }
    else t
  match x.xu with
  | some u =>
    { t with xu := { u with holder := some (b % 4), reserved := false }, eregs := t.eregs.set 3 x.xregs, xord := x.xord, xkind := x.xkind, xtheta := x.xtheta }
  | none => t

/-- The launch whose saved context of an image belongs to a tile. -/
def State.savedOn (s : State) (tile index : Nat) : Option (Nat × Launch × Saved) :=
  firstSome (fun (k, l) => if l.state = .running then (l.saved.find? fun x => x.tile == tile && x.ctx.image == index).map fun x => (k, l, x) else none)
    s.launches

/-- CONTEXT_RESUME (R439): the saved context of an image resumes in a free berth, as TRET would leave it; it waits while another berth holds a
unit that it needs. -/
def execContextResume (tile berth index : Nat) (s : State) : Out :=
  match s.savedOn tile index with
  | none => .next s
  | some (k, l, x) =>
    let t := s.tile tile
    if !(t.berth berth).free || decide (4 ≤ berth) then .next s
    else if !(x.unitsFree t) then
      .next ((s.modTile tile fun t =>
        { t with mx := { t.mx with reserved := t.mx.reserved || x.hadMx }, xu := { t.xu with reserved := t.xu.reserved || x.xu.isSome } }).atCycle
        (s.now + 1) (.contextResume tile berth index))
    else
      let old := ((lookup index l.images).map Image.berth).getD berth
      let move (i : Issuer) : Issuer :=
        if i.ctxnum = k ∧ i.tile = tile ∧ i.berth = old ∧ i.age = x.ctx.age then { i with berth := berth } else i
      let s := s.setLaunch k { l with
        saved := l.saved.filter fun y => !(y.tile == tile && y.ctx.image == index),
        images := match lookup index l.images with
          | some im => insertAt index { im with agent := tile, berth := berth } l.images
          | none => l.images }
      let s := s.mapIssuers move
      let c := { x.ctx.leaveHandler s.now with stopped := false }
      let s := s.modTile tile fun t =>
        { x.restoreUnits t berth with
          mainFile := t.mainFile.map fun e => if e.ctxnum = k ∧ e.image = index then { e with evictable := false } else e }
      .next (s.modBerth tile berth fun y =>
        { y with ctx := some c, dict := s.dictOf l c.cr.dictbase, dictbase := c.cr.dictbase, spec := none, latch := none,
                 nextIssue := s.now + 1, readySince := s.now + 1 })

/-! ## Field save (R441, R442) -/

/-- Every berth of the package that runs a task of a launch. -/
def State.berthsOf (s : State) (k : Nat) : List (Nat × Nat) :=
  s.tiles.flatMap fun (n, t) => (natsFrom 0 4).filterMap fun b => if ((t.berth b).ctx.map fun c => c.ctxnum == k).getD false then some (n, b) else none

/-- What a save waits for (R441): contexts, trackers, split-phase accesses, packets and what is held for a release. -/
def State.unsaved (s : State) (k : Nat) : Bool :=
  let ours (i : Issuer) : Bool := i.ctxnum == k
  !(s.berthsOf k).isEmpty || s.flights.any (fun f => ours f.issuer || match f.kind with
    | .record r _ => r.ctxnum == k
    | .message m => m.ctxnum == k
    | _ => false) || s.reqs.any (fun r => r.ctxnum == k && match r.kind with | .acc .. => false | _ => true) || s.packets.any (fun p => p.ctxnum == k) ||
  s.tiles.any fun (_, t) => t.writeBack.any (fun w => w.dirty && w.ctxnum == k) || t.trackers.any (fun x => ours x.issuer) || t.held.any (fun h => ours h.issuer) || t.mx.queue.any (fun o => ours o.issuer) ||
    t.ops.any fun o => ours o.issuer && match o.stage with | .running .. => o.eng != 2 | _ => false

/-- The bytes of a slice that differ from zero, by offset. -/
def State.sliceCells (s : State) (n : Nat) : List Host.Cell :=
  (s.mem.filter fun x => decide (slicePa n 0 ≤ x.1 ∧ x.1 < slicePa n 0 + 2 ^ 17)).map fun x => (x.1 - slicePa n 0, x.2)

/-- The save logic writes back the dirty entries of a launch on a tile; it wakes the drowsy ones (R279, R284, R285). -/
def State.flushRows (s : State) (n k : Nat) : State :=
  let dirty := (s.tile n).mainFile.filter fun e => e.ctxnum == k && e.dirty
  (dirty.foldl (fun s e => s.writeImageRow e.key) s).modTile n fun t =>
    { t with mainFile := t.mainFile.map fun e => if e.ctxnum == k && e.dirty then { e with dirty := false, state := .awake, lastTouch := s.now } else e }

/-- Steps 4 and 5 of R441: the field images go to the save area, where R442 lays them out, and the field is free. -/
def State.takeField (s : State) (k : Nat) (l : Launch) : State :=
  let vs := (natsFrom 0 l.tileCount).zip l.field
  let s := (s.tiles.map Prod.fst).foldl (fun s n => s.flushRows n k) s
  let mine (n : Nat) : List (Nat × List TaskRec) := (lookup n s.depots).getD []
  let l := { l with
    state := .saved, savedTiles := vs.map (fun (v, n) => (v, s.tile n)), savedMem := vs.map (fun (v, n) => (v, s.sliceCells n)),
    savedPoison := vs.map (fun (v, n) => (v, ((natsFrom 0 16384).filter fun w => s.memPoison.contains (slicePa n 0 / 8 + w)))),
    savedDepots := vs.map fun (v, n) => (v, mine n) }
  let at_ := (s.part? l.part).bind fun p => s.savePlace p l.part l.tileCount
  let cells := vs.map fun (v, n) => (v, (s.tile n).fieldImage k (s.sliceCells n))
  let s : State := match at_ with
    | none => s
    | some a =>
      let z := s.zeroRuns [(a, fieldImageBytes * l.tileCount)]
      { z with mem := cells.foldl (fun m x => x.2.foldl (fun m c => Mem.write m (a + fieldImageBytes * x.1 + c.1) c.2) m) z.mem }
  let l := { l with saveAt := at_ }
  let s : State := { s with depots := l.field.foldl (fun d n => removeAt n d) s.depots }
  -- the entries of its contexts stay until misses push them out (R285)
  let files := s.tiles.map fun x => (x.1, x.2.mainFile)
  let s := s.freeField k l
  let s : State := { s with tiles := s.tiles.map fun x => (x.1, { x.2 with mainFile := (lookup x.1 files).getD x.2.mainFile }) }
  (s.setLaunch k l).report (.saved k)

/-- Steps 1 and 2 of R441: the launch's records start no task, and its contexts are stopped and saved. -/
def State.beginSave (s : State) (k : Nat) : State :=
  let s := s.modLaunch k fun l => { l with state := .saving }
  (s.berthsOf k).foldl (fun s x => s.requestStop x.1 x.2 5252) s

/-- FIELD_SAVE (R441): its records start no task, its contexts are stopped and saved, and once its accesses and packets are done the field goes
to the save area. -/
def execFieldSave (launch : Nat) (s : State) : Out :=
  match (s.launch? launch).filter fun l => l.state != .saved with
  | none => .next s
  | some _ =>
    let s := s.beginSave launch
    if s.unsaved launch then .next (s.atCycle (s.now + 1) (.fieldSave launch))
    else match s.launch? launch with
      | some l => .next (s.takeField launch l)
      | none => .next s

/-! ## Field restore (R443) -/

/-- A tile's field image at its new site: what belongs to the site stays (R443, R444). -/
def Tile.restoredFrom (cur img : Tile) (k ceil : Nat) : Tile :=
  let berths := Vector.ofFn fun i : Fin 4 => if (cur.berths[i]).ctx.isSome then cur.berths[i] else { img.berths[i] with ctx := none }
  { img with
    owner := k, berths := berths, core := cur.core, router := cur.router, correctable := cur.correctable, rebuild := cur.rebuild,
    failedBank := cur.failedBank, lostWords := [], mainFile := cur.mainFile, writeBack := cur.writeBack, energyNoticeAt := cur.energyNoticeAt,
    curbCeil := ceil, curbLimit := min img.curbLimit ceil }

/-- The image as its rows stand, and a saved context's state area and pending writes, written to its frame. -/
def State.writeImage (s : State) (k part : Nat) (ix : Nat) (locator : Word) : State :=
  let s := s.zeroRuns (s.imageRuns part locator frameBytes)
  let s := (s.rowsNow k ix).foldl (fun s r => s.writeImageRow (k, ix, r.1)) s
  match s.launch? k with
  | some l => match l.saved.find? fun x => x.ctx.image == ix with
    | some x => ((natsFrom 896 224).filter fun r => x.ctx.areaRow x.ctx.cr.dictbase r != 0).foldl (fun s r => s.writeImageRow (k, ix, r)) s
    | none => s
  | none => s

/-- Everything that a restored tile has waiting looks again. -/
def State.awaken (s : State) (n : Nat) : State :=
  let s := ((s.wake n).kick n).offer n
  let s := (natsFrom 0 5).foldl (fun s e => s.takeMore n e) s
  -- collective commands and rounds go on from where they stood (R379)
  let s := ((s.tile n).ops.filter fun o => o.eng == 2 && o.stage == .running 0 0).foldl (fun s o =>
    s.once (if ((s.tile n).coll.partialOf o.id).isSome then .sliceAnnounce n o.id else match o.kind with
      | .record bs => recordEvent n o bs
      | _ => .ringOperationFiring n o.id)) s
  let s := ((s.tile n).coll.rounds.filter Round.folded).foldl (fun s r => match r.deliver with
    | d :: _ => s.once (.collectiveDelivery n r.id d)
    | [] => s) s
  ((((s.shadowKick n).nextPull n).releaseKick n).mxKick n).once (.triggerTableTest n)

/-- Where the tiles of a moved field go: by virtual number, and designated tiles by die and index (R422). -/
def moveTile (old new : List Nat) (n : Nat) : Nat :=
  match (old.zip new).find? fun x => x.1 == n with
  | some x => x.2
  | none =>
    let od := diesOf old
    let nd := diesOf new
    designatedTile ((nd[od.idxOf (dieOf n)]?).getD (nd.headD 0)) ((handlerIndex n).getD 0)

/-- Steps 2 to 6 of R443 at an origin, in frames. -/
def State.restoreField (s : State) (k : Nat) (l : Launch) (origin : Nat) (frames : List Word) : State :=
  let old := l.field
  let new := boxAt origin l.ext
  let dest := moveTile old new
  let cs := contextsOf new
  let images := (cs.zip frames).foldl (fun m (c, w) =>
    let was := (lookup c.1 l.images).getD {}
    insertAt c.1 ({ was with locator := w, agent := c.2.1, berth := c.2.2 } : Image) m) []
  let at_ (x : Saved) : Saved :=
    { x with tile := dest x.tile, ctx := { x.ctx with cr := { x.ctx.cr with image := ((lookup x.ctx.image images).map Image.locator).getD x.ctx.cr.image } } }
  let move (i : Issuer) : Issuer := if i.ctxnum = k then { i with tile := dest i.tile } else i
  let round (r : Round) : Round :=
    { r with parts := r.parts.map (fun p => (p.1, if p.2.2.2.2.away.isNone then dest p.2.1 else p.2.1, p.2.2)),
             deliver := if (s.hitchLine k r.axis).isSome then r.deliver else r.deliver.map dest }
  let load (t : Tile) : Tile := let t := t.mapIssuers move; { t with coll := { t.coll with rounds := t.coll.rounds.map round } }
  let vs := (natsFrom 0 new.length).zip new
  let s := s.setLaunch k { l with
    state := .running, origin := origin, images := images, saved := l.saved.map at_, committing := l.committing.map move,
    savedTiles := [], savedMem := [], savedPoison := [], savedDepots := [], saveAt := none }
  let s := vs.foldl (fun s (v, n) =>
    let img := load ((lookup v l.savedTiles).getD {})
    let s := s.zeroRuns [(slicePa n 0, 2 ^ 17)]
    let s := s.modTile n fun t => t.restoredFrom img k (s.ceilOf (dieOf n))
    let s : State := { s with mem := ((lookup v l.savedMem).getD []).foldl (fun m c => Mem.write m (slicePa n c.1) c.2) s.mem }
    let s := s.poisonSlice n 0 ((lookup v l.savedPoison).getD [])
    let blocks := (lookup v l.savedDepots).getD []
    if blocks.isEmpty then s else { s with depots := insertAt n (blocks ++ (lookup n s.depots).getD []) s.depots }) s
  let s := images.foldl (fun s im => s.writeImage k l.part im.1 im.2.locator) s
  -- a context on its own tile finds its remaining entries; elsewhere every row starts gated (R285)
  let keep (n : Nat) (e : RowEntry) : Bool := e.ctxnum != k || (lookup e.image l.images).any fun im => im.agent == n && dest n == n
  let s : State := { s with tiles := s.tiles.map fun x => (x.1, { x.2 with mainFile := x.2.mainFile.filter (keep x.1) }) }
  let s := l.saved.foldl (fun s x => s.once (.contextResume (dest x.tile) (((lookup x.ctx.image images).map Image.berth).getD 0) x.ctx.image)) s
  (new.foldl (fun s n => s.awaken n) s).sequence k

/-- The saved launch of a partition: one that this package saved, or one that a holdup kept (R441, R462). -/
def State.savedLaunch (s : State) (part k : Nat) : Option Launch :=
  ((s.launch? k).or (lookup k s.stew.savedLaunches)).filter fun l => l.part == part && l.state == .saved

/-- FIELD_RESTORE (R443): placement by first fit; with no origin or no frames it is refused with NOFIT, and the save area is kept. The launch
receives the context number that it had. -/
def execFieldRestore (part index : Nat) (s : State) : Out :=
  match s.part? part, s.savedLaunch part index with
  | some p, some l =>
    match s.firstFit p l.ext with
    | none => .next (s.report (.restore index LaunchStatus.nofit.code))
    | some o =>
      match s.takeFrames part p (contextsOf (boxAt o l.ext)).length with
      | none => .next (s.report (.restore index LaunchStatus.nofit.code))
      | some frames =>
        let s : State := { s with stew := { s.stew with savedLaunches := removeAt index s.stew.savedLaunches } }
        .next ((s.restoreField index l o frames).report (.restore index 0))
  | _, _ => .next s

/-! ## Bringing down (R445 to R447) -/

/-- Freezes a launch: its contexts stop at their next boundaries, in their berths, and no record starts. -/
def State.freeze (s : State) (k : Nat) : State :=
  let s := s.modLaunch k fun l => { l with state := if l.state = .saved then .saved else .down }
  (s.berthsOf k).foldl (fun s x => s.requestStop x.1 x.2 5252) s

/-- Brings a launch down: it is frozen, and receives the status FAULT. -/
def State.downLaunch (s : State) (k : Nat) : State :=
  match s.launch? k with
  | none => s
  | some l => if l.state = .down then s else (s.freeze k).setStatus l.part l.entryId .fault

/-- The launches of a partition that a test admits, by number. -/
def State.launchesOf (s : State) (part : Nat) (f : Launch → Bool) : List Nat :=
  (s.launches.filter fun x => x.2.part == part && f x.2).map Prod.fst

/-- BRING_DOWN (R446). -/
def execBringDown (part : Nat) (s : State) : Out :=
  let s := s.modPart part fun p => { p with down := true }
  .next ((s.launchesOf part fun _ => true).foldl State.downLaunch s)

/-- A set of dies leaves its partitions: every launch with a tile on one of them is brought down. -/
def State.loseDies (s : State) (dies : List Nat) : State :=
  let hit (l : Launch) : Bool := l.state != .saved && l.field.any fun n => dies.contains (dieOf n)
  let s := (s.launches.filter fun x => hit x.2).foldl (fun s x => s.downLaunch x.1) s
  let without (b : BitVec 64) : BitVec 64 := dies.foldl (fun b d => b &&& ~~~(BitVec.twoPow 64 d)) b
  { s with parts := s.parts.map fun x => (x.1, { x.2 with dies := without x.2.dies, imgdies := without x.2.imgdies }) }

/-- DIE_FAILED (R446): the die is removed from its partition; its other launches continue. -/
def execDieFailed (die : Nat) (s : State) : Out :=
  if 64 ≤ die ∨ s.stew.deadDies.contains die = true then .next s
  else .next ({ s with stew := { s.stew with deadDies := s.stew.deadDies ++ [die] } }.loseDies [die])

/-- A group of live dies (R447), each 64 · hitch position + die: how many it has, whether it holds virtual tile 0 of the oldest launch, and its
lowest. -/
def better (a b : Nat × Bool × Nat) : Bool :=
  decide (b.1 < a.1) || (a.1 == b.1 && ((a.2.1 && !b.2.1) || (a.2.1 == b.2.1 && decide (a.2.2 < b.2.2))))

/-- PARTITION_SPLIT (R447): of the groups that reach a command processor of the partition, one continues; the rest are brought down. -/
def execPartitionSplit (part : Nat) (groups : List (List Nat)) (reaches : List Bool) (s : State) : Out :=
  let ls := s.launches.filter fun x => x.2.part == part && x.2.state == .running
  let oldest := ls.foldl (fun b x => match b with
    | none => some x.2
    | some y => if x.2.entryId < y.entryId then some x.2 else some y) none
  let home := oldest.map fun l => dieOf (l.physical 0)
  let measure (g : List Nat) : Nat × Bool × Nat := (g.length, (home.map fun d => g.contains d).getD false, g.foldl min 256)
  let live := ((groups.zip reaches).filter fun x => x.2).map Prod.fst
  let pick := live.foldl (fun b g => match b with
    | none => some g
    | some h => if better (measure g) (measure h) then some g else some h) none
  match pick with
  | none => execBringDown part s
  | some g =>
    let rest := groups.filter fun h => h != g
    -- of a group, this package's own dies leave it
    let pos := (((s.part? part).bind Partition.hpos).bind fun _ => s.hitchPos).getD 0
    let own (h : List Nat) : List Nat := (h.filter fun d => d / 64 == pos).map fun d => d % 64
    .next (rest.foldl (fun s h => (s.loseDies (own h)).report (.split part h)) s)

/-- FROZEN_FIELD_DISCARD (R446): the frozen fields of a partition are discarded. -/
def execFrozenFieldDiscard (part : Nat) (s : State) : Out :=
  .next ((s.launchesOf part fun l => l.state == .down).foldl (fun s k =>
    match s.launch? k with
    | none => s
    | some l =>
      let s := (s.berthsOf k).foldl (fun s x => (s.modTile x.1 fun t => releaseUnits t x.2).modBerth x.1 x.2 fun b =>
        { b with ctx := none, spec := none, latch := none, preemptReq := none, energyReq := none }) s
      let s : State := { s with flights := s.flights.filter fun f => f.issuer.ctxnum != k }
      s.removeLaunch k l) s)

/-! ## The steward (R448, R450) -/

/-- Unfreezes a context in place: the effect of TRET (R439, R448). -/
def State.unfreeze (s : State) (n b : Nat) : State :=
  match s.ctx? n b with
  | none => s
  | some c =>
    if c.stopped then
      (s.setCtx n b { c.leaveHandler s.now with stopped := false }).modBerth n b fun x =>
        { x with preemptReq := none, nextIssue := s.now + 1, readySince := s.now + 1 }
    else s.modBerth n b fun x => { x with preemptReq := none }

/-- A launch that is frozen without FAULT (R448). -/
def State.onlyFrozen (s : State) (l : Launch) : Bool :=
  l.state == .down && !(((s.part? l.part).map Partition.queue).getD []).any fun q => q.id == l.entryId && q.status == some .fault

/-- A copy that the registry names is followed by its digest (R449). -/
def State.copyOk (s : State) (at_ len : Nat) : Bool :=
  at_ == 0 || sha512 (Mem.readBytes s.mem at_ len) == BitVec.ofNat 512 (leNat (Mem.readBytes s.mem (at_ + len) 64))

/-- An entry of the registry with the digest over its first 192 bytes (R449). -/
def withDigest (e : BitVec 2048) : BitVec 2048 := sha512 (leBytes 192 e.toNat) ++ e.extractLsb' 0 1536

/-- What re-adoption checks (R448, R449): every entry's digest, and those of the service-table and bank-rebuild copies. -/
def State.registryOk (s : State) : Bool :=
  s.stew.registry.all fun (_, e) => e == withDigest e && s.copyOk (e.extractLsb' 0x440 48).toNat 512 && s.copyOk (e.extractLsb' 0x480 48).toNat 512

/-- Re-adoption (R448): the partitions' contexts are unfrozen in place. -/
def State.readopt (s : State) : State :=
  let ks := (s.launches.filter fun x => s.onlyFrozen x.2).map Prod.fst
  let s := ks.foldl (fun s k => (s.berthsOf k).foldl (fun s x => s.unfreeze x.1 x.2)
    (s.modLaunch k fun l => { l with state := .running })) s
  let s : State := { s with stew := { s.stew with kernelUp := true } }
  (s.tiles.map Prod.fst).foldl (fun s n => (natsFrom 0 5).foldl (fun s e => s.takeMore n e) (s.offer n)) s

/-- STEWARD_WATCHDOG (R448): a crash of the kernel freezes every partition, and the warm reboot that follows re-adopts them; a kernel or an entry
that fails its check, or a second crash within 60 s, leads to the fatal dump. -/
def execStewardWatchdog (kernelOk : Bool) (s : State) : Out :=
  if s.stew.kernelUp then
    let again := s.stew.crashAt.any fun c => decide (s.chron < c + 60000000000)
    let s : State := { s with stew := { s.stew with kernelUp := false, crashAt := some s.chron } }
    let s := ((s.launches.filter fun x => x.2.state == .running).map Prod.fst).foldl State.freeze s
    .next (if again then s.soon .fatalDump else s.soon (.stewardWatchdog kernelOk))
  else if s.stew.bootStatus ≠ 7 then .next s
  else if kernelOk && s.registryOk then .next s.readopt
  else .next (s.soon .fatalDump)

/-- FATAL_DUMP (R450): every agent stops, the accessible state is kept, and the package boots cold. -/
def execFatalDump (s : State) : Out :=
  let stew : Steward := if s.stew.dumpKept then { dumpKept := true, dumpTiles := s.stew.dumpTiles, dumpMem := s.stew.dumpMem }
    else { dumpKept := true, dumpTiles := s.tiles, dumpMem := s.mem }
  .next { State.reset with
    steps := s.steps, fuses := s.fuses, hitchPos := s.hitchPos, hitchPeers := s.hitchPeers, agenda := [.powerOn s.fuses 0],
    stew := { stew with
      checkpoint := s.stew.checkpoint, header := s.stew.header, headerSaves := s.stew.headerSaves,
      headerRegistry := s.stew.headerRegistry, headerDigest := s.stew.headerDigest, savedLaunches := s.stew.savedLaunches } }

/-- FATAL_DUMP_CLEAR (R450). -/
def execFatalDumpClear (s : State) : Out :=
  .next { s with stew := { s.stew with dumpKept := false, dumpTiles := [], dumpMem := [] } }

end Sys2Proof.Machine
end

