-- ==== Sys2Proof/Machine/Board.lean ====
section
/-!
DEFINITION. Power-on and measurement (R452, R453), partition set-up (R449, R454), the reckoner (R455, R456, R458), heat and clock (R459, R460),
holdup (R461, R462), and accesses from outside the tiles (R463, R304, R459).
-/
namespace Sys2Proof.Machine

/-! ## Power-on (R452, R453) -/

/-- M := SHA-512(M ‖ digest). -/
def extend (m d : BitVec 512) : BitVec 512 := sha512 (leBytes 64 m.toNat ++ leBytes 64 d.toNat)

/-- The bytes of the fuse maps, and of the ORIENT values and the hitch position, as the firmware measures them. -/
def fuseBytes (fuses : List (List Nat)) : List Byte := fuses.flatMap fun r => r.map (BitVec.ofNat 8)
def siteBytes (hpos : Option Nat) : List Byte := (natsFrom 0 64).map (fun d => BitVec.ofNat 8 (d % 4)) ++ [BitVec.ofNat 8 (hpos.getD 0xff)]

/-- The measurement after the four stages. -/
def measured (fuses : List (List Nat)) (hpos : Option Nat) : BitVec 512 :=
  [Config.imageDigest 0, sha512 (fuseBytes fuses), sha512 (siteBytes hpos), Config.imageDigest 1].foldl extend 0

/-- Dies whose fuse map is unreadable: a map that is there gives a site for each of the 8 rows (R415). -/
def unreadable (fuses : List (List Nat)) : List Nat :=
  ((natsFrom 0 fuses.length).zip fuses).filterMap fun (d, r) => if r.length = 8 then none else some d

/-- POWER_ON (R452): the stages in order; `failure` is a stage that fails, 0 for none. Stages 1, 4, 5 and 6 halt the package with the stage's
number and bit 15 set; a failure of stages 2 and 3 marks dies and charts links. -/
def execPowerOn (fuses : List (List Nat)) (failure : Nat) (s : State) : Out :=
  let fresh : State := { State.reset with
    steps := s.steps, agenda := [], fuses := fuses, hitchPos := s.hitchPos, hitchPeers := s.hitchPeers,
    reck := { accounts := (natsFrom 0 64).map fun d => (d, 125000) },
    stew := { dumpKept := s.stew.dumpKept, dumpTiles := s.stew.dumpTiles, dumpMem := s.stew.dumpMem, checkpoint := s.stew.checkpoint,
              header := s.stew.header, headerSaves := s.stew.headerSaves, headerRegistry := s.stew.headerRegistry,
              headerDigest := s.stew.headerDigest, savedLaunches := s.stew.savedLaunches, deadDies := unreadable fuses } }
  if [1, 4, 5, 6].contains failure then
    .next { fresh with halted := true, stew := { fresh.stew with bootStatus := 2 ^ 15 + failure } }
  else .next { fresh with stew := { fresh.stew with bootStatus := 7, kernelUp := true, measurement := measured fuses s.hitchPos } }

/-- ATTESTATION_REQUEST (R453): M, the nonce, the serial number and the chronometer, signed. -/
def execAttestationRequest (nonce : BitVec 512) (s : State) : Out :=
  let body := leBytes 64 s.stew.measurement.toNat ++ leBytes 64 nonce.toNat ++ leBytes 8 Config.serial.toNat ++ leBytes 8 s.chron
  .next (s.report (.attest (body ++ Config.attest body)))

/-! ## Partitions (R449, R454) -/

/-- Bits `i` to `i + n - 1` of a registry entry. -/
def entryField (e : BitVec 2048) (off n : Nat) : Nat := e.toNat / 2 ^ (8 * off) % 2 ^ (8 * n)

/-- Whether a set-up is refused: a number outside the registry, a die (an image-area die among them) of another partition, a change while a field of the partition is placed
(R454), a class whose code is none of the seven (R399), or a balance threshold below 64 (R356), of which 0 stands for the default. -/
def State.setupRefused (s : State) (p cpn hpos : Nat) (dies : BitVec 64) (classes : BitVec 32) (balance : Nat) : Bool :=
  decide (0 < balance ∧ balance < 64) || ((natsFrom 0 8).any fun c => decide (7 ≤ classes.toNat / 2 ^ (4 * c) % 16)) ||
  decide (64 ≤ p ∨ 4 ≤ cpn) || (hpos != 0xff && decide (4 ≤ hpos)) ||
  s.parts.any (fun x => x.1 != p && x.2.valid && (x.2.dies ||| x.2.imgdies) &&& dies != 0) || s.launches.any fun l => l.2.part == p && l.2.state != .saved

/-- Service entries that a registry entry's table holds (R335, R449). -/
def State.serviceTable (s : State) (at_ : Nat) : List (Nat × Handler) :=
  if at_ = 0 then []
  else (natsFrom 0 16).filterMap fun i =>
    let e := Mem.readBytes s.mem (at_ + 32 * i) 32
    if handlerOk true e then some (i, Handler.ofBytes e) else none

/-- PARTITION_SETUP (R449, R454): the partition as its registry entry gives it. -/
def execPartitionSetup (entry : BitVec 2048) (s : State) : Out :=
  let f := entryField entry
  let p := f 0 1
  let dies := BitVec.ofNat 64 (f 0x08 8)
  let policy := BitVec.ofNat 64 (f 0x30 8)
  let balance := policy.toNat / 2 ^ 16 % 2 ^ 16
  if s.setupRefused p (f 1 1) (f 2 1) (dies ||| BitVec.ofNat 64 (f 0x10 8)) (BitVec.ofNat 32 (f 0x38 8)) balance then .next s
  else
    let old := (s.part? p).getD {}
    let x : Partition := { old with
      valid := true, down := false, cpn := f 1 1, hpos := if f 2 1 = 0xff then none else some (f 2 1), dies := dies,
      imgdies := BitVec.ofNat 64 (f 0x10 8), ptroot := BitVec.ofNat 64 (f 0x18 8), lqueue := BitVec.ofNat 64 (f 0x20 8),
      save := BitVec.ofNat 64 (f 0x28 8), policy := policy, classes := BitVec.ofNat 32 (f 0x38 8),
      keyids := ((natsFrom 0 8).map fun i => BitVec.ofNat 64 (f (0x40 + 8 * i) 8)).filter (fun k => k != 0),
      areas := BitVec.ofNat 64 (f 0x80 8), svctab := BitVec.ofNat 64 (f 0x88 8), imgext := BitVec.ofNat 64 (f 0x98 8),
      services := s.serviceTable (f 0x88 6), balance := if balance = 0 then 512 else balance }
    let map := f 0x90 6
    let bitOf (n : Nat) : Bool := map != 0 && (Mem.read s.mem (map + n / 8)).toNat.testBit (n % 8)
    let tiles := (natsFrom 0 4096).filter fun n => dies.getLsbD (dieOf n) && (bitOf n != (s.tile n).rebuild)
    let s := tiles.foldl (fun s n => s.modTile n fun t => { t with rebuild := bitOf n, failedBank := none, lostWords := [] }) s
    .next { s with
      parts := insertAt p x s.parts,
      stew := { s.stew with registry := insertAt p (withDigest entry) s.stew.registry, generation := s.stew.generation + 1, share := insertAt p (min (policy.toNat % 128) 100) s.stew.share } }

/-! ## The reckoner (R455 to R458) -/

/-- RECKONER_REGISTER_WRITE (R455): 0 RKBUDGET, 1 RKFIXED, 2 RKDCAP; what a refill uses next. The others are read-only. -/
def execReckonerRegisterWrite (register : Nat) (value : BitVec 64) (s : State) : Out :=
  let x := value.toNat
  let r := s.reck
  .next (match register with
    | 0 => { s with reck := { r with pkgw := max 2000 (min 12000 (x % 2 ^ 14)) } }
    | 1 => { s with reck := { r with fixw := x % 2 ^ 14 } }
    | 2 => { s with reck := { r with dcap := x % 2 ^ 32 } }
    | _ => s)

/-- R (R456), halved for a hot die (R460). -/
def Reckoner.rate (r : Reckoner) : Int := ((r.pkgw : Int) - r.fixw) / 64
def Reckoner.rateOf (r : Reckoner) (die : Nat) : Int := if r.hot.contains die then r.rate / 2 else r.rate

/-- The target of CEIL (R458). -/
def ceilTarget (energy rate : Int) : Nat :=
  if 4 * rate ≤ energy then 64 else if energy ≤ 0 then 8 else 8 + (56 * energy / (4 * rate)).toNat

/-- CEIL moves towards its target by at most 8. -/
def ceilStep (ceil target : Nat) : Nat := if ceil ≤ target then min target (ceil + 8) else max target (ceil - 8)

/-- What a die's launches are charged of an amount (R456): by activity counts, else by tiles held. -/
def State.shares (s : State) (die amount : Nat) : List (Nat × Nat) :=
  let counts := s.launches.map fun (k, _) => (k, (lookup (4096 * die + k) s.reck.activity).getD 0)
  let total := (counts.map Prod.snd).sum
  let tiles := s.launches.map fun (k, l) => (k, if l.state = .saved then 0 else (l.field.filter fun n => dieOf n == die).length)
  let held := (tiles.map Prod.snd).sum
  let of (xs : List (Nat × Nat)) (sum : Nat) : List (Nat × Nat) := if sum = 0 then [] else xs.map fun x => (x.1, amount * x.2 / sum)
  if total = 0 then of tiles held else of counts total

/-- Refills one die: its account, its launches' consumption, and CEIL of its tiles. -/
def State.refillDie (s : State) (die used : Nat) : State :=
  let r := s.reck
  let energy := min (((lookup die r.accounts).getD r.dcap) + r.rateOf die - used) (r.dcap : Int)
  let ceil := ceilStep (s.ceilOf die) (ceilTarget energy (r.rateOf die))
  let s := (s.shares die used).foldl (fun s x => s.modLaunch x.1 fun l => { l with used := l.used + x.2 }) s
  { s with
    reck := { r with accounts := insertAt die energy r.accounts, ceil := insertAt die ceil r.ceil },
    tiles := s.tiles.map fun x => if !isCore x.1 && dieOf x.1 == die then (x.1, { x.2 with curbCeil := ceil }) else x }

/-- The dies of a partition that fill its pool. -/
def State.poolDies (s : State) (p : Partition) : Nat :=
  ((natsFrom 0 64).filter fun d => p.dies.getLsbD d && !(p.imgdies.getLsbD d) && !(s.stew.deadDies.contains d)).length

/-- Tells the tiles of a launch that has overrun its estimate, or the steward (R433). -/
def State.overrun (s : State) (k : Nat) (l : Launch) : State :=
  if l.used ≤ l.estimate ∨ l.state ≠ .running then s
  else if l.trapEntry = 0 then s.report (.overrun k (l.used - l.estimate))
  else l.field.foldl (fun s n =>
    let t := s.tile n
    if t.energyNoticeAt ≤ s.chron && t.berths.toList.any fun b => (b.ctx.map fun c => c.ctxnum == k).getD false
    then s.once (.energyOverrunNotice n (l.used - l.estimate)) else s) s

/-- RECKONER_REFILL (R456 to R458): `used` gives what dies' monitors measured; a die it does not name used what its monitor measured, which the
spec does not compute. -/
def execReckonerRefill (used : List (Nat × Nat)) (s : State) : Out :=
  let dies := (natsFrom 0 64).filter fun d => !(s.stew.deadDies.contains d)
  let s := dies.foldl (fun s d => s.refillDie d ((lookup d used).getD (Config.energyUsed s.steps d))) s
  let add (p : Partition) : Partition := { p with pool := min ((p.pool + s.reck.rate * s.poolDies p).toNat) (2 ^ 34 - 1) }
  let s : State := { s with reck := { s.reck with activity := [] }, parts := s.parts.map fun x => (x.1, add x.2) }
  let s := s.parts.foldl (fun s x => if (x.2.head?.any fun q => q.fetched.isSome) then s.once (.admission x.1) else s) s
  .next (s.launches.foldl (fun s x => s.overrun x.1 x.2) s)

/-! ## Heat and clock (R459, R460) -/

/-- THERMAL_THRESHOLD (R460): a sensor's reading in degrees. -/
def execThermalThreshold (die sensor reading : Nat) (s : State) : Out :=
  if 64 ≤ die ∨ 16 ≤ sensor then .next s
  else
    let readings := insertAt (16 * die + sensor) reading s.reck.readings
    let cool := (natsFrom 0 16).all fun i => decide ((lookup (16 * die + i) readings).getD 0 < 95)
    let others := s.reck.hot.filter fun d => d != die
    let hot := if 105 < reading then others ++ [die] else if cool then others else s.reck.hot
    let s : State := { s with reck := { s.reck with readings := readings, hot := hot } }
    .next (if 115 ≤ reading then (s.report (.thermal die reading)).once (.dieFailed die) else s)

/-- CLOCK_SET (R459): 1.5, 1.2 or 0.9 GHz, and only while no field is placed. -/
def execClockSet (megahertz : Nat) (s : State) : Out :=
  if [1500, 1200, 900].contains megahertz && !(s.launches.any fun l => l.2.state != .saved) then .next { s with clock := megahertz, chronFrac := 0 }
  else .next s

/-- MANAGEMENT_MAILBOX (R459): a word written to the mailbox of the 64 KiB BAR. -/
def execManagementMailbox (offset : Nat) (value : BitVec 64) (s : State) : Out :=
  if offset % 8 = 0 ∧ offset + 8 ≤ 65536 then .next { s with stew := { s.stew with mailbox := insertAt offset value s.stew.mailbox } }
  else .next s

/-! ## Holdup (R461, R462) -/

/-- PRECIOUS_REGION_MARK (R461): 16 a partition, 64 KiB aligned, and 200 GiB in the package; a mark beyond is refused. -/
def execPreciousRegionMark (part : Nat) (base : BitVec 48) (length : Nat) (s : State) : Out :=
  match s.part? part with
  | none => .next s
  | some p =>
    let total := (s.parts.flatMap fun x => x.2.precious.map Prod.snd).sum
    if base.toNat % 65536 ≠ 0 ∨ length % 65536 ≠ 0 ∨ length = 0 ∨ 2 ^ 48 < base.toNat + length ∨ 16 ≤ p.precious.length ∨
        200 * 2 ^ 30 < total + length then .next s
    else .next (s.modPart part fun p => { p with precious := p.precious ++ [(base.toNat, length)] })

/-- Bytes that the bank's energy above 40 J streams at 1,350 W and 400 GB/s, after the 15 J of the saves (R462). -/
def streamable (holdup : Nat) : Nat := (holdup - 15 - 40) * 400000000000 / 1350

/-- The precious regions in their order, as far as the energy goes: what is streamed whole is listed. -/
def takeRegions : Nat → List (Nat × Nat × Nat) → List (Nat × Nat × Nat)
  | _, [] => []
  | room, r :: rs => if r.2.2 ≤ room then r :: takeRegions (room - r.2.2) rs else []

/-- What the checkpoint header lists (R462): the regions streamed, the save areas and the registry copy. -/
def headerBytes (regions : List (Nat × Nat × Nat)) (saves : List Nat) (registry : List (Nat × BitVec 2048)) : List Byte :=
  regions.flatMap (fun r => leBytes 8 r.1 ++ leBytes 8 r.2.1 ++ leBytes 8 r.2.2) ++ saves.flatMap (leBytes 8) ++
    registry.flatMap fun e => leBytes 256 e.2.toNat

/-- HOLDUP (R462): every partition is frozen and every placed launch saved; the islands are then switched off, and the precious regions streamed
with their header last. The package waits for its next cold boot. -/
def execHoldup (s : State) : Out :=
  let live := (s.launches.filter fun x => x.2.state != .saved).map Prod.fst
  let s : State := { s with parts := s.parts.map fun x => (x.1, { x.2 with down := true }) }
  let s := live.foldl State.beginSave s
  if live.any s.unsaved then .next (s.atCycle (s.now + 1) .holdup) else
  let s := live.foldl (fun s k => match s.launch? k with | some l => s.takeField k l | none => s) s
  let regions := takeRegions (streamable s.reck.holdup) (s.parts.flatMap fun x => x.2.precious.map fun r => (x.1, r.1, r.2))
  let runs := regions.flatMap fun r => (pagesOf r.2.1 r.2.2).filterMap fun (a, n) => (s.physOf r.1 a).map fun pa => (pa, n)
  let inside (a : Nat) : Bool := runs.any fun r => decide (r.1 ≤ a ∧ a < r.1 + r.2)
  .next { State.reset with
    steps := s.steps, fuses := s.fuses, hitchPos := s.hitchPos, hitchPeers := s.hitchPeers, agenda := [.powerOn s.fuses 0],
    stew := { dumpKept := s.stew.dumpKept, dumpTiles := s.stew.dumpTiles, dumpMem := s.stew.dumpMem,
              checkpoint := s.mem.filter fun x => inside x.1, header := regions, headerSaves := s.launches.map Prod.fst,
              headerRegistry := s.stew.registry, headerDigest := sha512 (headerBytes regions (s.launches.map Prod.fst) s.stew.registry),
              savedLaunches := s.launches } }

/-! ## Accesses from outside (R304, R463) -/

/-- DEVICE_MEMORY_ACCESS (R463): a device reads or writes a partition's memory through the steward's IOMMU; a frame that is not mapped is
not reached. -/
def execDeviceMemoryAccess (part : Nat) (address : BitVec 48) (store : Bool) (data : List (BitVec 8)) (s : State) : Out :=
  if store then .next (s.writeVa part address.toNat data) else .next s

/-- STEWARD_MEMORY_WRITE (R304, R275): a write of the steward to HBM or, with OWNER 0, to a slice; one that meets a context image changes what
the hardware reads of it (R39). -/
def execStewardMemoryWrite (address : Nat) (data : List (BitVec 8)) (s : State) : Out :=
  match siteOf address with
  | .hbm pa => if pa + data.length ≤ hbmSize then .next ((s.writePa pa data).imageWritten pa data.length) else .next s
  | .slice n off =>
    if off + data.length ≤ sliceSize n then .next ((s.writeSlice n off data 0).imageWritten (slicePa n off) data.length) else .next s
  | _ => .next s

end Sys2Proof.Machine
end

