-- ==== Sys2Proof/Machine/Fabric.lean ====
section
/-!
DEFINITION. The torus fabric (R395 to R413): soundings, routes, detours, arbitration, ports to the root tier, the lodestar, and failures of
links and reins (R408 to R412, R429).
-/
namespace Sys2Proof.Machine

/-! ## Ports and neighbours (R395). Ports 0 to 5 are +x, -x, +y, -y, +z, -z -/

def coordOf (n axis : Nat) : Nat := match axis with | 0 => tileX n | 1 => tileY n | _ => tileZ n

/-- The tile beyond a port. -/
def neighbour (n port : Nat) : Nat :=
  let d := if port % 2 = 0 then 1 else 15
  match port / 2 with
  | 0 => tileAt (tileX n + d) (tileY n) (tileZ n)
  | 1 => tileAt (tileX n) (tileY n + d) (tileZ n)
  | _ => tileAt (tileX n) (tileY n) (tileZ n + d)

/-- The port of the neighbour that faces back. -/
def opposite (port : Nat) : Nat := if port % 2 = 0 then port + 1 else port - 1

/-- Hop latency (R395): lateral 3; vertical 2 between z 15 and 0 and between 7 and 8, else 3. -/
def hopLatency (n port : Nat) : Nat :=
  if port < 4 then 3
  else
    let a := tileZ n
    let b := tileZ (neighbour n port)
    if (a = 15 ∧ b = 0) ∨ (a = 0 ∧ b = 15) ∨ (a = 7 ∧ b = 8) ∨ (a = 8 ∧ b = 7) then 2 else 3

/-- The 2 clocks of a root port (R395). -/
def rootLatency : Nat := 2

/-! ### Design edges (R417, R418) -/

/-- The edges of a die in its design frame: A+, A-, B+ and B-. A tile's ports +a, -a, +b and -b point towards them. -/
inductive Edge where
  | aPlus | aMinus | bPlus | bMinus
  deriving DecidableEq, Repr

def Edge.all : List Edge := [.aPlus, .aMinus, .bPlus, .bMinus]

/-- The port of the tier edge that a design edge faces, by ORIENT (R417). -/
def Edge.facing (orient : Nat) : Edge → Nat
  | .aPlus => match orient with | 0 => 0 | 1 => 2 | 2 => 1 | _ => 3
  | .aMinus => match orient with | 0 => 1 | 1 => 3 | 2 => 0 | _ => 2
  | .bPlus => match orient with | 0 => 2 | 1 => 1 | 2 => 3 | _ => 0
  | .bMinus => match orient with | 0 => 3 | 1 => 0 | 2 => 2 | _ => 1

/-- The logical coordinate along its tier edge of lane i, 0 to 7, of a design edge (R417). -/
def Edge.laneAt (orient i : Nat) : Edge → Nat
  | .aPlus | .aMinus => match orient with | 1 | 2 => 7 - i | _ => i
  | .bPlus | .bMinus => match orient with | 2 | 3 => 7 - i | _ => i

/-- The design edge that a tile's lateral port points to. -/
def designEdge (n port : Nat) : Option Edge :=
  Edge.all.find? fun e => e.facing (quadrantOf (tileX n) (tileY n)) == port

/-- The lane of an edge that a tile's row or column leads to: design row b of an A edge, logical column a of a B edge. -/
def designLane (n : Nat) : Edge → Nat
  | .aPlus | .aMinus => (designAt n).2
  | .bPlus | .bMinus => (designAt n).1

def Edge.number : Edge → Nat
  | .aPlus => 0 | .aMinus => 1 | .bPlus => 2 | .bMinus => 3

/-- The design channel of a die's up-port, whose logical number is the tile's die-relative number (R418). -/
def designChannel (n : Nat) : Nat := (designAt n).1 + 8 * (designAt n).2

/-- The design port and lane of a link in the steward's log: the vertical ports are not rotated, and their lane is the design channel. -/
def designOf (n port : Nat) : Nat × Nat :=
  match designEdge n port with
  | some e => (e.number, designLane n e)
  | none => (port, designChannel n)

/-! ## The route word (R397) -/

/-- The route word of a packet; PCHK is the code over PART alone. -/
def Packet.routeWord (p : Packet) : Word :=
  BitVec.ofNat 64 ((Config.secdedPart (BitVec.ofNat 6 p.part)).toNat * 2 ^ 59 + p.det % 4 * 2 ^ 57 + p.hops % 16 * 2 ^ 53 + p.part % 64 * 2 ^ 47 +
    p.ctxnum % 4096 * 2 ^ 35 + (p.stag.getD 0) % 32 * 2 ^ 30 + p.stile % 4096 * 2 ^ 18 + p.cls % 16 * 2 ^ 14 + p.dkind % 4 * 2 ^ 12 + p.dtile % 4096)

/-! ## Buffers and soundings (R396, R401) -/

/-- Flits in an input buffer of a router, and those on their way to it, for which its room is taken. -/
def State.bufferFlits (s : State) (n port : Nat) : Nat :=
  ((s.packets.filter fun p => p.at_ == n && p.inPort == port).map Packet.flits).sum

/-- Flits that have arrived in an input buffer. -/
def State.occupancy (s : State) (n port : Nat) : Nat :=
  ((s.packets.filter fun p => p.at_ == n && p.inPort == port && decide (p.since ≤ s.now)).map Packet.flits).sum

/-- The sounding a router sends over a port (R401). -/
def State.soundingOf (s : State) (n port : Nat) : Nat :=
  let occ (q : Nat) : Nat := min 15 (s.occupancy n q)
  min 15 (occ port + (((natsFrom 0 6).filter fun q => q != port).map occ).foldl max 0 / 2)

/-- SOUNDING (R401): every router gets its neighbours' soundings; those with nothing near hear 0. -/
def execSounding (s : State) : Out :=
  let near := (s.packets.flatMap fun p => (natsFrom 0 6).map (neighbour p.at_)).eraseDups
  let heard := (s.tiles.filter fun x => x.2.router.soundings.toList.any fun v => v != 0).map Prod.fst
  .next ((near ++ heard.filter fun n => !near.contains n).foldl (fun t n =>
    t.modTile n fun x => { x with router := { x.router with
      soundings := Vector.ofFn fun k : Fin 6 => s.soundingOf (neighbour n k.val) (opposite k.val) } }) s)

/-! ## Charts (R411, R412) -/

/-- Whether a coordinate lies in an entry's box on an axis, which wraps where lo exceeds hi. -/
def inBox (e : Word) (axis c : Nat) : Bool :=
  let at_ (i : Nat) : Nat := (e.extractLsb' i 4).toNat
  let (lo, hi) := match axis with
    | 0 => (at_ 20, at_ 16)
    | 1 => (at_ 12, at_ 8)
    | _ => (at_ 4, at_ 0)
  if lo ≤ hi then decide (lo ≤ c ∧ c ≤ hi) else decide (lo ≤ c ∨ c ≤ hi)

def boxHolds (e : Word) (n : Nat) : Bool := inBox e 0 (tileX n) && inBox e 1 (tileY n) && inBox e 2 (tileZ n)

/-- Whether an entry charts the link of a port. -/
def entryCharts (e : Word) (n port : Nat) : Bool :=
  let kind := (e.extractLsb' 60 3).toNat
  let m := neighbour n port
  e.getLsbD 63 && match kind with
    | 0 => decide (port / 2 = 2) && boxHolds e n && boxHolds e m
    | 1 => decide (port / 2 = 0) && boxHolds e n && boxHolds e m
    | 2 => decide (port / 2 = 1) && boxHolds e n && boxHolds e m
    | 3 => boxHolds e n || boxHolds e m
    | _ => false

/-- A box round one link, for a router that knows its link failed before the chart says so. -/
def linkBox (n port : Nat) : Word :=
  let m := neighbour n port
  let lohi (f : Nat → Nat) : Nat × Nat := if (f n + 1) % 16 = f m then (f n, f m) else (f m, f n)
  let (xl, xh) := lohi tileX
  let (yl, yh) := lohi tileY
  let (zl, zh) := lohi tileZ
  BitVec.ofNat 64 (2 ^ 63 + xl * 2 ^ 20 + xh * 2 ^ 16 + yl * 2 ^ 12 + yh * 2 ^ 8 + zl * 2 ^ 4 + zh)

/-- The entry by which a link is charted. -/
def State.charted (s : State) (n port : Nat) : Option Word :=
  match s.chart.find? fun e => entryCharts e.2 n port with
  | some e => some e.2
  | none => if (s.tile n).router.failedPorts.contains port then some (linkBox n port) else none

/-! ## Routes (R399 to R401, R413) -/

def axisGap (p : Packet) (axis : Nat) : Nat := (coordOf p.dtile axis + 16 - coordOf p.at_ axis) % 16

/-- The port of the minimal direction on an axis (R400). -/
def minimalPort (p : Packet) (axis : Nat) : Nat := if axisGap p axis ≤ 8 then 2 * axis else 2 * axis + 1

/-- Axes in the order of a class code; none is adaptive (R399). -/
def axisOrder : Nat → Option (List Nat)
  | 1 => some [0, 1, 2] | 2 => some [0, 2, 1] | 3 => some [1, 0, 2]
  | 4 => some [1, 2, 0] | 5 => some [2, 0, 1] | 6 => some [2, 1, 0]
  | _ => none

def State.orderOf (s : State) (p : Packet) : Option (List Nat) :=
  if p.cls < 8 then axisOrder (((s.part? p.part).map fun x => x.classes.toNat / 2 ^ (4 * p.cls) % 16).getD 0) else none

/-- Productive ports (R400, R401). -/
def State.productive (s : State) (p : Packet) : List Nat :=
  match s.orderOf p with
  | some axes => match axes.find? fun a => axisGap p a != 0 with
    | some a => [minimalPort p a]
    | none => []
  | none => (natsFrom 0 3).flatMap fun a =>
      if axisGap p a = 0 then [] else if axisGap p a = 8 then [2 * a, 2 * a + 1] else [minimalPort p a]

/-- Room in an input buffer: four flits are kept for the lodestar (R396). -/
def State.bufferRoom (s : State) (p : Packet) (n port : Nat) : Bool :=
  decide (s.bufferFlits n port + p.flits ≤ if s.lodestar = p.id then 16 else 12)

/-- Room in the next buffer. -/
def State.credit (s : State) (p : Packet) (port : Nat) : Bool := s.bufferRoom p (neighbour p.at_ port) (opposite port)

/-- An output that no earlier packet still crosses (R396): port 10 is ejection, 11 the root port downward from the router, 12 from the root tier. -/
def State.outputFree (s : State) (n port : Nat) : Bool :=
  ((lookup port (s.tile n).router.busy).getD 0) ≤ s.now

def State.cost (s : State) (n port : Nat) : Nat := (s.tile n).router.soundings[Fin.ofNat 6 port]

/-- The first port of least cost. -/
def State.cheapest (s : State) (n : Nat) : List Nat → Option Nat
  | [] => none
  | p :: ps => match s.cheapest n ps with
    | some q => if s.cost n q < s.cost n p then some q else some p
    | none => some p

/-- The detour axis of a blocked axis (R413). -/
def State.detourAxis (s : State) (p : Packet) (blocked : Nat) : Nat :=
  if p.cls = 10 then (if blocked = 0 then 1 else 0)
  else match s.orderOf p with
    | some axes => match axes with
      | [a, b, c] => if blocked = a then b else if blocked = b then c else a
      | _ => 0
    | none =>
      let others := (natsFrom 0 3).filter fun a => a != blocked
      let best (a : Nat) : Nat := min (s.cost p.at_ (2 * a)) (s.cost p.at_ (2 * a + 1))
      match others with
      | [a, b] => if best b < best a then b else a
      | _ => 0

/-- What a head does next: a port with the detour state it leaves, or nothing. -/
structure Choice where
  port : Nat
  det : Nat := 0
  sidestep : Option (Nat × Nat × Word) := none
  deriving DecidableEq, Repr

/-- The first sidestep of a detour (R413): none where both links of the detour axis are charted. -/
def State.startDetour (s : State) (p : Packet) (blocked : Nat) (e : Word) : Option Choice :=
  let a := s.detourAxis p blocked
  let first := if e.getLsbD (48 + a) then 2 * a + 1 else 2 * a
  let port := if (s.charted p.at_ first).isSome then opposite first else first
  if (s.charted p.at_ port).isSome then none else some { port := port, sidestep := some (port, blocked, e) }

/-- The port a head's route chooses, whatever the traffic (R400, R401, R413). -/
def State.route (s : State) (p : Packet) : Option Choice :=
  match p.sidestep with
  | some (port, blocked, e) => if (s.charted p.at_ port).isSome then none else some { port := port, sidestep := some (port, blocked, e) }
  | none =>
    if p.det ≠ 0 then
      let port := minimalPort p (p.det - 1)
      if axisGap p (p.det - 1) = 0 ∨ (s.charted p.at_ port).isSome = true then none else some { port := port, det := p.det }
    else
      let ports := s.productive p
      let open_ := ports.filter fun q => (s.charted p.at_ q).isNone
      match s.cheapest p.at_ (open_.filter fun q => s.credit p q) with
      | some q => some { port := q }
      | none => match open_, ports with
        | q :: _, _ => some { port := q }
        | [], q :: _ => (s.charted p.at_ q).bind fun e => s.startDetour p (q / 2) e
        | [], [] => none

/-- A head that has waited 4 clocks, or whose buffer holds 12 flits, takes any output with credit (R403). -/
def State.deflection (s : State) (p : Packet) : Option Choice :=
  if p.since + 4 ≤ s.now ∨ 12 ≤ s.occupancy p.at_ p.inPort then
    let outs := (natsFrom 0 6).filter fun q => (s.charted p.at_ q).isNone && s.credit p q && s.outputFree p.at_ q
    match s.cheapest p.at_ (outs.filter fun q => q != p.inPort) with
    | some q => some { port := q }
    | none => (s.cheapest p.at_ outs).map fun q => { port := q }
  else none

/-- The output by which a packet leaves the router of its destination: the ejection port, or the root port. -/
def Packet.lastPort (p : Packet) : Nat := if p.dkind = 0 then 10 else 11

/-- The ejection queue holds 16 packets, of which the last place is the lodestar's (R402). -/
def State.ejectRoom (s : State) (p : Packet) : Bool :=
  decide ((s.packets.filter fun q => q.at_ == p.at_ && q.inPort == 10 && q.dkind == 0).length < if s.lodestar = p.id then 16 else 15)

/-- Whether a packet at its destination can leave its router now: charged flits go into the port's buffer (R344). -/
def State.canLeave (s : State) (p : Packet) : Bool :=
  s.outputFree p.at_ p.lastPort &&
    (if p.dkind = 0 then s.ejectRoom p else if 0 < p.charged then s.portRoom p p.at_ else true)

/-- The output a head competes for in this cycle. -/
def State.choice (s : State) (p : Packet) : Option Choice :=
  if p.at_ = p.dtile then (if s.canLeave p then some { port := p.lastPort } else s.deflection p)
  else match s.route p with
  | some c => if s.credit p c.port && s.outputFree p.at_ c.port then some c else s.deflection p
  | none => s.deflection p

/-! ## Arbitration (R402) -/

def Packet.rankHops (p : Packet) (now : Nat) : Nat := if p.inPort = 7 ∧ p.since + 256 ≤ now then 15 else p.hops

/-- Whether `q` outranks `p`. -/
def State.outranks (s : State) (q p : Packet) : Bool :=
  if s.lodestar = q.id then true
  else if s.lodestar = p.id then false
  else
    let hq := q.rankHops s.now
    let hp := p.rankHops s.now
    decide (hp < hq) || (hq == hp && (decide (q.since < p.since) || (q.since == p.since &&
      (decide (q.inPort < p.inPort) || (q.inPort == p.inPort && decide (q.id < p.id))))))

/-- A packet for its own tile, which the local port turns round (R398). -/
def Packet.turned (p : Packet) : Bool := p.inPort == 7 && p.at_ == p.dtile && p.dkind == 0

/-- A packet that stands in an input buffer of its router, and not in the port's own buffers or beyond. A turned packet enters none, and neither do
those that the tile holds for a port, for a rein or for a place in its in-flight table. -/
def State.inBuffer (s : State) (p : Packet) : Bool := decide (p.inPort ≤ 7) && !p.turned && p.stag.isSome && !s.heldForPort p

/-- The head of its input buffer. -/
def State.isHead (s : State) (p : Packet) : Bool :=
  !(s.packets.any fun q => q.id != p.id && q.at_ == p.at_ && q.inPort == p.inPort && s.inBuffer q &&
    (decide (q.since < p.since) || (q.since == p.since && decide (q.id < p.id))))

/-- Another head that wins the output. -/
def State.beaten (s : State) (p : Packet) (port : Nat) : Bool :=
  s.packets.any fun q => q.id != p.id && q.at_ == p.at_ && decide (q.since ≤ s.now) && s.inBuffer q && s.isHead q && s.outranks q p &&
    (s.choice q).any fun c => c.port == port

/-! ## In-flight tags and the lodestar (R404) -/

/-- A free entry of a tile's in-flight table. -/
def State.freeTag (s : State) (n : Nat) : Option Nat :=
  let used := (s.packets.filterMap fun p => if p.stile = n then p.stag else none) ++ (s.tile n).router.notices
  (natsFrom 0 32).find? fun t => !used.contains t

/-- The oldest packet in flight of the turn tile. -/
def State.pickLodestar (s : State) : State :=
  let turn := s.chron / 1024 % 4096
  let ps := s.packets.filter fun p => p.stile == turn && p.stag.isSome
  let best := ps.foldl (fun b p => match b with
    | none => some p
    | some q => if p.born < q.born then some p else some q) (none : Option Packet)
  { s with lodestar := (best.map Packet.id).getD 0 }

/-- LODESTAR_TURN (R404). -/
def execLodestarTurn (s : State) : Out := .next s.pickLodestar

/-- DELIVERY_NOTICE (R404): the in-flight entry is free. -/
def execDeliveryNotice (tile tag : Nat) (s : State) : Out :=
  .next (s.modTile tile fun t => { t with router := { t.router with notices := t.router.notices.erase tag } })

/-! ## Corrupt headers (R410) -/

/-- The partitions that own the die of a router that detects an error, and the die across a packet's input link (R410). -/
def State.ownersAt (s : State) (p : Packet) : List Nat :=
  let dies := dieOf p.at_ :: if p.inPort < 6 then [dieOf (neighbour p.at_ p.inPort)] else []
  (s.parts.filter fun x => dies.any fun d => x.2.dies.getLsbD d).map Prod.fst

/-- A packet with a corrupt header is discarded, and its partition is brought down, or the owners of both dies where PART does not decode (R410);
where these dies belong to no partition, the failure is fatal (R450). -/
def State.corruptHeader (s : State) (p : Packet) (partLost : Bool) : State :=
  let s := { s with packets := s.packets.filter fun q => q.id != p.id }
  if !partLost then s.soon (.bringDown p.part)
  else if (s.ownersAt p).isEmpty then s.soon .fatalDump
  else (s.ownersAt p).foldl (fun s k => s.soon (.bringDown k)) s

/-! ## Hops -/

def State.modPacket (s : State) (id : Nat) (f : Packet → Packet) : State :=
  { s with packets := s.packets.map fun p => if p.id = id then f p else p }

def State.waitHop (s : State) (id : Nat) : State := s.atCycle (s.now + 1) (.packetHop id)

/-- The partition that has the port's next place (R346): of those with a flit in the buffer and tokens left, the one whose part of its grant that it
has spent is smallest, the lower number on a tie. -/
def State.nextPart (s : State) (n : Nat) (up : Bool) : Option Nat :=
  let entry (p : Nat) : Nat × Nat := (lookup (2 * p + if up then 1 else 0) (s.tile n).router.buckets).getD (0, 0)
  let less (a b : Nat) : Bool := decide (((entry a).1 - (entry a).2) * (entry b).1 < ((entry b).1 - (entry b).2) * (entry a).1)
  ((s.activeAt n up).filter fun p => decide (0 < (entry p).2 ∧ 0 < s.portFlits n p up)).foldl (fun b p => match b with
    | none => some p
    | some q => if less p q then some p else some q) none

/-- The packet of a partition that has stood longest in the buffer of a port. -/
def State.firstAt (s : State) (n part : Nat) (up : Bool) : Option Packet :=
  (s.packets.filter fun p => p.at_ == n && p.inPort == 9 && p.part == part && p.upward == up && decide (0 < p.charged ∧ p.since ≤ s.now)).foldl
    (fun b p => match b with
      | none => some p
      | some q => if p.since < q.since then some p else some q) none

/-- Fills the places that a port and direction still have in this cycle, four in all, one at a time (R345, R346). -/
def State.fillPlaces (s : State) (n : Nat) (up : Bool) : Nat → State
  | 0 => s
  | k + 1 =>
    let r := (s.tile n).router
    let (u, d) := if r.passed.1 = s.now then r.passed.2 else (0, 0)
    if 4 ≤ (if up then u else d) then s
    else match s.nextPart n up with
      | none => s
      | some part =>
        match s.firstAt n part up with
        | none => s
        | some p =>
          let key := 2 * part + if up then 1 else 0
          let (g, l) := (lookup key r.buckets).getD (0, 0)
          let r := { r with buckets := insertAt key (g, l - 1) r.buckets, passed := (s.now, if up then (u + 1, d) else (u, d + 1)) }
          ((s.modTile n fun t => { t with router := r }).modPacket p.id fun q => { q with charged := q.charged - 1 }).fillPlaces n up k

/-- A packet is no longer in the fabric: its notice returns to its source, and the turn tile names its next lodestar. -/
def State.withdraw (s : State) (p : Packet) : State :=
  let s := { s with packets := s.packets.filter fun q => q.id != p.id }
  let s := match p.stag with
    | some t =>
      (s.modTile p.stile fun x => { x with router := { x.router with notices := x.router.notices ++ [t] } }).atCycle
        (s.now + 64 + 2 * torusHops p.stile p.dtile) (.deliveryNotice p.stile t)
    | none => s
  if s.lodestar = p.id then s.pickLodestar else s

/-- A packet is delivered. -/
def State.eject (s : State) (p : Packet) : State := (s.withdraw p).deliver p.cargo p.poison

/-- A packet has crossed its rein: the last part of an answer to another package ends what it answers, and an announcement needs no answer; another
request waits for that package. -/
def State.leavePackage (s : State) (p : Packet) : State :=
  let s := s.withdraw p
  match p.cargo with
  | .response id _ => match s.flight? id with
    | some f => if 1 < f.left then s.modFlight id fun f => { f with left := f.left - 1 } else s.dropFlight id
    | none => s
  | .request id _ _ => match (s.flight? id).map Flight.kind with
    | some (.announce ..) => s.dropFlight id
    | _ => s
  | _ => s

/-! ### Ports of the root tier and reins (R344, R395, R402, R426) -/

/-- An output is taken for so many clocks. -/
def State.takeOutput (s : State) (n port clocks : Nat) : State :=
  s.modTile n fun t => { t with router := { t.router with busy := insertAt port (s.now + clocks) t.router.busy } }

/-- A packet stands somewhere else from a cycle on. -/
def State.stand (s : State) (p : Packet) (inPort since : Nat) : State :=
  (s.modPacket p.id fun q => { q with inPort := inPort, since := since }).atCycle since (.packetHop p.id)

/-- The last clocks of R407, from the router of the destination on: two, and those of the flits behind the head where a lateral link was crossed. -/
def Packet.tailClocks (p : Packet) : Nat := 2 + if p.lateral then p.flits - 1 else 0

/-- A packet enters a rein, which moves 25 flits every 6 clocks and delivers them in order, 400 clocks on (R426). -/
def State.enterRein (s : State) (p : Packet) (rein from_ : Nat) : State :=
  let done := max (25 * from_) ((lookup rein s.reinBusy).getD 0) + 6 * p.flits
  let s : State := { s with reinBusy := insertAt rein done s.reinBusy }
  (s.modPacket p.id fun q => { q with rein := some rein }).stand p 11 ((done + 24) / 25 + 400)

/-- A packet crosses the root port of its destination: to a memory core, or on to its rein. -/
def State.crossRoot (s : State) (p : Packet) : State :=
  let s := s.takeOutput p.at_ 11 1
  match p.dkind, p.rein with
  | 2, some r => s.enterRein p r (s.now + rootLatency)
  | _, _ => s.stand p 10 (s.now + rootLatency + p.tailClocks)

/-- A packet that has won the last output of its way: the ejection queue, the port's buffer for charged flits, or the root port. -/
def State.leaveRouter (s : State) (p : Packet) : State :=
  if p.dkind = 0 then (s.takeOutput p.at_ 10 1).stand p 10 (s.now + p.tailClocks)
  else if 0 < p.charged then s.stand p 9 s.now
  else s.crossRoot p

/-- A packet comes down a root port into the router (R396). -/
def State.comeDown (s : State) (p : Packet) : State :=
  if s.bufferRoom p p.at_ 6 && s.outputFree p.at_ 12 then (s.takeOutput p.at_ 12 1).stand p 6 (s.now + rootLatency)
  else s.waitHop p.id

/-- A packet in a buffer of the root port (R344 to R346): above it, on its way down; or waiting for tokens, in either direction. -/
def State.portStep (s : State) (p : Packet) : State :=
  if p.inPort = 8 then
    if p.charged = 0 then s.comeDown p
    else if s.portRoom p p.at_ then s.stand p 9 s.now
    else s.waitHop p.id
  else
    let s := s.fillPlaces p.at_ p.upward 4
    if 0 < ((s.packets.find? fun q => q.id == p.id).map Packet.charged).getD 0 then s.waitHop p.id
    else if !p.upward then s.comeDown p
    else if s.outputFree p.at_ 11 then s.crossRoot p
    else s.waitHop p.id

/-- A packet takes a hop. -/
def State.hop (s : State) (p : Packet) (c : Choice) : State :=
  let m := neighbour p.at_ c.port
  let arrive := s.now + hopLatency p.at_ c.port
  let lateral := decide (c.port < 4)
  -- a sidestep ends outside the box on its axis; a detour ends at the destination's coordinate or outside the box on the blocked axis
  let (det, side) := match c.sidestep with
    | some (port, blocked, e) => if inBox e (port / 2) (coordOf m (port / 2)) then (0, c.sidestep) else (blocked + 1, none)
    | none =>
      if c.det = 0 then (0, none)
      else
        let a := c.det - 1
        let stillBoxed := s.chart.any fun x => boxHolds x.2 p.at_ && inBox x.2 a (coordOf m a)
        if coordOf m a = coordOf p.dtile a ∨ stillBoxed = false then (0, none) else (c.det, none)
  let s := s.modPacket p.id fun q =>
    { q with at_ := m, inPort := opposite c.port, since := arrive, hops := min 15 (q.hops + 1), det := det, sidestep := side,
             lateral := q.lateral || lateral }
  let s := s.takeOutput p.at_ c.port (if lateral then p.flits else 1)
  s.atCycle arrive (.packetHop p.id)

/-- The step of a packet in its router: the head of its buffer takes the output it wins, or waits. -/
def State.routerStep (s : State) (p : Packet) : State :=
  if !s.isHead p then s.waitHop p.id
  else match s.choice p with
    | none => s.waitHop p.id
    | some c =>
      if s.beaten p c.port then s.waitHop p.id
      else if c.port < 10 then s.hop p c
      else s.leaveRouter p

/-- The step of a packet at the local port: one for another package needs a rein that works (R429), and every one a place of the in-flight table
(R404). -/
def State.injectStep (s : State) (p : Packet) : State :=
  if p.dkind = 2 ∧ p.rein = none then
    match s.reinFor p.device p.stile with
    | some r => (s.modPacket p.id fun q => { q with rein := some r, dtile := attachTile r }).atCycle s.now (.packetHop p.id)
    | none => s.waitHop p.id
  else if s.heldForPort p then s.waitHop p.id
  else s.routerStep p

/-- PACKET_HOP (R402): a packet crosses a rein or a root port, takes the output it wins, is delivered, or waits. -/
def execPacketHop (packet : Nat) (s : State) : Out :=
  match s.packets.find? fun p => p.id == packet with
  | none => .next s
  | some p =>
    if s.now < p.since then .next (s.atCycle p.since (.packetHop packet))
    else if 10 < p.cls ∨ 2 < p.dkind ∨ 4096 ≤ p.dtile then .next (s.corruptHeader p false)
    else if p.inPort = 11 then .next (if p.dkind = 2 then s.leavePackage p else s.stand p 8 s.now)
    else if p.turned ∨ p.inPort = 10 then .next (s.eject p)
    else if p.stag.isNone then
      match s.freeTag p.stile with
      | some t => .next ((s.modPacket packet fun q => { q with stag := some t }).atCycle s.now (.packetHop packet))
      | none => .next (s.waitHop packet)
    else if p.inPort = 8 ∨ p.inPort = 9 then .next (s.portStep p)
    else if p.inPort = 7 then .next (s.injectStep p)
    else .next (s.routerStep p)

/-! ## Errors and failures (R408 to R412, R429) -/

/-- Whether struck words of a flit include the route word or a word of the 32-byte header (R410). -/
def headStruck (flit : Nat) (struck : List Nat) : Bool := decide (flit = 0) && struck.any fun w => decide (w < 4) || w == 8

/-- The payload words that the struck words of a flit are (R396, R409). -/
def payloadStruck (flit : Nat) (struck : List Nat) : List Nat := (struck.filter fun w => decide (w < 8)).map fun w => 8 * flit + w - 4

/-- An uncorrectable replay on a link or a rein (R411): the fourth within 1 ms makes it fail. Keys 0 to 5 are the links of the router's ports, and
32 and up the reins. -/
def State.countReplay (s : State) (p : Packet) : State :=
  let key := if p.inPort < 6 then p.inPort else 32 + p.rein.getD 0
  if p.inPort < 6 ∨ (p.inPort = 11 ∧ p.rein.isSome = true) then
    let late := ((s.tile p.at_).router.replays ++ [(key, s.chron)]).filter fun x => decide (s.chron < x.2 + 1000000)
    let s := s.modTile p.at_ fun t => { t with router := { t.router with replays := late } }
    if (late.filter fun x => x.1 == key).length < 4 then s
    else s.once (if key < 6 then .linkFailure p.at_ key else .reinFailure (key - 32))
  else s

/-- LINK_REPLAY (R408 to R410): a flit with an uncorrectable error is replayed; the words that fail again are poisoned, or, in the header, make it a
corrupt header. -/
def execLinkReplay (packet flit : Nat) (struck : List Nat) (partLost : Bool) (s : State) : Out :=
  match s.packets.find? fun p => p.id == packet with
  | none => .next s
  | some p =>
    let s := s.modTile p.at_ fun t => { t with router := { t.router with linkErrors := t.router.linkErrors + 1 } }
    let s := if struck.isEmpty then s else s.countReplay p
    if headStruck flit struck then .next (s.corruptHeader p partLost)
    else if (payloadStruck flit struck).isEmpty then .next s
    else .next ((s.modPacket packet fun q => { q with poison := q.poison ++ payloadStruck flit struck }).report (.poison p.ctxnum p.at_ 10 flit))

/-- A link is no longer used by one end, and the packets that end still holds for it are sent again from there (R411). -/
def State.stopSending (s : State) (n port : Nat) : State :=
  let s := s.modTile n fun t => { t with router := { t.router with
    failedPorts := if t.router.failedPorts.contains port then t.router.failedPorts else t.router.failedPorts ++ [port] } }
  let back := s.packets.filter fun p => p.at_ == neighbour n port && p.inPort == opposite port && decide (s.now < p.since)
  back.foldl (fun s p => (s.modPacket p.id fun q => { q with at_ := n, inPort := port, since := s.now, det := 0, sidestep := none }).atCycle s.now
    (.packetHop p.id)) s

/-- LINK_FAILURE (R411): both ends stop sending on the link and report it; a vertical link takes its bond group, both directions. -/
def execLinkFailure (tile port : Nat) (s : State) : Out :=
  let d := designOf tile port
  .next (((s.stopSending tile port).stopSending (neighbour tile port) (opposite port)).report (.link tile port d.1 d.2))

/-- CHART_UPDATE (R412): the entry reaches every router of the package. -/
def execChartUpdate (index : Nat) (entry : BitVec 64) (s : State) : Out :=
  .next { s with chart := insertAt (index % 8) entry s.chart }

/-- The peers of a position to which no rein works (R429). -/
def State.unreachable (s : State) (h : Nat) : List Nat :=
  (natsFrom 0 4).filter fun d => d != h && (s.reinFor d 0).isNone

/-- Dies of a hitch partition by position: 64 · position + die (R447). -/
def hitchDies (dies : BitVec 64) (positions : List Nat) : List Nat :=
  positions.flatMap fun q => ((natsFrom 0 64).filter fun d => dies.getLsbD d).map fun d => 64 * q + d

/-- Splits the hitch partitions into what this package reaches and what it does not (R429, R447). -/
def State.splitHitch (s : State) (h : Nat) : State :=
  let cut := s.unreachable h
  s.parts.foldl (fun s x =>
    if x.2.valid ∧ x.2.hpos.isSome = true then
      s.soon (.partitionSplit x.1 [hitchDies x.2.dies ((natsFrom 0 4).filter fun q => !cut.contains q), hitchDies x.2.dies cut] [true, true])
    else s) s

/-- The packets of a failed rein take the next that works; those on it are sent again (R429). -/
def State.moveRein (s : State) (rein : Nat) : State :=
  (s.packets.filter fun p => p.rein == some rein && p.dkind == 2).foldl (fun s p =>
    match s.reinFor p.device rein with
    | some r =>
      if p.inPort = 11 then s.enterRein { p with rein := some r } r s.now
      else s.modPacket p.id fun q => { q with rein := some r, dtile := attachTile r }
    | none => s.modPacket p.id fun q => { q with rein := none, at_ := p.stile, inPort := 7, since := s.now }) s

/-- REIN_FAILURE (R429): the rein carries no more packets, and the others of its pair take them. Where none is left, the peer is unreachable and the
hitch partitions split. -/
def execReinFailure (rein : Nat) (s : State) : Out :=
  if reinCount ≤ rein ∨ s.stew.reinsDown.contains rein = true then .next s
  else
    let s : State := { s with stew := { s.stew with reinsDown := s.stew.reinsDown ++ [rein] } }
    let s := s.report (.note 429 (BitVec.ofNat 64 rein))
    if scaleOut rein then .next s
    else
      let s := s.moveRein rein
      match s.hitchPos with
      | none => .next s
      | some h =>
        let d := hitchPeer h (rein / 8)
        .next (if (s.reinFor d 0).isSome then s else (s.report (.note 447 (BitVec.ofNat 64 d))).splitHitch h)

end Sys2Proof.Machine
end

