-- ==== Sys2Proof/Machine/Vector.lean ====
section
/-!
DEFINITION. Vector, mask and permute instructions, opcodes 0x40 to 0x75 (R148 to R173).
-/
namespace Sys2Proof.Machine

/-- Operand checks of a vector instruction under the VTYPE in effect (R148, R17). -/
def View.vcheck (v : View) (us : List Use) (masks : List (Fin 8)) : Ex Unit := do
  v.check us masks (some v.etype.width)
  v.keepRoom us

/-- The masks a governing field reads: none for k0 (R21). -/
def govMasks (k : BitVec 3) : List (Fin 8) := if kIx k = 0 then [] else [kIx k]

/-- An ILLEGAL that depends on VTYPE: TRAPVAL holds the word (R152). -/
def View.illegalWord (v : View) {α : Type} : Ex α := trapWith Cause.illegal v.s.cur.illegalValue

/-- A vector result of checked operands, with latency `l`. -/
def View.vresult (v : View) (us : List Use) (d : BitVec 7) (r : Row) (l : Nat) (mask : Option Mask) (sc : BitVec 3) (inter : Bool := false) : View :=
  ((v.touchSources us).result d (.vector r) l (v.capture v.etype us mask) inter).advance sc

/-- A scalar result of checked vector operands. -/
def View.sresult (v : View) (us : List Use) (d : BitVec 7) (x : Word) (l : Nat) (mask : Option Mask) (sc : BitVec 3) : View :=
  ((v.touchSources us).result d (.scalar x) l (v.capture v.etype us mask)).advance sc

def map1 (t : EType) (f : Nat → Nat) (a : Row) : Row := rowOfElems t.width ((rowElems t.width a).map f)
def map2 (t : EType) (f : Nat → Nat → Nat) (a b : Row) : Row :=
  rowOfElems t.width (List.zipWith f (rowElems t.width a) (rowElems t.width b))
def map3 (t : EType) (f : Nat → Nat → Nat → Nat) (a b d : Row) : Row :=
  rowOfElems t.width (List.zipWith (fun g z => g z) (List.zipWith f (rowElems t.width a) (rowElems t.width b)) (rowElems t.width d))

def vusesDA (d a : BitVec 7) : List Use := [⟨1, d, .dst true⟩, ⟨2, a, .src true⟩]
def vusesDAB (d a b : BitVec 7) : List Use := [⟨1, d, .dst true⟩, ⟨2, a, .src true⟩, ⟨3, b, .src true⟩]
def vusesRwAB (d a b : BitVec 7) : List Use := [⟨1, d, .rw true⟩, ⟨2, a, .src true⟩, ⟨3, b, .src true⟩]

/-- One vector source. -/
def vector1 (f : EType → Rnd → Row → Row) (l : Nat) (d a : BitVec 7) (sc : BitVec 3) (v : View) : Ex View := do
  let us := vusesDA d a
  v.vcheck us []
  .ok (v.vresult us d (f v.etype v.rnd (v.vector v.etype 2 a)) l none sc)

/-- Two vector sources. -/
def vector2 (f : EType → Rnd → Row → Row → Row) (l : Nat) (d a b : BitVec 7) (sc : BitVec 3) (v : View) : Ex View := do
  let us := vusesDAB d a b
  v.vcheck us []
  .ok (v.vresult us d (f v.etype v.rnd (v.vector v.etype 2 a) (v.vector v.etype 3 b)) l none sc)

/-- Two vector sources and D, read under R66. -/
def vector3 (f : EType → Rnd → Row → Row → Row → Row) (l : Nat) (d a b : BitVec 7) (sc : BitVec 3) (v : View) : Ex View := do
  let us := vusesRwAB d a b
  v.vcheck us []
  .ok (v.vresult us d (f v.etype v.rnd (v.vector v.etype 2 a) (v.vector v.etype 3 b) (v.vector v.etype 1 d)) l none sc)

/-- VSET (R154). -/
def vset (d : BitVec 7) (imm : BitVec 14) (sc : BitVec 3) (v : View) : Ex View := do
  let us : List Use := [⟨1, d, .dst false⟩]
  v.check us [] none
  v.keepRoom us
  let t := EType.ofCode (imm.toNat % 16)
  let v1 := v.result d (.scalar (BitVec.ofNat 64 t.count)) 1 {}
  .ok ((v1.modCtx fun c => { c with cr := { c.cr with vtype := imm.extractLsb' 0 6 } }).advance sc)

/-- R156: the element bits shifted by the natural count modulo the width. -/
def elemShl (t : EType) (x c : Nat) : Nat := x * 2 ^ (c % t.width) % 2 ^ t.width
def elemShr (t : EType) (x c : Nat) : Nat := x / 2 ^ (c % t.width)
def elemShra (t : EType) (x c : Nat) : Nat := wrap t.width (toInt true t.width x / (2 ^ (c % t.width) : Nat))

/-- R158: min(max(d, a), b). -/
def elemClamp (t : EType) (r : Rnd) (a b d : Nat) : Nat := elemMin t r (elemMax t r d a) b

/-- The elements a mask leaves active (R57, R151). -/
def activeElems (t : EType) (m : Mask) (a : Row) : List (Option Nat) :=
  (rowElems t.width a).zipIdx.map fun (x, i) => if m.getLsbD i then some x else none

/-- A compare into a mask (R159). -/
def vcompare (cond : Option Int → Bool) (kd kg : BitVec 3) (a b : BitVec 7) (sc : BitVec 3) (v : View) : Ex View := do
  let us : List Use := [⟨2, a, .src true⟩, ⟨3, b, .src true⟩]
  v.vcheck us (govMasks kg)
  let m := v.governing (kIx kg)
  let r := compareMask cond v.etype m (v.vector v.etype 2 a) (v.vector v.etype 3 b)
  .ok (((v.touchSources us).setMask (kIx kd) r 2 (v.capture v.etype us (some m))).advance sc)

/-- VSEL (R160). -/
def vselect (kg : BitVec 3) (a b : BitVec 7) (sc : BitVec 3) (v : View) : Ex View := do
  let us : List Use := [⟨2, a, .src true⟩, ⟨3, b, .src true⟩]
  v.vcheck us (govMasks kg)
  let m := v.governing (kIx kg)
  let t := v.etype
  let y := rowOfElems t.width (((rowElems t.width (v.vector t 2 a)).zip (rowElems t.width (v.vector t 3 b))).zipIdx.map
    fun ((x, y), i) => if m.getLsbD i then x else y)
  .ok (v.vresult us 0 y 2 (some m) sc)

/-! ## Conversions (R161, R162) -/

/-- A vector source in a conversion's source format: a broadcast takes that format's low bits. -/
def View.vectorIn (v : View) (f : Format) (field : Nat) (c : BitVec 7) : Row :=
  match f with
  | .elem t => v.vector t field c
  | .taper _ => match v.s.cur.replay with
    | some r => (r.field (Config.freeWord v.s.steps field) field).asRow 8
    | none => (v.operand (Opnd.of c)).asRow 8

/-- The placement of R161: none when PART breaks its rule. -/
def placed (part ns nd : Nat) (xs : List Nat) : Option (List Nat) :=
  if ns = nd then (if part = 0 then some xs else none)
  else if nd < ns then (if part < ns / nd then some ((xs.drop (part * nd)).take nd) else none)
  else if part < nd / ns then some ((natsFrom 0 (part * ns)).map (fun _ => 0) ++ xs ++ (natsFrom 0 (nd - ns - part * ns)).map fun _ => 0)
  else none

/-- VCVT (R161). -/
def vconvert (d a imm : BitVec 7) (sc : BitVec 3) (v : View) : Ex View := do
  let f := Format.ofCode (imm.toNat % 16)
  let part := imm.toNat / 32
  let (src, dst) : Format × Format := if imm.getLsbD 4 then (.elem v.etype, f) else (f, .elem v.etype)
  let us := vusesDA d a
  let lidBad (u : Use) : Bool := u.field == 2 && Opnd.of u.code == .lid && (match src with | .taper _ => true | .elem _ => false)
  v.checkWith us [] (fun u => some (if u.field = 1 then dst.width else src.width)) lidBad
  v.keepRoom us
  let xs := (rowElems src.width (v.vectorIn src 2 a)).map (convert src dst v.rnd)
  match placed part (2048 / src.width) (2048 / dst.width) xs with
  | none => v.illegalWord
  | some ys =>
    let t := match src with | .elem t => t | .taper _ => .n8
    .ok (((v.touchSources us).result d (.vector (rowOfElems dst.width ys)) 4 (v.capture t us none)).advance sc)

/-- VCVTS (R162): elements divided by their block's scale, or the block scales. -/
def vconvertScaled (d a imm : BitVec 7) (sc : BitVec 3) (v : View) : Ex View := do
  let t : Taper := if imm.toNat % 16 = 9 then .t8 else .t6
  let part := imm.toNat / 32
  let scales := imm.getLsbD 4
  let e := v.etype
  let us : List Use := [⟨1, d, .dst !scales⟩, ⟨2, a, .src true⟩]
  v.checkWith us [] (fun u => if u.field = 1 then (if scales then none else some 8) else some e.width) (fun _ => false)
  v.keepRoom us
  let blocks := (chunks 32 8 (rowElems e.width (v.vector e 2 a))).map fun b => b.map e.decode
  if scales then
    .ok (v.sresult us d (BitVec.ofNat 64 (pack 8 (blocks.map blockScale))) 4 none sc)
  else
    match placed part e.count 256 (blocks.map fun b => b.map (scaledEncode t (blockScale b))).flatten with
    | none => v.illegalWord
    | some ys => .ok (v.vresult us d (rowOfElems 8 ys) 4 none sc)

/-! ## Reductions, scans and counts (R163 to R165) -/

/-- VRED, VREDMX and VREDMN (R163). -/
def vreduce (node : EType → Rnd → Nat → Nat → Nat) (identity : EType → Nat) (kg : BitVec 3) (a : BitVec 7) (sc : BitVec 3) (v : View) : Ex View := do
  let us : List Use := [⟨2, a, .src true⟩]
  v.vcheck us (govMasks kg)
  let m := v.governing (kIx kg)
  let t := v.etype
  let x := reduceTree (node t v.rnd) (identity t) (activeElems t m (v.vector t 2 a))
  .ok (v.sresult us 0 (elemScalar t x) 6 (some m) sc)

/-- A vector pushed from one source under a mask (R164, R169). -/
def vmasked (f : EType → Rnd → List (Option Nat) → List Nat → List Nat) (l : Nat) (perm : Bool) (kg : BitVec 3) (a : BitVec 7) (sc : BitVec 3)
    (v : View) : Ex View := do
  let us : List Use := [⟨2, a, .src true⟩]
  v.vcheck us (govMasks kg)
  waitUntil (!perm || (match v.tile.permuteAt with | some p => decide (p + 4 ≤ v.now) | none => true))
  let m := v.governing (kIx kg)
  let t := v.etype
  let x := v.vector t 2 a
  let v1 := if perm then v.modTile fun t => { t with permuteAt := some v.now } else v
  .ok (v1.vresult us 0 (rowOfElems t.width (f t v.rnd (activeElems t m x) (rowElems t.width x))) l (some m) sc)

/-- R169: the active elements packed from position 0, zeros after. -/
def compress (n : Nat) (xs : List (Option Nat)) : List Nat :=
  let ys := xs.filterMap id
  ys ++ (natsFrom 0 (n - ys.length)).map fun _ => 0

/-- R169: the elements of `src` spread over the active positions in order. -/
def expand : List (Option Nat) → List Nat → List Nat
  | [], _ => []
  | none :: ms, src => 0 :: expand ms src
  | some _ :: ms, src => src.headD 0 :: expand ms src.tail

/-- R165: the count of active positions below each position. -/
def iota (t : EType) (m : Mask) : Nat → Nat → Nat → List Nat
  | 0, _, _ => []
  | n + 1, i, c => elemOfNat t c :: iota t m n (i + 1) (if m.getLsbD i then c + 1 else c)

/-- VIOTA (R165). -/
def viota (kg : BitVec 3) (sc : BitVec 3) (v : View) : Ex View := do
  v.vcheck [] (govMasks kg)
  let m := v.governing (kIx kg)
  let t := v.etype
  .ok (v.vresult [] 0 (rowOfElems t.width (iota t m t.count 0 0)) 2 (some m) sc)

/-! ## Broadcast, extract and insert (R166) -/

def elemAt (t : EType) (r : Row) (k : Nat) : Nat := (rowElems t.width r).getD k 0

/-- VBCAST. -/
def vbroadcast (d a b : BitVec 7) (sc : BitVec 3) (v : View) : Ex View := do
  let us : List Use := [⟨1, d, .dst true⟩, ⟨2, a, .src true⟩, ⟨3, b, .src false⟩]
  v.vcheck us []
  let t := v.etype
  .ok (v.vresult us d (broadcast t.width (elemAt t (v.vector t 2 a) (v.scalar 3 b).toNat)) 2 none sc)

/-- VEXT. -/
def vextract (d a b : BitVec 7) (sc : BitVec 3) (v : View) : Ex View := do
  let us : List Use := [⟨1, d, .dst false⟩, ⟨2, a, .src true⟩, ⟨3, b, .src false⟩]
  v.vcheck us []
  let t := v.etype
  let k := (v.scalar 3 b).toNat
  .ok (v.sresult us d (if k < t.count then elemScalar t (elemAt t (v.vector t 2 a) k) else 0) 2 none sc)

/-- VINS. -/
def vinsert (d a b : BitVec 7) (sc : BitVec 3) (v : View) : Ex View := do
  let us : List Use := [⟨1, d, .rw true⟩, ⟨2, a, .src false⟩, ⟨3, b, .src false⟩]
  v.vcheck us []
  let t := v.etype
  let k := (v.scalar 3 b).toNat
  let y := rowOfElems t.width ((rowElems t.width (v.vector t 1 d)).set k (v.scalar 2 a).toNat)
  .ok (v.vresult us d (if k < t.count then y else v.vector t 1 d) 2 none sc)

/-! ## Permutes (R167 to R169) -/

/-- VPERM: indices are natural integers of the element width, whatever the ETYPE. -/
def vpermute (d a b : BitVec 7) (sc : BitVec 3) (v : View) : Ex View := do
  let us := vusesDAB d a b
  v.vcheck us []
  waitUntil (match v.tile.permuteAt with | some p => decide (p + 4 ≤ v.now) | none => true)
  let t := v.etype
  let xs := rowElems t.width (v.vector t 2 a)
  let y := map1 t (fun i => xs.getD i 0) (v.vector t 3 b)
  .ok ((v.modTile fun t => { t with permuteAt := some v.now }).vresult us d y 4 none sc)

/-- The pattern of VSHUF (R168): the source position of each element, none for a zero. -/
def shufflePos (kind p n i : Nat) : Option Nat :=
  match kind with
  | 0 => some (i ^^^ 2 ^ p)
  | 1 => some ((i + 2 ^ p) % n)
  | 2 => if i + 2 ^ p < n then some (i + 2 ^ p) else none
  | 3 => if 2 ^ p ≤ i then some (i - 2 ^ p) else none
  | 4 => some (n - 1 - i)
  | _ => if p = 0 then some (if i < n / 2 then 2 * i else 2 * (i - n / 2) + 1)
         else some (if i % 2 = 0 then i / 2 else i / 2 + n / 2)

/-- VSHUF (R168). -/
def vshuffle (d a imm : BitVec 7) (sc : BitVec 3) (v : View) : Ex View := do
  let us := vusesDA d a
  v.vcheck us []
  let t := v.etype
  let kind := imm.toNat / 16
  let p := imm.toNat % 16
  if kind ≤ 3 && decide (Nat.log2 t.count ≤ p) then v.illegalWord
  let xs := rowElems t.width (v.vector t 2 a)
  let y := (natsFrom 0 t.count).map fun i => match shufflePos kind p t.count i with | some j => xs.getD j 0 | none => 0
  .ok (v.vresult us d (rowOfElems t.width y) 2 none sc)

/-! ## Special functions and division (R170, R171) -/

/-- A special function of the floating types (R170). -/
def vspecial (f : FVal → FVal) (d a : BitVec 7) (sc : BitVec 3) (v : View) : Ex View := do
  let us := vusesDA d a
  v.vcheck us []
  match v.etype.fmt? with
  | none => v.illegalWord
  | some g => .ok (v.vresult us d (map1 v.etype (fun x => g.encode v.rnd (f (g.decode x))) (v.vector v.etype 2 a)) 8 none sc)

/-- VDIV (R171): interlocked, one at a time in a berth. -/
def vdivide (d a b : BitVec 7) (sc : BitVec 3) (v : View) : Ex View := do
  let us := vusesDAB d a b
  v.vcheck us []
  waitUntil (decide (v.ctx.vdivFree ≤ v.now))
  let t := v.etype
  let l := t.width + 8
  let y := map2 t (elemDiv t v.rnd) (v.vector t 2 a) (v.vector t 3 b)
  .ok ((v.modCtx fun c => { c with vdivFree := v.now + l }).vresult us d y l none sc true)

/-! ## Mask instructions (R172, R173) -/

/-- A mask of one or two mask registers. -/
def maskOp (f : Mask → Mask → Mask) (kd ks : BitVec 3) (two : Bool) (sc : BitVec 3) (v : View) : Ex View := do
  v.check [] (if two then [kIx kd, kIx ks] else [kIx ks]) none
  let m := v.maskReg (kIx ks)
  .ok ((v.setMask (kIx kd) (f (v.maskReg (kIx kd)) m) 1 { mask := some m }).advance sc)

/-- KSET (R172). -/
def kset (kd : BitVec 3) (a : BitVec 7) (sc : BitVec 3) (v : View) : Ex View := do
  let us : List Use := [⟨2, a, .src false⟩]
  v.check us [] none
  let n := (v.scalar 2 a).toNat
  let m : Mask := BitVec.ofNat 256 (2 ^ min n 256 - 1)
  .ok (((v.touchSources us).setMask (kIx kd) m 1 (v.capture v.etype us none)).advance sc)

/-- KPOP and KFIRST (R173) over the positions below the element count. -/
def maskCount (f : Nat → Nat → Nat) (ks : BitVec 3) (sc : BitVec 3) (v : View) : Ex View := do
  v.check [] [kIx ks] none
  let m := v.maskReg (kIx ks)
  let n := v.etype.count
  .ok ((v.result 0 (.scalar (BitVec.ofNat 64 (f n (m.toNat % 2 ^ n)))) 1 { mask := some m }).advance sc)

/-! ## The instructions -/

/-- VSET (R154). -/
def execVset (d : BitVec 7) (imm : BitVec 14) (sc : BitVec 3) (s : State) : Out := runView (vset d imm sc) s

/-- VADD (R155). -/
def execVadd (d a b : BitVec 7) (sc : BitVec 3) (s : State) : Out := runView (vector2 (fun t r => map2 t (elemAdd t r)) 2 d a b sc) s

/-- VSUB (R155). -/
def execVsub (d a b : BitVec 7) (sc : BitVec 3) (s : State) : Out := runView (vector2 (fun t r => map2 t (elemSub t r)) 2 d a b sc) s

/-- VMUL (R155). -/
def execVmul (d a b : BitVec 7) (sc : BitVec 3) (s : State) : Out := runView (vector2 (fun t r => map2 t (elemMul t r)) 4 d a b sc) s

/-- VMIN (R155). -/
def execVmin (d a b : BitVec 7) (sc : BitVec 3) (s : State) : Out := runView (vector2 (fun t r => map2 t (elemMin t r)) 2 d a b sc) s

/-- VMAX (R155). -/
def execVmax (d a b : BitVec 7) (sc : BitVec 3) (s : State) : Out := runView (vector2 (fun t r => map2 t (elemMax t r)) 2 d a b sc) s

/-- VAND (R155). -/
def execVand (d a b : BitVec 7) (sc : BitVec 3) (s : State) : Out := runView (vector2 (fun _ _ a b => a &&& b) 2 d a b sc) s

/-- VOR (R155). -/
def execVor (d a b : BitVec 7) (sc : BitVec 3) (s : State) : Out := runView (vector2 (fun _ _ a b => a ||| b) 2 d a b sc) s

/-- VXOR (R155). -/
def execVxor (d a b : BitVec 7) (sc : BitVec 3) (s : State) : Out := runView (vector2 (fun _ _ a b => a ^^^ b) 2 d a b sc) s

/-- VSHL (R156). -/
def execVshl (d a b : BitVec 7) (sc : BitVec 3) (s : State) : Out := runView (vector2 (fun t _ => map2 t (elemShl t)) 2 d a b sc) s

/-- VSHR (R156). -/
def execVshr (d a b : BitVec 7) (sc : BitVec 3) (s : State) : Out := runView (vector2 (fun t _ => map2 t (elemShr t)) 2 d a b sc) s

/-- VSHRA (R156). -/
def execVshra (d a b : BitVec 7) (sc : BitVec 3) (s : State) : Out := runView (vector2 (fun t _ => map2 t (elemShra t)) 2 d a b sc) s

/-- VMAD (R157). -/
def execVmad (d a b : BitVec 7) (sc : BitVec 3) (s : State) : Out := runView (vector3 (fun t r => map3 t (elemMad t r)) 4 d a b sc) s

/-- VMSB (R157). -/
def execVmsb (d a b : BitVec 7) (sc : BitVec 3) (s : State) : Out := runView (vector3 (fun t r => map3 t (elemMsb t r)) 4 d a b sc) s

/-- VNMAD (R157). -/
def execVnmad (d a b : BitVec 7) (sc : BitVec 3) (s : State) : Out := runView (vector3 (fun t r => map3 t (elemNmad t r)) 4 d a b sc) s

/-- VCLAMP (R158). -/
def execVclamp (d a b : BitVec 7) (sc : BitVec 3) (s : State) : Out := runView (vector3 (fun t r => map3 t (elemClamp t r)) 2 d a b sc) s

/-- VABS (R155). -/
def execVabs (d a : BitVec 7) (sc : BitVec 3) (s : State) : Out := runView (vector1 (fun t r => map1 t (elemAbs t r)) 2 d a sc) s

/-- VNEG (R155). -/
def execVneg (d a : BitVec 7) (sc : BitVec 3) (s : State) : Out := runView (vector1 (fun t r => map1 t (elemNeg t r)) 2 d a sc) s

/-- VNOT (R155). -/
def execVnot (d a : BitVec 7) (sc : BitVec 3) (s : State) : Out := runView (vector1 (fun _ _ a => ~~~a) 2 d a sc) s

/-- VCMPEQ (R159). -/
def execVcmpeq (kd kg : BitVec 3) (a b : BitVec 7) (sc : BitVec 3) (s : State) : Out := runView (vcompare (fun o => o == some 0) kd kg a b sc) s

/-- VCMPNE (R159). -/
def execVcmpne (kd kg : BitVec 3) (a b : BitVec 7) (sc : BitVec 3) (s : State) : Out := runView (vcompare (fun o => o != some 0) kd kg a b sc) s

/-- VCMPLT (R159). -/
def execVcmplt (kd kg : BitVec 3) (a b : BitVec 7) (sc : BitVec 3) (s : State) : Out := runView (vcompare (fun o => o == some (-1)) kd kg a b sc) s

/-- VCMPLE (R159). -/
def execVcmple (kd kg : BitVec 3) (a b : BitVec 7) (sc : BitVec 3) (s : State) : Out := runView (vcompare (fun o => o == some (-1) || o == some 0) kd kg a b sc) s

/-- VSEL (R160). -/
def execVsel (fn : BitVec 3) (a b : BitVec 7) (sc : BitVec 3) (s : State) : Out := runView (vselect fn a b sc) s

/-- VCVT (R161). -/
def execVcvt (d a imm : BitVec 7) (sc : BitVec 3) (s : State) : Out := runView (vconvert d a imm sc) s

/-- VCVTS (R162). -/
def execVcvts (d a imm : BitVec 7) (sc : BitVec 3) (s : State) : Out := runView (vconvertScaled d a imm sc) s

/-- VRED (R57, R163). -/
def execVred (fn : BitVec 3) (a : BitVec 7) (sc : BitVec 3) (s : State) : Out := runView (vreduce elemAdd (fun _ => 0) fn a sc) s

/-- VREDMX (R57, R163). -/
def execVredmx (fn : BitVec 3) (a : BitVec 7) (sc : BitVec 3) (s : State) : Out := runView (vreduce elemMax EType.lowest fn a sc) s

/-- VREDMN (R57, R163). -/
def execVredmn (fn : BitVec 3) (a : BitVec 7) (sc : BitVec 3) (s : State) : Out := runView (vreduce elemMin EType.highest fn a sc) s

/-- VSCAN (R164). -/
def execVscan (fn : BitVec 3) (a : BitVec 7) (sc : BitVec 3) (s : State) : Out :=
  runView (vmasked (fun t r ms _ => scanFrom (elemAdd t r) none ms) 6 false fn a sc) s

/-- VIOTA (R165). -/
def execViota (fn : BitVec 3) (sc : BitVec 3) (s : State) : Out := runView (viota fn sc) s

/-- VCMPR (R169). -/
def execVcmpr (fn : BitVec 3) (a : BitVec 7) (sc : BitVec 3) (s : State) : Out :=
  runView (vmasked (fun t _ ms _ => compress t.count ms) 4 true fn a sc) s

/-- VEXPD (R169). -/
def execVexpd (fn : BitVec 3) (a : BitVec 7) (sc : BitVec 3) (s : State) : Out :=
  runView (vmasked (fun _ _ ms xs => expand ms xs) 4 true fn a sc) s

/-- VBCAST (R166). -/
def execVbcast (d a b : BitVec 7) (sc : BitVec 3) (s : State) : Out := runView (vbroadcast d a b sc) s

/-- VEXT (R166). -/
def execVext (d a b : BitVec 7) (sc : BitVec 3) (s : State) : Out := runView (vextract d a b sc) s

/-- VINS (R166). -/
def execVins (d a b : BitVec 7) (sc : BitVec 3) (s : State) : Out := runView (vinsert d a b sc) s

/-- VPERM (R167). -/
def execVperm (d a b : BitVec 7) (sc : BitVec 3) (s : State) : Out := runView (vpermute d a b sc) s

/-- VSHUF (R168). -/
def execVshuf (d a imm : BitVec 7) (sc : BitVec 3) (s : State) : Out := runView (vshuffle d a imm sc) s

/-- VDIV (R171). -/
def execVdiv (d a b : BitVec 7) (sc : BitVec 3) (s : State) : Out := runView (vdivide d a b sc) s

/-- KAND (R172). -/
def execKand (kd fn : BitVec 3) (sc : BitVec 3) (s : State) : Out := runView (maskOp (fun x y => x &&& y) kd fn true sc) s

/-- KOR (R172). -/
def execKor (kd fn : BitVec 3) (sc : BitVec 3) (s : State) : Out := runView (maskOp (fun x y => x ||| y) kd fn true sc) s

/-- KXOR (R172). -/
def execKxor (kd fn : BitVec 3) (sc : BitVec 3) (s : State) : Out := runView (maskOp (fun x y => x ^^^ y) kd fn true sc) s

/-- KNOT (R172). -/
def execKnot (kd fn : BitVec 3) (sc : BitVec 3) (s : State) : Out := runView (maskOp (fun _ y => ~~~y) kd fn false sc) s

/-- KSET (R172). -/
def execKset (kd : BitVec 3) (a : BitVec 7) (sc : BitVec 3) (s : State) : Out := runView (kset kd a sc) s

/-- KPOP (R173). -/
def execKpop (fn : BitVec 3) (sc : BitVec 3) (s : State) : Out := runView (maskCount (fun n m => popFrom m n) fn sc) s

/-- KFIRST (R173). -/
def execKfirst (fn : BitVec 3) (sc : BitVec 3) (s : State) : Out := runView (maskCount (fun n m => ctzFrom m n 0) fn sc) s

/-- VRCP (R170). -/
def execVrcp (d a : BitVec 7) (sc : BitVec 3) (s : State) : Out := runView (vspecial FVal.rcp d a sc) s

/-- VRSQ (R170). -/
def execVrsq (d a : BitVec 7) (sc : BitVec 3) (s : State) : Out := runView (vspecial FVal.rsqrt d a sc) s

/-- VSQRT (R170). -/
def execVsqrt (d a : BitVec 7) (sc : BitVec 3) (s : State) : Out := runView (vspecial FVal.sqrt d a sc) s

/-- VEXP2 (R170). -/
def execVexp2 (d a : BitVec 7) (sc : BitVec 3) (s : State) : Out := runView (vspecial FVal.exp2 d a sc) s

/-- VLOG2 (R170). -/
def execVlog2 (d a : BitVec 7) (sc : BitVec 3) (s : State) : Out := runView (vspecial FVal.log2 d a sc) s

/-- VSIN (R170). -/
def execVsin (d a : BitVec 7) (sc : BitVec 3) (s : State) : Out := runView (vspecial FVal.sinPi d a sc) s

/-- VCOS (R170). -/
def execVcos (d a : BitVec 7) (sc : BitVec 3) (s : State) : Out := runView (vspecial FVal.cosPi d a sc) s

/-- VTANH (R170). -/
def execVtanh (d a : BitVec 7) (sc : BitVec 3) (s : State) : Out := runView (vspecial FVal.tanh d a sc) s

end Sys2Proof.Machine
end

