-- ==== Sys2Proof/Machine/Dispatch.lean ====
section
/-!
DEFINITION. One arm for every step of the device: a direct call of its meaning.
-/
namespace Sys2Proof.Machine

/-- The meaning of every instruction and every event. -/
def exec (i : Instr) (s : State) : Host.Outcome State Fault Refusal :=
  match i with
  | .add d a b sc => Sys2Proof.Machine.execAdd d a b sc s
  | .sub d a b sc => Sys2Proof.Machine.execSub d a b sc s
  | .addi d a imm sc => Sys2Proof.Machine.execAddi d a imm sc s
  | .mul d a b sc => Sys2Proof.Machine.execMul d a b sc s
  | .mulh d a b sc => Sys2Proof.Machine.execMulh d a b sc s
  | .mulhn d a b sc => Sys2Proof.Machine.execMulhn d a b sc s
  | .div d a b sc => Sys2Proof.Machine.execDiv d a b sc s
  | .divn d a b sc => Sys2Proof.Machine.execDivn d a b sc s
  | .rem d a b sc => Sys2Proof.Machine.execRem d a b sc s
  | .remn d a b sc => Sys2Proof.Machine.execRemn d a b sc s
  | .and d a b sc => Sys2Proof.Machine.execAnd d a b sc s
  | .or d a b sc => Sys2Proof.Machine.execOr d a b sc s
  | .xor d a b sc => Sys2Proof.Machine.execXor d a b sc s
  | .andn d a b sc => Sys2Proof.Machine.execAndn d a b sc s
  | .andi d a imm sc => Sys2Proof.Machine.execAndi d a imm sc s
  | .ori d a imm sc => Sys2Proof.Machine.execOri d a imm sc s
  | .xori d a imm sc => Sys2Proof.Machine.execXori d a imm sc s
  | .shl d a b sc => Sys2Proof.Machine.execShl d a b sc s
  | .shr d a b sc => Sys2Proof.Machine.execShr d a b sc s
  | .shra d a b sc => Sys2Proof.Machine.execShra d a b sc s
  | .shli d a imm sc => Sys2Proof.Machine.execShli d a imm sc s
  | .shri d a imm sc => Sys2Proof.Machine.execShri d a imm sc s
  | .shrai d a imm sc => Sys2Proof.Machine.execShrai d a imm sc s
  | .rotr d a b sc => Sys2Proof.Machine.execRotr d a b sc s
  | .rotri d a imm sc => Sys2Proof.Machine.execRotri d a imm sc s
  | .clz d a sc => Sys2Proof.Machine.execClz d a sc s
  | .ctz d a sc => Sys2Proof.Machine.execCtz d a sc s
  | .popc d a sc => Sys2Proof.Machine.execPopc d a sc s
  | .min d a b sc => Sys2Proof.Machine.execMin d a b sc s
  | .max d a b sc => Sys2Proof.Machine.execMax d a b sc s
  | .minn d a b sc => Sys2Proof.Machine.execMinn d a b sc s
  | .maxn d a b sc => Sys2Proof.Machine.execMaxn d a b sc s
  | .slt d a b sc => Sys2Proof.Machine.execSlt d a b sc s
  | .sltn d a b sc => Sys2Proof.Machine.execSltn d a b sc s
  | .seq d a b sc => Sys2Proof.Machine.execSeq d a b sc s
  | .slti d a imm sc => Sys2Proof.Machine.execSlti d a imm sc s
  | .sel d a b sc => Sys2Proof.Machine.execSel d a b sc s
  | .sext d a imm sc => Sys2Proof.Machine.execSext d a imm sc s
  | .zext d a imm sc => Sys2Proof.Machine.execZext d a imm sc s
  | .bfx d a b sc => Sys2Proof.Machine.execBfx d a b sc s
  | .bfi d a b sc => Sys2Proof.Machine.execBfi d a b sc s
  | .ldi d imm sc => Sys2Proof.Machine.execLdi d imm sc s
  | .ldhi d imm sc => Sys2Proof.Machine.execLdhi d imm sc s
  | .lea d a imm sc => Sys2Proof.Machine.execLea d a imm sc s
  | .mov d a sc => Sys2Proof.Machine.execMov d a sc s
  | .beq a off sc => Sys2Proof.Machine.execBeq a off sc s
  | .bne a off sc => Sys2Proof.Machine.execBne a off sc s
  | .blt a off sc => Sys2Proof.Machine.execBlt a off sc s
  | .bge a off sc => Sys2Proof.Machine.execBge a off sc s
  | .bltn a off sc => Sys2Proof.Machine.execBltn a off sc s
  | .bgen a off sc => Sys2Proof.Machine.execBgen a off sc s
  | .bz a off sc => Sys2Proof.Machine.execBz a off sc s
  | .bnz a off sc => Sys2Proof.Machine.execBnz a off sc s
  | .j off sc => Sys2Proof.Machine.execJ off sc s
  | .jl off sc => Sys2Proof.Machine.execJl off sc s
  | .jr a sc => Sys2Proof.Machine.execJr a sc s
  | .jlr d a sc => Sys2Proof.Machine.execJlr d a sc s
  | .loop a off sc => Sys2Proof.Machine.execLoop a off sc s
  | .yield sc => Sys2Proof.Machine.execYield sc s
  | .nop sc => Sys2Proof.Machine.execNop sc s
  | .vset d imm sc => Sys2Proof.Machine.execVset d imm sc s
  | .vadd d a b sc => Sys2Proof.Machine.execVadd d a b sc s
  | .vsub d a b sc => Sys2Proof.Machine.execVsub d a b sc s
  | .vmul d a b sc => Sys2Proof.Machine.execVmul d a b sc s
  | .vmad d a b sc => Sys2Proof.Machine.execVmad d a b sc s
  | .vmsb d a b sc => Sys2Proof.Machine.execVmsb d a b sc s
  | .vnmad d a b sc => Sys2Proof.Machine.execVnmad d a b sc s
  | .vmin d a b sc => Sys2Proof.Machine.execVmin d a b sc s
  | .vmax d a b sc => Sys2Proof.Machine.execVmax d a b sc s
  | .vabs d a sc => Sys2Proof.Machine.execVabs d a sc s
  | .vneg d a sc => Sys2Proof.Machine.execVneg d a sc s
  | .vand d a b sc => Sys2Proof.Machine.execVand d a b sc s
  | .vor d a b sc => Sys2Proof.Machine.execVor d a b sc s
  | .vxor d a b sc => Sys2Proof.Machine.execVxor d a b sc s
  | .vnot d a sc => Sys2Proof.Machine.execVnot d a sc s
  | .vshl d a b sc => Sys2Proof.Machine.execVshl d a b sc s
  | .vshr d a b sc => Sys2Proof.Machine.execVshr d a b sc s
  | .vshra d a b sc => Sys2Proof.Machine.execVshra d a b sc s
  | .vcmpeq kd kg a b sc => Sys2Proof.Machine.execVcmpeq kd kg a b sc s
  | .vcmpne kd kg a b sc => Sys2Proof.Machine.execVcmpne kd kg a b sc s
  | .vcmplt kd kg a b sc => Sys2Proof.Machine.execVcmplt kd kg a b sc s
  | .vcmple kd kg a b sc => Sys2Proof.Machine.execVcmple kd kg a b sc s
  | .vsel fn a b sc => Sys2Proof.Machine.execVsel fn a b sc s
  | .vcvt d a imm sc => Sys2Proof.Machine.execVcvt d a imm sc s
  | .vcvts d a imm sc => Sys2Proof.Machine.execVcvts d a imm sc s
  | .vclamp d a b sc => Sys2Proof.Machine.execVclamp d a b sc s
  | .vred fn a sc => Sys2Proof.Machine.execVred fn a sc s
  | .vredmx fn a sc => Sys2Proof.Machine.execVredmx fn a sc s
  | .vredmn fn a sc => Sys2Proof.Machine.execVredmn fn a sc s
  | .vscan fn a sc => Sys2Proof.Machine.execVscan fn a sc s
  | .vbcast d a b sc => Sys2Proof.Machine.execVbcast d a b sc s
  | .vext d a b sc => Sys2Proof.Machine.execVext d a b sc s
  | .vins d a b sc => Sys2Proof.Machine.execVins d a b sc s
  | .viota fn sc => Sys2Proof.Machine.execViota fn sc s
  | .vperm d a b sc => Sys2Proof.Machine.execVperm d a b sc s
  | .vshuf d a imm sc => Sys2Proof.Machine.execVshuf d a imm sc s
  | .vcmpr fn a sc => Sys2Proof.Machine.execVcmpr fn a sc s
  | .vexpd fn a sc => Sys2Proof.Machine.execVexpd fn a sc s
  | .vrcp d a sc => Sys2Proof.Machine.execVrcp d a sc s
  | .vrsq d a sc => Sys2Proof.Machine.execVrsq d a sc s
  | .vsqrt d a sc => Sys2Proof.Machine.execVsqrt d a sc s
  | .vdiv d a b sc => Sys2Proof.Machine.execVdiv d a b sc s
  | .vexp2 d a sc => Sys2Proof.Machine.execVexp2 d a sc s
  | .vlog2 d a sc => Sys2Proof.Machine.execVlog2 d a sc s
  | .vsin d a sc => Sys2Proof.Machine.execVsin d a sc s
  | .vcos d a sc => Sys2Proof.Machine.execVcos d a sc s
  | .vtanh d a sc => Sys2Proof.Machine.execVtanh d a sc s
  | .kand kd fn sc => Sys2Proof.Machine.execKand kd fn sc s
  | .kor kd fn sc => Sys2Proof.Machine.execKor kd fn sc s
  | .kxor kd fn sc => Sys2Proof.Machine.execKxor kd fn sc s
  | .knot kd fn sc => Sys2Proof.Machine.execKnot kd fn sc s
  | .kpop fn sc => Sys2Proof.Machine.execKpop fn sc s
  | .kfirst fn sc => Sys2Proof.Machine.execKfirst fn sc s
  | .kset kd a sc => Sys2Proof.Machine.execKset kd a sc s
  | .ldb d a imm sc => Sys2Proof.Machine.execLdb d a imm sc s
  | .ldbn d a imm sc => Sys2Proof.Machine.execLdbn d a imm sc s
  | .ldh d a imm sc => Sys2Proof.Machine.execLdh d a imm sc s
  | .ldhn d a imm sc => Sys2Proof.Machine.execLdhn d a imm sc s
  | .ldw d a imm sc => Sys2Proof.Machine.execLdw d a imm sc s
  | .ldwn d a imm sc => Sys2Proof.Machine.execLdwn d a imm sc s
  | .ldd d a imm sc => Sys2Proof.Machine.execLdd d a imm sc s
  | .stb d a imm sc => Sys2Proof.Machine.execStb d a imm sc s
  | .sth d a imm sc => Sys2Proof.Machine.execSth d a imm sc s
  | .stw d a imm sc => Sys2Proof.Machine.execStw d a imm sc s
  | .std d a imm sc => Sys2Proof.Machine.execStd d a imm sc s
  | .vld d a imm sc => Sys2Proof.Machine.execVld d a imm sc s
  | .vst d a imm sc => Sys2Proof.Machine.execVst d a imm sc s
  | .vlds d a b sc => Sys2Proof.Machine.execVlds d a b sc s
  | .vsts d a b sc => Sys2Proof.Machine.execVsts d a b sc s
  | .vgth d a b sc => Sys2Proof.Machine.execVgth d a b sc s
  | .vsct d a b sc => Sys2Proof.Machine.execVsct d a b sc s
  | .lda d a imm sc => Sys2Proof.Machine.execLda d a imm sc s
  | .stl d a imm sc => Sys2Proof.Machine.execStl d a imm sc s
  | .ldp d a imm sc => Sys2Proof.Machine.execLdp d a imm sc s
  | .stp d a imm sc => Sys2Proof.Machine.execStp d a imm sc s
  | .get d a b sc => Sys2Proof.Machine.execGet d a b sc s
  | .put d a b sc => Sys2Proof.Machine.execPut d a b sc s
  | .sptest d a sc => Sys2Proof.Machine.execSptest d a sc s
  | .spcast d a imm sc => Sys2Proof.Machine.execSpcast d a imm sc s
  | .aadd d a b sc => Sys2Proof.Machine.execAadd d a b sc s
  | .aand d a b sc => Sys2Proof.Machine.execAand d a b sc s
  | .aor d a b sc => Sys2Proof.Machine.execAor d a b sc s
  | .axor d a b sc => Sys2Proof.Machine.execAxor d a b sc s
  | .amin d a b sc => Sys2Proof.Machine.execAmin d a b sc s
  | .amax d a b sc => Sys2Proof.Machine.execAmax d a b sc s
  | .aminn d a b sc => Sys2Proof.Machine.execAminn d a b sc s
  | .amaxn d a b sc => Sys2Proof.Machine.execAmaxn d a b sc s
  | .aswp d a b sc => Sys2Proof.Machine.execAswp d a b sc s
  | .acas d a b sc => Sys2Proof.Machine.execAcas d a b sc s
  | .fence eng fn sc => Sys2Proof.Machine.execFence eng fn sc s
  | .barinit a b sc => Sys2Proof.Machine.execBarinit a b sc s
  | .bararr a b sc => Sys2Proof.Machine.execBararr a b sc s
  | .barexp a b sc => Sys2Proof.Machine.execBarexp a b sc s
  | .bartstObserve a sc => Sys2Proof.Machine.execBartstObserve a sc s
  | .bartstCount a sc => Sys2Proof.Machine.execBartstCount a sc s
  | .bartstExpect a sc => Sys2Proof.Machine.execBartstExpect a sc s
  | .send d a b sc => Sys2Proof.Machine.execSend d a b sc s
  | .sendv d a b sc => Sys2Proof.Machine.execSendv d a b sc s
  | .sendi d a b sc => Sys2Proof.Machine.execSendi d a b sc s
  | .amsg d a b sc => Sys2Proof.Machine.execAmsg d a b sc s
  | .split a b sc => Sys2Proof.Machine.execSplit a b sc s
  | .tail sc => Sys2Proof.Machine.execTail sc s
  | .spawn a b sc => Sys2Proof.Machine.execSpawn a b sc s
  | .launch d a sc => Sys2Proof.Machine.execLaunch d a sc s
  | .prio a imm sc => Sys2Proof.Machine.execPrio a imm sc s
  | .cpush eng a sc => Sys2Proof.Machine.execCpush eng a sc s
  | .ecfg eng fn a sc => Sys2Proof.Machine.execEcfg eng fn a sc s
  | .eopCopy a b sc => Sys2Proof.Machine.execEopCopy a b sc s
  | .eopSlotFill a b sc => Sys2Proof.Machine.execEopSlotFill a b sc s
  | .eopAccumulatingStore a b sc => Sys2Proof.Machine.execEopAccumulatingStore a b sc s
  | .eopMatrixTileOperation a b sc => Sys2Proof.Machine.execEopMatrixTileOperation a b sc s
  | .eopAccumulatorDrain a b sc => Sys2Proof.Machine.execEopAccumulatorDrain a b sc s
  | .eopCollectiveFold a b sc => Sys2Proof.Machine.execEopCollectiveFold a b sc s
  | .eopNearFieldEvaluate a b sc => Sys2Proof.Machine.execEopNearFieldEvaluate a b sc s
  | .eopConsolidate a b sc => Sys2Proof.Machine.execEopConsolidate a b sc s
  | .eopInsertArrangement a b sc => Sys2Proof.Machine.execEopInsertArrangement a b sc s
  | .ringi eng a b sc => Sys2Proof.Machine.execRingi eng a b sc s
  | .ringp a b sc => Sys2Proof.Machine.execRingp a b sc s
  | .ringc a b sc => Sys2Proof.Machine.execRingc a b sc s
  | .ringq fn a sc => Sys2Proof.Machine.execRingq fn a sc s
  | .coll fn a b sc => Sys2Proof.Machine.execColl fn a b sc s
  | .sclaim a sc => Sys2Proof.Machine.execSclaim a sc s
  | .srels a sc => Sys2Proof.Machine.execSrels a sc s
  | .sfill a b sc => Sys2Proof.Machine.execSfill a b sc s
  | .mma tl a b sc => Sys2Proof.Machine.execMma tl a b sc s
  | .mmaz tl a b sc => Sys2Proof.Machine.execMmaz tl a b sc s
  | .maccAddAt1ToAt0 sc => Sys2Proof.Machine.execMaccAddAt1ToAt0 sc s
  | .maccAddAt0ToAt1 sc => Sys2Proof.Machine.execMaccAddAt0ToAt1 sc s
  | .maccZeroAt0 sc => Sys2Proof.Machine.execMaccZeroAt0 sc s
  | .maccZeroAt1 sc => Sys2Proof.Machine.execMaccZeroAt1 sc s
  | .maccExchange sc => Sys2Proof.Machine.execMaccExchange sc s
  | .mstatClaimed sc => Sys2Proof.Machine.execMstatClaimed sc s
  | .mstatInFlight sc => Sys2Proof.Machine.execMstatInFlight sc s
  | .rqt fn a b sc => Sys2Proof.Machine.execRqt fn a b sc s
  | .mcap a b sc => Sys2Proof.Machine.execMcap a b sc s
  | .mrem a b sc => Sys2Proof.Machine.execMrem a b sc s
  | .xclr eng sc => Sys2Proof.Machine.execXclr eng sc s
  | .xform eng a b sc => Sys2Proof.Machine.execXform eng a b sc s
  | .xshift eng a sc => Sys2Proof.Machine.execXshift eng a sc s
  | .xconv eng a b sc => Sys2Proof.Machine.execXconv eng a b sc s
  | .xlshift eng a sc => Sys2Proof.Machine.execXlshift eng a sc s
  | .xeval eng a b sc => Sys2Proof.Machine.execXeval eng a b sc s
  | .xmeval eng a b sc => Sys2Proof.Machine.execXmeval eng a b sc s
  | .xadm a sc => Sys2Proof.Machine.execXadm a sc s
  | .xnear a b sc => Sys2Proof.Machine.execXnear a b sc s
  | .xdirect a b sc => Sys2Proof.Machine.execXdirect a b sc s
  | .xld eng a sc => Sys2Proof.Machine.execXld eng a sc s
  | .xst eng a sc => Sys2Proof.Machine.execXst eng a sc s
  | .demit a b sc => Sys2Proof.Machine.execDemit a b sc s
  | .dcons fn a b sc => Sys2Proof.Machine.execDcons fn a b sc s
  | .dins a b sc => Sys2Proof.Machine.execDins a b sc s
  | .dlook a b sc => Sys2Proof.Machine.execDlook a b sc s
  | .dfront a sc => Sys2Proof.Machine.execDfront a sc s
  | .dcomp a b sc => Sys2Proof.Machine.execDcomp a b sc s
  | .crd d number sc => Sys2Proof.Machine.execCrd d number sc s
  | .cwr d number sc => Sys2Proof.Machine.execCwr d number sc s
  | .trap imm sc => Sys2Proof.Machine.execTrap imm sc s
  | .tret sc => Sys2Proof.Machine.execTret sc s
  | .brk imm sc => Sys2Proof.Machine.execBrk imm sc s
  | .dictld a sc => Sys2Proof.Machine.execDictld a sc s
  | .dictionaryParcel index => Sys2Proof.Machine.execDictionaryParcel index s
  | .curbWrite tile value => Sys2Proof.Machine.execCurbWrite tile value s
  | .curbstWrite tile value => Sys2Proof.Machine.execCurbstWrite tile value s
  | .issuepolWrite tile value => Sys2Proof.Machine.execIssuepolWrite tile value s
  | .bkconfWrite core value => Sys2Proof.Machine.execBkconfWrite core value s
  | .controlRegisterWrite tile berth number value => Sys2Proof.Machine.execControlRegisterWrite tile berth number value s
  | .takeWork tile berth => Sys2Proof.Machine.execTakeWork tile berth s
  | .interlockedResult tile berth => Sys2Proof.Machine.execInterlockedResult tile berth s
  | .resultQueueExpiry tile berth position => Sys2Proof.Machine.execResultQueueExpiry tile berth position s
  | .branchResolve tile berth => Sys2Proof.Machine.execBranchResolve tile berth s
  | .issueStarvation tile => Sys2Proof.Machine.execIssueStarvation tile s
  | .preempt tile berth requester => Sys2Proof.Machine.execPreempt tile berth requester s
  | .contextResume tile berth index => Sys2Proof.Machine.execContextResume tile berth index s
  | .energyOverrunNotice tile overrun => Sys2Proof.Machine.execEnergyOverrunNotice tile overrun s
  | .debuggerResume tile berth => Sys2Proof.Machine.execDebuggerResume tile berth s
  | .retirementDrain tile index => Sys2Proof.Machine.execRetirementDrain tile index s
  | .commitGrant launch => Sys2Proof.Machine.execCommitGrant launch s
  | .orderedFrontierPublish launch => Sys2Proof.Machine.execOrderedFrontierPublish launch s
  | .markOldestRecord launch => Sys2Proof.Machine.execMarkOldestRecord launch s
  | .messageDelivery flight => Sys2Proof.Machine.execMessageDelivery flight s
  | .inboxOverflowRefill tile channel => Sys2Proof.Machine.execInboxOverflowRefill tile channel s
  | .continuationFire tile index => Sys2Proof.Machine.execContinuationFire tile index s
  | .triggerTableTest tile => Sys2Proof.Machine.execTriggerTableTest tile s
  | .getDelivery flight => Sys2Proof.Machine.execGetDelivery flight s
  | .getCheckResult flight => Sys2Proof.Machine.execGetCheckResult flight s
  | .putCompletion flight => Sys2Proof.Machine.execPutCompletion flight s
  | .postedAtomicCompletion flight => Sys2Proof.Machine.execPostedAtomicCompletion flight s
  | .remoteAcasReply flight => Sys2Proof.Machine.execRemoteAcasReply flight s
  | .copyCommandCopy tile op => Sys2Proof.Machine.execCopyCommandCopy tile op s
  | .copyCommandSlotFill tile op => Sys2Proof.Machine.execCopyCommandSlotFill tile op s
  | .copyCommandAccumulatingStore tile op => Sys2Proof.Machine.execCopyCommandAccumulatingStore tile op s
  | .copyCommandFill tile op => Sys2Proof.Machine.execCopyCommandFill tile op s
  | .engineTakeCommand tile engine => Sys2Proof.Machine.execEngineTakeCommand tile engine s
  | .engineOperationComplete tile op => Sys2Proof.Machine.execEngineOperationComplete tile op s
  | .ringOperationFiring tile op => Sys2Proof.Machine.execRingOperationFiring tile op s
  | .traceStreamFiring tile op => Sys2Proof.Machine.execTraceStreamFiring tile op s
  | .collectiveAdd tile op => Sys2Proof.Machine.execCollectiveAdd tile op s
  | .collectiveMaximum tile op => Sys2Proof.Machine.execCollectiveMaximum tile op s
  | .collectiveMinimum tile op => Sys2Proof.Machine.execCollectiveMinimum tile op s
  | .collectiveBroadcast tile op => Sys2Proof.Machine.execCollectiveBroadcast tile op s
  | .accumulatorShadowCopy tile op => Sys2Proof.Machine.execAccumulatorShadowCopy tile op s
  | .sliceAnnounce tile op => Sys2Proof.Machine.execSliceAnnounce tile op s
  | .collectivePull root round => Sys2Proof.Machine.execCollectivePull root round s
  | .collectiveDelivery root round receiver => Sys2Proof.Machine.execCollectiveDelivery root round receiver s
  | .consolidate tile op => Sys2Proof.Machine.execConsolidate tile op s
  | .consolidateActiveSet tile op => Sys2Proof.Machine.execConsolidateActiveSet tile op s
  | .insertArrangement tile op => Sys2Proof.Machine.execInsertArrangement tile op s
  | .matrixQueueExecute tile => Sys2Proof.Machine.execMatrixQueueExecute tile s
  | .tileOperationComplete tile => Sys2Proof.Machine.execTileOperationComplete tile s
  | .curbWindowBoundary tile => Sys2Proof.Machine.execCurbWindowBoundary tile s
  | .remoteMma flight => Sys2Proof.Machine.execRemoteMma flight s
  | .remoteMmaz flight => Sys2Proof.Machine.execRemoteMmaz flight s
  | .remoteMacc flight => Sys2Proof.Machine.execRemoteMacc flight s
  | .remoteCommandReply flight => Sys2Proof.Machine.execRemoteCommandReply flight s
  | .expansionInstructionComplete tile => Sys2Proof.Machine.execExpansionInstructionComplete tile s
  | .deltaIntakeArrival flight => Sys2Proof.Machine.execDeltaIntakeArrival flight s
  | .pointRelease tile time stage => Sys2Proof.Machine.execPointRelease tile time stage s
  | .frontierPublish launch => Sys2Proof.Machine.execFrontierPublish launch s
  | .depotFetch tile berth => Sys2Proof.Machine.execDepotFetch tile berth s
  | .stealRequest thief => Sys2Proof.Machine.execStealRequest thief s
  | .stealAnswer thief => Sys2Proof.Machine.execStealAnswer thief s
  | .stealRetryWait thief => Sys2Proof.Machine.execStealRetryWait thief s
  | .channelAging tile channel => Sys2Proof.Machine.execChannelAging tile channel s
  | .regrouping launch => Sys2Proof.Machine.execRegrouping launch s
  | .launchQueueTake part => Sys2Proof.Machine.execLaunchQueueTake part s
  | .admission part => Sys2Proof.Machine.execAdmission part s
  | .launchResult part index => Sys2Proof.Machine.execLaunchResult part index s
  | .launchRetire launch => Sys2Proof.Machine.execLaunchRetire launch s
  | .loadObject part object => Sys2Proof.Machine.execLoadObject part object s
  | .unloadObject part index => Sys2Proof.Machine.execUnloadObject part index s
  | .hitchMirrorLaunch part record peers => Sys2Proof.Machine.execHitchMirrorLaunch part record peers s
  | .rowDrowsy tile entry => Sys2Proof.Machine.execRowDrowsy tile entry s
  | .rowGated tile entry => Sys2Proof.Machine.execRowGated tile entry s
  | .rowFill tile berth row => Sys2Proof.Machine.execRowFill tile berth row s
  | .writeBackDrain tile => Sys2Proof.Machine.execWriteBackDrain tile s
  | .refreshBurst tile bank => Sys2Proof.Machine.execRefreshBurst tile bank s
  | .scrubRead address error => Sys2Proof.Machine.execScrubRead address error s
  | .correctedWriteBack address => Sys2Proof.Machine.execCorrectedWriteBack address s
  | .uncorrectableError address => Sys2Proof.Machine.execUncorrectableError address s
  | .bankFailure tile bank => Sys2Proof.Machine.execBankFailure tile bank s
  | .externalRequestArrival request => Sys2Proof.Machine.execExternalRequestArrival request s
  | .externalRequestPerform core channel => Sys2Proof.Machine.execExternalRequestPerform core channel s
  | .pageTableWalk core part address => Sys2Proof.Machine.execPageTableWalk core part address s
  | .shootdown part address length => Sys2Proof.Machine.execShootdown part address length s
  | .serviceRequest request => Sys2Proof.Machine.execServiceRequest request s
  | .gather core op => Sys2Proof.Machine.execGather core op s
  | .scatter core op => Sys2Proof.Machine.execScatter core op s
  | .accumulatingContribution request => Sys2Proof.Machine.execAccumulatingContribution request s
  | .tokenRefill => Sys2Proof.Machine.execTokenRefill s
  | .shareTableWrite part value => Sys2Proof.Machine.execShareTableWrite part value s
  | .sounding => Sys2Proof.Machine.execSounding s
  | .packetHop packet => Sys2Proof.Machine.execPacketHop packet s
  | .lodestarTurn => Sys2Proof.Machine.execLodestarTurn s
  | .deliveryNotice tile tag => Sys2Proof.Machine.execDeliveryNotice tile tag s
  | .linkReplay packet flit struck partLost => Sys2Proof.Machine.execLinkReplay packet flit struck partLost s
  | .linkFailure tile port => Sys2Proof.Machine.execLinkFailure tile port s
  | .chartUpdate index entry => Sys2Proof.Machine.execChartUpdate index entry s
  | .reinFailure rein => Sys2Proof.Machine.execReinFailure rein s
  | .fieldSave launch => Sys2Proof.Machine.execFieldSave launch s
  | .fieldRestore part index => Sys2Proof.Machine.execFieldRestore part index s
  | .bringDown part => Sys2Proof.Machine.execBringDown part s
  | .dieFailed die => Sys2Proof.Machine.execDieFailed die s
  | .partitionSplit part groups reaches => Sys2Proof.Machine.execPartitionSplit part groups reaches s
  | .stewardWatchdog kernelOk => Sys2Proof.Machine.execStewardWatchdog kernelOk s
  | .fatalDump => Sys2Proof.Machine.execFatalDump s
  | .powerOn fuses failure => Sys2Proof.Machine.execPowerOn fuses failure s
  | .attestationRequest nonce => Sys2Proof.Machine.execAttestationRequest nonce s
  | .partitionSetup entry => Sys2Proof.Machine.execPartitionSetup entry s
  | .reckonerRegisterWrite register value => Sys2Proof.Machine.execReckonerRegisterWrite register value s
  | .reckonerRefill used => Sys2Proof.Machine.execReckonerRefill used s
  | .thermalThreshold die sensor reading => Sys2Proof.Machine.execThermalThreshold die sensor reading s
  | .clockSet megahertz => Sys2Proof.Machine.execClockSet megahertz s
  | .preciousRegionMark part base length => Sys2Proof.Machine.execPreciousRegionMark part base length s
  | .holdup => Sys2Proof.Machine.execHoldup s
  | .reservedEncoding word => Sys2Proof.Machine.execReservedEncoding word s
  | .fetchFailure address => Sys2Proof.Machine.execFetchFailure address s
  | .launchQueueAppend part record => Sys2Proof.Machine.execLaunchQueueAppend part record s
  | .releaseHoldEnd tile => Sys2Proof.Machine.execReleaseHoldEnd tile s
  | .deviceMemoryAccess part address store data => Sys2Proof.Machine.execDeviceMemoryAccess part address store data s
  | .managementMailbox offset value => Sys2Proof.Machine.execManagementMailbox offset value s
  | .debuggerClaim launch => Sys2Proof.Machine.execDebuggerClaim launch s
  | .debuggerRowWrite tile berth row data => Sys2Proof.Machine.execDebuggerRowWrite tile berth row data s
  | .frozenFieldDiscard part => Sys2Proof.Machine.execFrozenFieldDiscard part s
  | .fatalDumpClear => Sys2Proof.Machine.execFatalDumpClear s
  | .stewardMemoryWrite address data => Sys2Proof.Machine.execStewardMemoryWrite address data s

end Sys2Proof.Machine
end

