-- ==== Sys2Proof/Machine/Fetch.lean ====
section
/-!
DEFINITION. What comes next: a due event, an event of the agenda, a ready berth's instruction (R61, R143, R208, R361 to R363), or the next
cycle (R309, R372, R456).
-/
namespace Sys2Proof.Machine

/-! ## Fetching (R61, R114, R143, R208) -/

/-- The first byte address of inline code (R208). -/
def inlineBase : Nat := 0xffffffffff00

/-- Whether an address lies in an object's CODE sections. -/
def LoadedObject.covers (o : LoadedObject) (a : Nat) : Bool := o.regions.any fun r => decide (r.1 ≤ a ∧ a + 2 ≤ r.1 + r.2)

/-- The parcel that a launch of an object reads at an address of the instruction store: its own object's, or that of another loaded object
that covers it; absent parcels read 0xfb00 (R114, R122). -/
def Partition.parcel (p : Partition) (object a : Nat) : BitVec 16 :=
  let own := p.objects.filter fun o => o.id == object && o.covers a
  match own ++ p.objects.filter fun o => o.covers a with
  | o :: _ => (lookup (a / 2) o.code).getD 0xfb00
  | [] => 0xfb00

/-- Whether a parcel address lies in a launch's instruction region. -/
def Launch.inRegion (l : Launch) (a : Nat) : Bool := l.regions.any fun r => decide (r.1 ≤ a ∧ a + 2 ≤ r.1 + r.2)

/-- Fetches one parcel for a context: none is a fetch failure (R79, R143, R208). -/
def State.fetchParcel (s : State) (c : Ctx) (a : Nat) : Option (BitVec 16) :=
  if inlineBase ≤ a then
    let off := a - inlineBase
    if c.task.inline && decide (off + 2 ≤ 4 * c.task.inlineWords) then
      let b (i : Nat) : BitVec 8 := c.task.body.extractLsb' (8 * i) 8
      some (b (off + 1) ++ b off)
    else none
  else
    match s.launch? c.ctxnum with
    | none => none
    | some l => if l.inRegion a then (s.part? l.part).map fun p => p.parcel l.object a else none

/-- The bytes of the instruction at an address; where one of its parcels cannot be fetched, its own address (R143). -/
def State.fetchAt (s : State) (c : Ctx) (a : Nat) : Except Nat (List Byte) :=
  match s.fetchParcel c a with
  | none => .error a
  | some p =>
    if isDictParcel p then .ok (parcelBytes p)
    else match s.fetchParcel c (a + 2) with
      | none => .error a
      | some q => .ok (parcelBytes p ++ parcelBytes q)

/-- What a berth issues next. -/
inductive Next where
  | word (cur : Issue) (w : BitVec 32)
  | fetched (cur : Issue) (bs : List Byte)
  | failed (cur : Issue) (address : Nat)
  /-- A trap that no instruction raises: before the task's first instruction, or at a boundary (R360, R433, R438). -/
  | trap (tile berth cause : Nat) (value : Word)
  /-- A channel-15 request that has waited for this boundary (R145, R438). -/
  | stop (tile berth requester : Nat)
  deriving DecidableEq, Repr

/-- A trap that waits for the boundary before the next instruction: those before the first one, then an energy notice (R188, R360, R432). -/
def State.boundaryTrap (s : State) (n b : Nat) (c : Ctx) : Option (Nat × Word) :=
  let x := s.berth n b
  if c.inHandler || x.spec.isSome || x.latch.isSome then none
  else match c.startTraps with
    | t :: _ => some t
    | [] => x.energyReq.map fun e => (Cause.energy, BitVec.ofNat 64 e)

/-- Takes such a trap: it is no longer pending. -/
def State.takeBoundary (s : State) (n b cause : Nat) (value : Word) : State :=
  match s.ctx? n b with
  | none => s
  | some c =>
    let s := if c.startTraps.isEmpty then s.modBerth n b fun x => { x with energyReq := none }
      else s.setCtx n b { c with startTraps := c.startTraps.tail }
    takeTrap s n b cause value c.pc c.pc (logged := true)

/-- The next issue of a berth: a replay entry (R231), a latched dictionary word (R68), or what stands at PC. -/
def State.nextOf (s : State) (n b : Nat) : Option Next :=
  match s.ctx? n b with
  | none => none
  | some c =>
    match (s.berth n b).preemptReq.filter fun _ => s.mayStop n b c, s.boundaryTrap n b c with
    | some r, _ => some (.stop n b r)
    | none, some (cause, value) => some (.trap n b cause value)
    | none, none =>
    let cur : Issue := { tile := n, berth := b }
    match c.replay, (s.berth n b).latch with
    | r :: _, _ => some (.word { cur with word := r.word, replay := some r } r.word)
    | [], some (i, w) => some (.word { cur with word := w, len := 2, dict := some i } w)
    | [], none =>
      match s.fetchAt c c.pc.toNat with
      | .error a => some (.failed cur a)
      | .ok bs => some (.fetched { cur with word := BitVec.ofNat 32 (((bs.getD 1 0).toNat * 256 + (bs.getD 0 0).toNat) * 65536 +
          (bs.getD 3 0).toNat * 256 + (bs.getD 2 0).toNat), len := bs.length } bs)

/-! ## The issue slot (R361 to R363) -/

/-- A berth is ready: it runs a task, its spacing and its waits are over, and nothing has frozen it. -/
def Berth.ready (b : Berth) (now : Nat) : Bool := b.ctx.any (fun c => !c.stopped) && !b.frozen && decide (b.nextIssue ≤ now)

/-- Whether berth `a` is chosen before berth `b` by age (R353). -/
def Berth.age (b : Berth) : Nat := (b.ctx.map Ctx.age).getD 0

/-- The first of a list that is least by a measure. -/
def leastBy (f : Nat → Nat) : List Nat → Option Nat
  | [] => none
  | a :: l => match leastBy f l with
    | some b => if f b < f a then some b else some a
    | none => some a

/-- The choice of R363 among the ready berths of a tile: 256 cycles without issue come first, then the policy. -/
def Tile.choose (t : Tile) (count now : Nat) : Option Nat :=
  let cand := (natsFrom 0 count).filter fun b => (t.berth b).ready now
  let quiet (b : Nat) : Bool := !(t.berth b).yielding
  match leastBy (fun b => (t.berth b).readySince) (cand.filter fun b => decide ((t.berth b).readySince + 256 ≤ now)) with
  | some b => some b
  | none =>
    if t.issuepol then
      let order := (natsFrom 1 count).map fun i => (t.last.val + i) % count
      match order.find? fun b => cand.contains b && quiet b with
      | some b => some b
      | none => order.find? fun b => cand.contains b
    else
      match t.cur with
      | some c =>
        if cand.contains c.val && quiet c.val then some c.val
        else (leastBy (fun b => (t.berth b).age) (cand.filter quiet)).or (leastBy (fun b => (t.berth b).age) cand)
      | none => (leastBy (fun b => (t.berth b).age) (cand.filter quiet)).or (leastBy (fun b => (t.berth b).age) cand)

/-- Berths of an agent (R2, R325). -/
def berthCount (n : Nat) : Nat := if isCore n then 2 else 4

/-! ## The next cycle -/

/-- The chronometer after one more tile cycle (R309, R459). -/
def State.clockTick (s : State) : State :=
  let f := s.chronFrac + 1000
  { s with now := s.now + 1, chron := s.chron + f / s.clock, chronFrac := f % s.clock }

/-- The context numbers that a tile's activity of one cycle counts for (R456): once for each launch that a berth holds a task of, and once for
each engine that runs an operation. -/
def Tile.activity (t : Tile) (now : Nat) : List Nat :=
  let tasks := ((t.berths.toList.filterMap Berth.ctx).map Ctx.ctxnum).foldl (fun ks k => if ks.contains k then ks else ks ++ [k]) []
  let running (e : Nat) : List Nat :=
    ((t.ops.find? fun o => o.eng == e && match o.stage with | .running .. => true | _ => false).map fun o => o.issuer.ctxnum).toList
  let mx := ((t.mx.queue.find? fun o => o.doneAt.isSome).map fun o => o.issuer.ctxnum).toList
  let xu := if now < t.xu.busyUntil then ((t.xu.holder.bind fun b => (t.berth b).ctx).map Ctx.ctxnum).toList else []
  let dc := if now < t.consolidatorFree then (match running 4 with | [] => [t.owner] | l => l) else []
  tasks ++ mx ++ xu ++ running 2 ++ running 0 ++ dc

/-- Adds a cycle's activity to the counts of the microsecond. -/
def State.countActivity (s : State) : State :=
  let add (acc : List (Nat × Nat)) (x : Nat × Tile) : List (Nat × Nat) :=
    if isCore x.1 then acc
    else (x.2.activity s.now).foldl (fun acc k =>
      let key := 4096 * dieOf x.1 + k
      insertAt key ((lookup key acc).getD 0 + 1) acc) acc
  { s with reck := { s.reck with activity := s.tiles.foldl add s.reck.activity } }

/-- What a tile has due in every cycle: free berths test their sources (R351), trackers drain (R209), and rows doze off (R280). -/
def State.tickTile (s : State) (n : Nat) (t : Tile) : State :=
  let s := if t.inbox.isEmpty && t.deque.isEmpty && t.core.inbox.isEmpty && t.owner == 0 then s else s.offer n
  let s := if t.armed.isEmpty then s else s.wake n
  let s := (t.trackers.filter fun x => x.aborted || (x.committed && !s.outstanding x.issuer)).foldl (fun s x => s.once (.retirementDrain n x.id)) s
  ((natsFrom 0 t.mainFile.length).zip t.mainFile).foldl (fun s (i, e) =>
    if e.dozes s.now then s.once (.rowDrowsy n i) else if e.fades s.now then s.once (.rowGated n i) else s) s

/-- What a launch has due: its sequencer looks again (R296, R297), frontiers are published (R387), and an idle launch retires (R350). -/
def State.tickLaunch (s : State) (k : Nat) (l : Launch) : State :=
  if l.state ≠ .running then s
  else
    let s := if (s.orderKeys k).isEmpty then s else s.sequence k
    let s := if s.now % 64 = 0 then s.once (.frontierPublish k) else s
    s.once (.launchRetire k)

/-- A holdup under way (R462): it waits for its saves, and refills have stopped. -/
def State.holding (s : State) : Bool := s.timed.any fun x => match x.2 with
  | .holdup => true
  | _ => false

/-- The steps that come at fixed times: the curb's window (R372), refresh (R283), soundings (R401), the token buckets (R345), regrouping (R356),
the reckoner (R456) and the lodestar's turn (R404). -/
def State.periodic (s : State) (oldChron : Nat) : State :=
  let onTiles (s : State) (e : Nat → Event) : State := s.tiles.foldl (fun s (n, _) => if isCore n then s else s.atCycle s.now (e n)) s
  let s := if s.now % 64 = 0 then onTiles s .curbWindowBoundary else s
  let s := if s.now % 16 = 0 then onTiles s fun n => .refreshBurst n (s.now / 16 % 8) else s
  let s := if s.packets.isEmpty then s else s.atCycle s.now .sounding
  let s := if s.now % 1024 = 0 then s.atCycle s.now .tokenRefill else s
  let s := if s.now % 16384 = 0 then s.launches.foldl (fun s (k, _) => s.atCycle s.now (.regrouping k)) s else s
  let s := if s.chron / 1000 = oldChron / 1000 ∨ s.holding = true then s else s.atCycle s.now (.reckonerRefill [])
  if s.chron / 1024 = oldChron / 1024 then s else s.atCycle s.now .lodestarTurn

/-- The next cycle and what it brings. -/
def State.tick (s0 : State) : State :=
  let s := s0.clockTick.countActivity
  let s := s.tiles.foldl (fun s (n, t) => s.tickTile n t) s
  let s := s.launches.foldl (fun s (k, l) => s.tickLaunch k l) s
  let s := s.parts.foldl (fun s (p, x) => if !x.down && x.queue.any fun q => q.status.isNone then s.once (.launchQueueTake p) else s) s
  s.periodic s0.chron

/-! ## Choosing the next event -/

/-- Takes the first event that is due. -/
def takeDue (now : Nat) : List (Nat × Event) → Option (Event × List (Nat × Event))
  | [] => none
  | (c, e) :: l => if c ≤ now then some (e, l) else (takeDue now l).map fun (x, r) => (x, (c, e) :: r)

/-- Takes the k-th event of the agenda; none past its end, where the berths go on. -/
def takeNth : Nat → List Event → Option (Event × List Event)
  | _, [] => none
  | 0, e :: l => some (e, l)
  | k + 1, e :: l => (takeNth k l).map fun (x, r) => (x, e :: r)

/-- The event that comes before any issue: a due one, or one the device chooses (the order among those is open). -/
def State.nextEvent (s : State) : Option (Event × State) :=
  match takeDue s.now s.timed with
  | some (e, l) => some (e, { s with timed := l })
  | none =>
    match s.agenda with
    | [] => none
    | es => (takeNth (Config.choose s.steps % (es.length + 1)) es).map fun (e, l) => (e, { s with agenda := l })

end Sys2Proof.Machine
end

