-- ==== Sys2Proof/Machine/Run.lean ====
section
/-!
DEFINITION. The events the state schedules, each run by its meaning.
-/
namespace Sys2Proof.Machine

/-- Runs an event. -/
def Event.run (e : Event) (s : State) : Out :=
  match e with
  | .curbWrite tile value => execCurbWrite tile value s
  | .curbstWrite tile value => execCurbstWrite tile value s
  | .issuepolWrite tile value => execIssuepolWrite tile value s
  | .bkconfWrite core value => execBkconfWrite core value s
  | .controlRegisterWrite tile berth number value => execControlRegisterWrite tile berth number value s
  | .takeWork tile berth => execTakeWork tile berth s
  | .interlockedResult tile berth => execInterlockedResult tile berth s
  | .resultQueueExpiry tile berth position => execResultQueueExpiry tile berth position s
  | .branchResolve tile berth => execBranchResolve tile berth s
  | .issueStarvation tile => execIssueStarvation tile s
  | .preempt tile berth requester => execPreempt tile berth requester s
  | .contextResume tile berth index => execContextResume tile berth index s
  | .energyOverrunNotice tile overrun => execEnergyOverrunNotice tile overrun s
  | .debuggerResume tile berth => execDebuggerResume tile berth s
  | .retirementDrain tile index => execRetirementDrain tile index s
  | .commitGrant launch => execCommitGrant launch s
  | .orderedFrontierPublish launch => execOrderedFrontierPublish launch s
  | .markOldestRecord launch => execMarkOldestRecord launch s
  | .messageDelivery flight => execMessageDelivery flight s
  | .inboxOverflowRefill tile channel => execInboxOverflowRefill tile channel s
  | .continuationFire tile index => execContinuationFire tile index s
  | .triggerTableTest tile => execTriggerTableTest tile s
  | .getDelivery flight => execGetDelivery flight s
  | .getCheckResult flight => execGetCheckResult flight s
  | .putCompletion flight => execPutCompletion flight s
  | .postedAtomicCompletion flight => execPostedAtomicCompletion flight s
  | .remoteAcasReply flight => execRemoteAcasReply flight s
  | .copyCommandCopy tile op => execCopyCommandCopy tile op s
  | .copyCommandSlotFill tile op => execCopyCommandSlotFill tile op s
  | .copyCommandAccumulatingStore tile op => execCopyCommandAccumulatingStore tile op s
  | .copyCommandFill tile op => execCopyCommandFill tile op s
  | .engineTakeCommand tile engine => execEngineTakeCommand tile engine s
  | .engineOperationComplete tile op => execEngineOperationComplete tile op s
  | .ringOperationFiring tile op => execRingOperationFiring tile op s
  | .traceStreamFiring tile op => execTraceStreamFiring tile op s
  | .collectiveAdd tile op => execCollectiveAdd tile op s
  | .collectiveMaximum tile op => execCollectiveMaximum tile op s
  | .collectiveMinimum tile op => execCollectiveMinimum tile op s
  | .collectiveBroadcast tile op => execCollectiveBroadcast tile op s
  | .accumulatorShadowCopy tile op => execAccumulatorShadowCopy tile op s
  | .sliceAnnounce tile op => execSliceAnnounce tile op s
  | .collectivePull root round => execCollectivePull root round s
  | .collectiveDelivery root round receiver => execCollectiveDelivery root round receiver s
  | .consolidate tile op => execConsolidate tile op s
  | .consolidateActiveSet tile op => execConsolidateActiveSet tile op s
  | .insertArrangement tile op => execInsertArrangement tile op s
  | .matrixQueueExecute tile => execMatrixQueueExecute tile s
  | .tileOperationComplete tile => execTileOperationComplete tile s
  | .curbWindowBoundary tile => execCurbWindowBoundary tile s
  | .remoteMma flight => execRemoteMma flight s
  | .remoteMmaz flight => execRemoteMmaz flight s
  | .remoteMacc flight => execRemoteMacc flight s
  | .remoteCommandReply flight => execRemoteCommandReply flight s
  | .expansionInstructionComplete tile => execExpansionInstructionComplete tile s
  | .deltaIntakeArrival flight => execDeltaIntakeArrival flight s
  | .pointRelease tile time stage => execPointRelease tile time stage s
  | .frontierPublish launch => execFrontierPublish launch s
  | .depotFetch tile berth => execDepotFetch tile berth s
  | .stealRequest thief => execStealRequest thief s
  | .stealAnswer thief => execStealAnswer thief s
  | .stealRetryWait thief => execStealRetryWait thief s
  | .channelAging tile channel => execChannelAging tile channel s
  | .regrouping launch => execRegrouping launch s
  | .launchQueueTake part => execLaunchQueueTake part s
  | .admission part => execAdmission part s
  | .launchResult part index => execLaunchResult part index s
  | .launchRetire launch => execLaunchRetire launch s
  | .loadObject part object => execLoadObject part object s
  | .unloadObject part index => execUnloadObject part index s
  | .hitchMirrorLaunch part record peers => execHitchMirrorLaunch part record peers s
  | .rowDrowsy tile entry => execRowDrowsy tile entry s
  | .rowGated tile entry => execRowGated tile entry s
  | .rowFill tile berth row => execRowFill tile berth row s
  | .writeBackDrain tile => execWriteBackDrain tile s
  | .refreshBurst tile bank => execRefreshBurst tile bank s
  | .scrubRead address error => execScrubRead address error s
  | .correctedWriteBack address => execCorrectedWriteBack address s
  | .uncorrectableError address => execUncorrectableError address s
  | .bankFailure tile bank => execBankFailure tile bank s
  | .externalRequestArrival request => execExternalRequestArrival request s
  | .externalRequestPerform core channel => execExternalRequestPerform core channel s
  | .pageTableWalk core part address => execPageTableWalk core part address s
  | .shootdown part address length => execShootdown part address length s
  | .serviceRequest request => execServiceRequest request s
  | .gather core op => execGather core op s
  | .scatter core op => execScatter core op s
  | .accumulatingContribution request => execAccumulatingContribution request s
  | .tokenRefill => execTokenRefill s
  | .shareTableWrite part value => execShareTableWrite part value s
  | .sounding => execSounding s
  | .packetHop packet => execPacketHop packet s
  | .lodestarTurn => execLodestarTurn s
  | .deliveryNotice tile tag => execDeliveryNotice tile tag s
  | .linkReplay packet flit struck partLost => execLinkReplay packet flit struck partLost s
  | .linkFailure tile port => execLinkFailure tile port s
  | .chartUpdate index entry => execChartUpdate index entry s
  | .reinFailure rein => execReinFailure rein s
  | .fieldSave launch => execFieldSave launch s
  | .fieldRestore part index => execFieldRestore part index s
  | .bringDown part => execBringDown part s
  | .dieFailed die => execDieFailed die s
  | .partitionSplit part groups reaches => execPartitionSplit part groups reaches s
  | .stewardWatchdog kernelOk => execStewardWatchdog kernelOk s
  | .fatalDump => execFatalDump s
  | .powerOn fuses failure => execPowerOn fuses failure s
  | .attestationRequest nonce => execAttestationRequest nonce s
  | .partitionSetup entry => execPartitionSetup entry s
  | .reckonerRegisterWrite register value => execReckonerRegisterWrite register value s
  | .reckonerRefill used => execReckonerRefill used s
  | .thermalThreshold die sensor reading => execThermalThreshold die sensor reading s
  | .clockSet megahertz => execClockSet megahertz s
  | .preciousRegionMark part base length => execPreciousRegionMark part base length s
  | .holdup => execHoldup s
  | .reservedEncoding word => execReservedEncoding word s
  | .fetchFailure address => execFetchFailure address s
  | .launchQueueAppend part record => execLaunchQueueAppend part record s
  | .releaseHoldEnd tile => execReleaseHoldEnd tile s
  | .deviceMemoryAccess part address store data => execDeviceMemoryAccess part address store data s
  | .managementMailbox offset value => execManagementMailbox offset value s
  | .debuggerClaim launch => execDebuggerClaim launch s
  | .debuggerRowWrite tile berth row data => execDebuggerRowWrite tile berth row data s
  | .frozenFieldDiscard part => execFrozenFieldDiscard part s
  | .fatalDumpClear => execFatalDumpClear s
  | .stewardMemoryWrite address data => execStewardMemoryWrite address data s

end Sys2Proof.Machine
end

