-- ==== Sys2Proof/Machine/Issue.lean ====
section
/-!
DEFINITION. What an issue runs: the decoded instruction, or the trap, stop, fetch failure or reserved encoding that stands in its place.
-/
namespace Sys2Proof.Machine

/-- Issues what a berth has next. -/
def issue (x : Next) (s : State) : Host.Outcome State Fault Refusal :=
  match x with
  | .trap n b cause value => .next (s.takeBoundary n b cause value)
  | .stop n b requester => execPreempt n b requester s
  | .failed cur a => execFetchFailure (BitVec.ofNat 48 a) { s with cur := cur }
  | .word cur w =>
    match decodeWord w with
    | .ok i => exec i { s with cur := cur }
    | .error _ => execReservedEncoding w { s with cur := cur }
  | .fetched cur bs =>
    match decode bs with
    | .ok (i, _) => exec i { s with cur := cur }
    | .error _ => execReservedEncoding cur.word { s with cur := cur }

/-- The next instruction of a berth is held by a wait (R70, R361): issuing it would leave the berth to try again, and the slot free. -/
def State.heldBack (s : State) (n b : Nat) : Bool :=
  match (s.nextOf n b).map fun x => issue x s with
  | some (.next t) => (t.berth n b).ctx.isSome && (t.berth n b).nextIssue == s.now + 1 && (t.tile n).issuedAt != some s.now
  | _ => false

/-- The next berth of a tile in this cycle: a wait comes to light first, and the policy chooses among the others (R361, R363). -/
def State.pickOn (s : State) (n : Nat) (t : Tile) : Option Nat :=
  match (natsFrom 0 (berthCount n)).find? fun b => (t.berth b).ready s.now && s.heldBack n b with
  | some b => some b
  | none => t.choose (berthCount n) s.now

/-- The next berth that issues in this cycle: one a tile, in order of tiles. -/
def State.pick (s : State) : Option (Nat × Nat) :=
  firstSome (fun (n, t) => if t.issuedAt = some s.now then none else (s.pickOn n t).map fun b => (n, b)) s.tiles

/-- What the berths and the clock do when no event comes first. -/
def goOn (s : State) : Host.Outcome State Fault Refusal :=
  match s.pick with
  | some (n, b) => match s.nextOf n b with
    | some x => issue x s
    | none => .next s.tick
  | none => .next s.tick

end Sys2Proof.Machine
end

