-- ==== Sys2Proof/Machine/Step.lean ====
section
/-!
DEFINITION. One step of the device: an event that is due or chosen, one instruction of a ready berth, or the next cycle.
-/
namespace Sys2Proof.Machine

/-- One step. -/
def step (s : State) : Host.Outcome State Fault Refusal :=
  if s.halted then .fault .packageHalted
  else
    let s := { s with steps := s.steps + 1 }
    match s.nextEvent with
    | some (e, s) => e.run s
    | none => goOn s

/-- The parcels of the table's word, as the instruction store keeps them: the upper half first (R60). -/
def tableParcels (nbits w : Nat) : List (Nat × BitVec 16) :=
  if nbits ≤ 16 then [(0, BitVec.ofNat 16 w)] else [(0, BitVec.ofNat 16 (w / 2 ^ 16)), (1, BitVec.ofNat 16 w)]

/-- `s` with an instruction where step fetches its next one: launch 1 of partition 0 stands placed on the one tile 0, its instruction region
holds the words at address 0, and berth 0 runs a task there; no event comes before it. -/
def State.withFetchWord (s : State) (nbits w : Nat) : State :=
  let p := (s.part? 0).getD {}
  let l := (s.launch? 1).getD {}
  let t := s.tile 0
  let b := t.berth 0
  let c := b.ctx.getD {}
  let c : Ctx := { c with ctxnum := 1, pc := 0, replay := [] }
  let b : Berth := { b with ctx := some c, nextIssue := s.now, frozen := false, latch := none, spec := none }
  let t : Tile := { t with issuedAt := none, berths := #v[b, {}, {}, {}] }
  { s with
    halted := false, timed := [], agenda := [],
    parts := insertAt 0 { p with valid := true, objects := [{ id := l.object, regions := [(0, 8)], code := tableParcels nbits w }] } s.parts,
    launches := insertAt 1 { l with part := 0, regions := [(0, 8)] } s.launches,
    tiles := [(0, t)] }

end Sys2Proof.Machine
end

