-- ==== Sys2Proof/Safety.lean ====
section
/-!
DEFINITION. The terms in which claims speak of a step: a run that stays safe, which berth issues what, which operands are clear of every trap
and wait, and what an issue that completes leaves.
-/
namespace Sys2Proof.Machine

/-- A safe step: the device goes on. -/
def Goes (o : Out) (t : State) : Prop := o = .next t

/-- A run of `k` steps from `s` that neither stops nor is refused. -/
def RunsSafely (k : Nat) (s : State) : Prop := ∃ t, core.run k s = .next t

/-- The state and the context of an issue. -/
def State.view (s : State) (c : Ctx) : View := { s := s, ctx := c }

/-- The berth that issues runs context `c`, and the word it issues is no replay entry (R231). -/
structure Issues (s : State) (c : Ctx) : Prop where
  ctx : s.ctx? s.cur.tile s.cur.berth = some c
  fresh : s.cur.replay = none

/-- No operand of the uses traps under R80 or R302, and none has to be waited for (R71). -/
structure Clear (v : View) (us : List Use) (masks : List (Fin 8) := []) (width : Option Nat := none) : Prop where
  check : v.check us masks width = .ok ()
  room : v.keepRoom us = .ok ()

/-- The clock has gained nothing but write-back drains of a tile: of the rows that touches put out (R279, R281). -/
def Drains (n : Nat) (old new : List (Nat × Event)) : Prop := ∃ l, new = old ++ l ∧ ∀ x ∈ l, x.2 = .writeBackDrain n

/-- What an issue from `s` leaves beside its context: the berth's next issue after `sp` cycles (R70), the slot taken (R361), rows touched
(R279); every other berth, tile, byte and unit as it was. -/
structure Completed (s t : State) (c' : Ctx) (sp : Nat) : Prop where
  ctx : t.ctx? s.cur.tile s.cur.berth = some c'
  spaced : (t.berth s.cur.tile s.cur.berth).nextIssue = s.now + sp
  berths : ∀ b, berthIx b ≠ berthIx s.cur.berth → t.ctx? s.cur.tile b = s.ctx? s.cur.tile b
  tiles : ∀ m, m ≠ s.cur.tile → t.tile m = s.tile m
  tile : t.tile s.cur.tile = { s.tile s.cur.tile with
    berths := (t.tile s.cur.tile).berths, mainFile := (t.tile s.cur.tile).mainFile, writeBack := (t.tile s.cur.tile).writeBack,
    mx := (t.tile s.cur.tile).mx, cur := some (berthIx s.cur.berth), last := berthIx s.cur.berth, issuedAt := some s.now,
    deltaWait := (s.tile s.cur.tile).deltaWait.erase s.cur.berth }
  rest : t = { s with tiles := t.tiles, timed := t.timed }
  timed : Drains s.cur.tile s.timed t.timed

/-- A row as a state and a context hold it, an accumulator row being the tile's (R13, R18). -/
def rowNow (t : State) (c : Ctx) (n : Nat) : Row := (t.view c).row n

/-- What a row holds once a value lands in it: a scalar replaces bytes 0 to 7 (R16). -/
def Val.landed (x : Val) (old : Row) : Row :=
  match x with
  | .scalar w => Row.withLow old w
  | .vector r => r

/-- What a result `x` leaves under the destination column of R64: the push, the register or row, and everything else as it was. -/
structure Delivered (v : View) (d : BitVec 7) (x : Val) (sc : BitVec 3) (t : State) (c' : Ctx) : Prop where
  queue : c'.q = if Opnd.of d = .z then v.ctx.q else v.ctx.q.push (.ofVal x v.now)
  regs : ∀ n : Fin 32, c'.g[n] = if Opnd.of d = .g n then x.low else v.ctx.g[n]
  rows : ∀ n, rowNow t c' n = if v.rowOf (Opnd.of d) = some n then x.landed (v.row n) else v.row n
  matrix : (t.tile v.s.cur.tile).mx = { v.tile.mx with
    acc := (t.tile v.s.cur.tile).mx.acc, accPoison := (t.tile v.s.cur.tile).mx.accPoison, undo := (t.tile v.s.cur.tile).mx.undo }
  rest : c' = { v.ctx with
    q := c'.q, g := c'.g, rows := c'.rows, rowPoison := c'.rowPoison, kept := c'.kept, pend := c'.pend, savedPend := c'.savedPend,
    pc := v.ctx.pc + BitVec.ofNat 48 v.s.cur.len, dist := v.ctx.dist + spacing sc }
  /-- Rows are kept for a squash only behind an unresolved branch (R77). -/
  undo : v.specOpen = false → (t.tile v.s.cur.tile).mx.undo = v.tile.mx.undo

/-- What an issue that delivers no result leaves of its context: PC and the encoded distance have moved on (R61, R72). -/
def Ctx.movedOn (c : Ctx) (len : Nat) (sc : BitVec 3) (now : Nat) : Ctx :=
  { c with pc := c.pc + BitVec.ofNat 48 len, dist := c.dist + spacing sc, pend := dropSettled (c.dist + spacing sc) now c.pend }

/-- An issue that completes and delivers `x` to `d`, seen from the view `w` that has the instruction's other effects. -/
def Gives (o : Out) (w : View) (d : BitVec 7) (x : Val) (sc : BitVec 3) : Prop :=
  ∃ t c', o = .next t ∧ Completed w.s t c' (spacing sc) ∧ Delivered w d x sc t c'

/-- An issue that completes and delivers nothing, seen from the view `w` that has the instruction's other effects. -/
def Ends (o : Out) (w : View) (sc : BitVec 3) : Prop :=
  ∃ t, o = .next t ∧ Completed w.s t (w.ctx.movedOn w.s.cur.len sc w.s.now) (spacing sc) ∧
    (t.tile w.s.cur.tile).mx = (w.s.tile w.s.cur.tile).mx

/-- An issue that completes and writes all of mask register `k`; nothing is pushed (R159, R172). -/
def Marks (o : Out) (w : View) (k : Fin 8) (m : Mask) (sc : BitVec 3) : Prop :=
  ∃ t c', o = .next t ∧ Completed w.s t c' (spacing sc) ∧ (t.tile w.s.cur.tile).mx = (w.s.tile w.s.cur.tile).mx ∧
    c' = { w.ctx with
      k := w.ctx.k.set k m, pend := c'.pend, savedPend := c'.savedPend,
      pc := w.ctx.pc + BitVec.ofNat 48 w.s.cur.len, dist := w.ctx.dist + spacing sc }

/-- The context at a transfer's target: PC there, and the distance of a taken transfer (R70, R144). -/
def Ctx.landing (c : Ctx) (target : BitVec 48) (dist : Nat) : Ctx := { c with pc := target, dist := dist }

/-- What a transfer that resolves 2 cycles on leaves (R77, R144): the fall-through runs from the context `c'`, `sp` cycles on, and the
context at the target is kept beside it. -/
structure Branching (v : View) (taken : Bool) (target : BitVec 48) (sc : BitVec 3) (t : State) (c' : Ctx) (sp : Nat) : Prop where
  completed : Completed (v.s.atCycle (v.s.now + 2) (.branchResolve v.s.cur.tile v.s.cur.berth)) t c' sp
  kept : (t.berth v.s.cur.tile v.s.cur.berth).spec = some
    (Spec.mk taken (c'.landing target (v.ctx.dist + takenSpacing sc)) (v.s.now + takenSpacing sc))

/-! ## Frames and endings of events, and traps -/

/-- Only one tile has changed, besides the fields that the claim names. -/
structure TileOnly (s t : State) (n : Nat) : Prop where
  rest : t = { s with tiles := t.tiles }
  others : ∀ m, m ≠ n → t.tile m = s.tile m

/-- Only one berth of one tile has changed. -/
structure BerthOnly (s t : State) (n b : Nat) : Prop extends TileOnly s t n where
  tile : t.tile n = { s.tile n with berths := (t.tile n).berths }
  berths : ∀ k, berthIx k ≠ berthIx b → (t.tile n).berth k = (s.tile n).berth k

/-- An issue that takes a trap at its own PC, no branch of the berth being unresolved (R77, R227, R228). -/
def Traps (o : Out) (s : State) (c : Ctx) (cause : Nat) (value : Word) : Prop :=
  o = .next (takeTrap s s.cur.tile s.cur.berth cause value c.pc c.pc (issueSigma s))

end Sys2Proof.Machine
end

