-- ==== Sys2Proof/Certificates/Slice0/Obligations.lean ====
section
/-!
DEFINITION. The statements about the model: what each rule of the manual says that an instruction, an event or the whole device does.
-/

open Sys2Proof Sys2Proof.Machine
namespace Sys2Proof.Claims

/-! ## Scalar values as the rules give them (R127 to R137) -/

/-- The scalar instructions of two sources: destination, sources, stall count, latency, and the value (R127, R129, R130,
R132, R135). -/
def scalarPair : Instr → Option (BitVec 7 × BitVec 7 × BitVec 7 × BitVec 3 × Nat × (Word → Word → Word))
  | .add d a b sc => some (d, a, b, sc, 1, fun x y => BitVec.ofNat 64 (x.toNat + y.toNat))
  | .sub d a b sc => some (d, a, b, sc, 1, fun x y => BitVec.ofInt 64 (x.toInt - y.toInt))
  | .mul d a b sc => some (d, a, b, sc, 3, fun x y => BitVec.ofNat 64 (x.toNat * y.toNat))
  | .mulh d a b sc => some (d, a, b, sc, 3, fun x y => BitVec.ofInt 64 (x.toInt * y.toInt / 2 ^ 64))
  | .mulhn d a b sc => some (d, a, b, sc, 3, fun x y => BitVec.ofNat 64 (x.toNat * y.toNat / 2 ^ 64))
  | .and d a b sc => some (d, a, b, sc, 1, fun x y => x &&& y)
  | .or d a b sc => some (d, a, b, sc, 1, fun x y => x ||| y)
  | .xor d a b sc => some (d, a, b, sc, 1, fun x y => x ^^^ y)
  | .andn d a b sc => some (d, a, b, sc, 1, fun x y => x &&& ~~~y)
  | .shl d a b sc => some (d, a, b, sc, 1, fun x y => BitVec.ofNat 64 (x.toNat * 2 ^ (y.extractLsb' 0 6).toNat))
  | .shr d a b sc => some (d, a, b, sc, 1, fun x y => BitVec.ofNat 64 (x.toNat / 2 ^ (y.extractLsb' 0 6).toNat))
  | .shra d a b sc => some (d, a, b, sc, 1, fun x y => BitVec.ofInt 64 (x.toInt / (2 ^ (y.extractLsb' 0 6).toNat : Nat)))
  | .rotr d a b sc => some (d, a, b, sc, 1, fun x y => x.rotateRight (y.extractLsb' 0 6).toNat)
  | .min d a b sc => some (d, a, b, sc, 1, fun x y => if x.toInt ≤ y.toInt then x else y)
  | .max d a b sc => some (d, a, b, sc, 1, fun x y => if y.toInt ≤ x.toInt then x else y)
  | .minn d a b sc => some (d, a, b, sc, 1, fun x y => if x.toNat ≤ y.toNat then x else y)
  | .maxn d a b sc => some (d, a, b, sc, 1, fun x y => if y.toNat ≤ x.toNat then x else y)
  | .slt d a b sc => some (d, a, b, sc, 1, fun x y => if x.toInt < y.toInt then 1 else 0)
  | .sltn d a b sc => some (d, a, b, sc, 1, fun x y => if x.toNat < y.toNat then 1 else 0)
  | .seq d a b sc => some (d, a, b, sc, 1, fun x y => if x = y then 1 else 0)
  | .bfx d a b sc => some (d, a, b, sc, 1, fun x y =>
      let pos := (y.extractLsb' 0 6).toNat
      let we := min (y.extractLsb' 8 7).toNat (64 - pos)
      let f := x.toNat / 2 ^ pos % 2 ^ we
      BitVec.ofInt 64 (if y.getLsbD 16 ∧ 2 ^ we ≤ 2 * f then (f : Int) - (2 ^ we : Nat) else f))
  | _ => none

/-- The scalar instructions of one source: destination, source, stall count, latency, and the value (R127, R129 to R132, R134,
R137, R138). -/
def scalarOne : Instr → Option (BitVec 7 × BitVec 7 × BitVec 3 × Nat × (Word → Word))
  | .addi d a imm sc => some (d, a, sc, 1, fun x => BitVec.ofInt 64 (x.toInt + imm.toInt))
  | .andi d a imm sc => some (d, a, sc, 1, fun x => x &&& BitVec.ofInt 64 imm.toInt)
  | .ori d a imm sc => some (d, a, sc, 1, fun x => x ||| BitVec.ofInt 64 imm.toInt)
  | .xori d a imm sc => some (d, a, sc, 1, fun x => x ^^^ BitVec.ofInt 64 imm.toInt)
  | .shli d a imm sc => some (d, a, sc, 1, fun x => BitVec.ofNat 64 (x.toNat * 2 ^ imm.toNat))
  | .shri d a imm sc => some (d, a, sc, 1, fun x => BitVec.ofNat 64 (x.toNat / 2 ^ imm.toNat))
  | .shrai d a imm sc => some (d, a, sc, 1, fun x => BitVec.ofInt 64 (x.toInt / (2 ^ imm.toNat : Nat)))
  | .rotri d a imm sc => some (d, a, sc, 1, fun x => x.rotateRight imm.toNat)
  | .slti d a imm sc => some (d, a, sc, 1, fun x => if x.toInt < imm.toInt then 1 else 0)
  | .clz d a sc => some (d, a, sc, 1, fun x => if x = 0 then 64 else BitVec.ofNat 64 (63 - Nat.log2 x.toNat))
  | .ctz d a sc => some (d, a, sc, 1, fun x => BitVec.ofNat 64 ((List.range 64).takeWhile fun k => !x.getLsbD k).length)
  | .popc d a sc => some (d, a, sc, 1, fun x => BitVec.ofNat 64 ((List.range 64).countP fun k => x.getLsbD k))
  | .sext d a imm sc => some (d, a, sc, 1, fun x => BitVec.ofInt 64 (if x.getLsbD (imm.toNat - 1)
      then (x.toNat % 2 ^ imm.toNat : Nat) - (2 ^ imm.toNat : Nat) else (x.toNat % 2 ^ imm.toNat : Nat)))
  | .zext d a imm sc => some (d, a, sc, 1, fun x => BitVec.ofNat 64 (x.toNat % 2 ^ imm.toNat))
  | .lea d a imm sc => some (d, a, sc, 1, fun x =>
      let bits := if x.extractLsb' 60 4 = 4 then 48 else if x.extractLsb' 60 4 ∈ [1, 2, 3, 5] then 17 else 60
      BitVec.ofNat 64 (x.toNat - x.toNat % 2 ^ bits + ((x.toNat % 2 ^ bits + 8 * imm.toInt) % (2 ^ bits : Nat)).toNat))
  | .mov d a sc => some (d, a, sc, 1, fun x => x)
  | _ => none

/-- The instructions that read D under R66 before they write it: destination, sources, stall count, latency, and the value (R133, R135). -/
def scalarThree : Instr → Option (BitVec 7 × BitVec 7 × BitVec 7 × BitVec 3 × (Word → Word → Word → Word))
  | .sel d a b sc => some (d, a, b, sc, fun z x y => if z ≠ 0 then x else y)
  | .bfi d a b sc => some (d, a, b, sc, fun z x y =>
      let pos := (y.extractLsb' 0 6).toNat
      let we := min (y.extractLsb' 8 7).toNat (64 - pos)
      let m : Word := BitVec.ofNat 64 ((2 ^ we - 1) * 2 ^ pos)
      if we = 0 then z else (z &&& ~~~m) ||| ((x <<< pos) &&& m))
  | _ => none

/-- The divide family: destination, sources, stall count, whether signed, and the value (R128). -/
def scalarDivide : Instr → Option (BitVec 7 × BitVec 7 × BitVec 7 × BitVec 3 × Bool × (Word → Word → Word))
  | .div d a b sc => some (d, a, b, sc, true, fun x y =>
      if y = 0 then 0xffffffffffffffff else if x = 0x8000000000000000 ∧ y = -1 then 0x8000000000000000
      else BitVec.ofInt 64 (x.toInt.tdiv y.toInt))
  | .rem d a b sc => some (d, a, b, sc, true, fun x y =>
      if y = 0 then x else if y = -1 then 0 else BitVec.ofInt 64 (x.toInt - y.toInt * x.toInt.tdiv y.toInt))
  | .divn d a b sc => some (d, a, b, sc, false, fun x y =>
      if y = 0 then 0xffffffffffffffff else BitVec.ofNat 64 (x.toNat / y.toNat))
  | .remn d a b sc => some (d, a, b, sc, false, fun x y =>
      if y = 0 then x else BitVec.ofNat 64 (x.toNat % y.toNat))
  | _ => none

end Sys2Proof.Claims

open Sys2Proof.Claims

/-- R127, R129, R130, R132, R135: a scalar instruction of two sources whose operands are clear writes the value its rule gives and goes on;
everything else is as it was. -/
def Obligations.ScalarPairResult : Prop :=
  ∀ (i : Instr) (d a b : BitVec 7) (sc : BitVec 3) (l : Nat) (f : Word → Word → Word), scalarPair i = some (d, a, b, sc, l, f) →
  ∀ (s : State) (c : Ctx), Issues s c → Clear (s.view c) (usesDAB d a b) →
    Gives (exec i s) (s.view c) d (.scalar (f ((s.view c).scalar 2 a) ((s.view c).scalar 3 b))) sc

/-- R127, R129, R130, R131, R132, R134, R137, R138: the same of a scalar instruction of one source, its immediate in the range of R84. -/
def Sys2Proof.Claims.ScalarOneResult : Prop :=
  ∀ (i : Instr) (d a : BitVec 7) (sc : BitVec 3) (l : Nat) (f : Word → Word), scalarOne i = some (d, a, sc, l, f) → i.wellFormed = true →
  ∀ (s : State) (c : Ctx), Issues s c → Clear (s.view c) (usesDA d a) →
    Gives (exec i s) (s.view c) d (.scalar (f ((s.view c).scalar 2 a))) sc

/-- R133, R135, R66: SEL and BFI read D before they write it. -/
def Sys2Proof.Claims.ScalarThreeResult : Prop :=
  ∀ (i : Instr) (d a b : BitVec 7) (sc : BitVec 3) (f : Word → Word → Word → Word), scalarThree i = some (d, a, b, sc, f) →
  ∀ (s : State) (c : Ctx), Issues s c → Clear (s.view c) (usesRwAB d a b) →
    Gives (exec i s) (s.view c) d (.scalar (f ((s.view c).scalar 1 d) ((s.view c).scalar 2 a) ((s.view c).scalar 3 b))) sc

/-- R136: LDI gives the sign-extended IMM14, and LDHI shifts D, read under R66, by 14 and puts IMM14 below it. -/
def Sys2Proof.Claims.LoadImmediateResult : Prop :=
  ∀ (d : BitVec 7) (imm : BitVec 14) (sc : BitVec 3) (s : State) (c : Ctx), Issues s c →
    (Clear (s.view c) [⟨1, d, .dst false⟩] →
      Gives (exec (.ldi d imm sc) s) (s.view c) d (.scalar (BitVec.ofInt 64 imm.toInt)) sc) ∧
    (Clear (s.view c) [⟨1, d, .rw false⟩] →
      Gives (exec (.ldhi d imm sc) s) (s.view c) d
        (.scalar (BitVec.ofNat 64 (((s.view c).scalar 1 d).toNat * 2 ^ 14 + imm.toNat))) sc)

/-- R128, R71: a division whose operands are clear gives the value of its rule; its divider is busy until the result exists, L cycles on,
and an instruction that needs the divider before that waits. -/
def Sys2Proof.Claims.DivideResult : Prop :=
  ∀ (i : Instr) (d a b : BitVec 7) (sc : BitVec 3) (signed : Bool) (f : Word → Word → Word),
    scalarDivide i = some (d, a, b, sc, signed, f) →
  ∀ (s : State) (c : Ctx), Issues s c → Clear (s.view c) (usesDAB d a b) →
    let x := (s.view c).scalar 2 a
    let y := (s.view c).scalar 3 b
    let l := 4 + if y = 0 then 0 else
      (if x = 0 then 0 else Nat.log2 (if signed then x.toInt.natAbs else x.toNat) + 1)
    (c.divFree ≤ s.now → Gives (exec i s) (s.view { c with divFree := s.now + l }) d (.scalar (f x y)) sc) ∧
    (s.now < c.divFree → exec i s = .next (holdIssue s))

/-- R127, R129 to R132, R134, R136 to R138: scalar instructions of one source, LDI and LDHI. -/
def Obligations.ScalarOneAndImmediate : Prop :=
  Sys2Proof.Claims.ScalarOneResult ∧ Sys2Proof.Claims.LoadImmediateResult

/-- R133, R135, R128: SEL and BFI, and the divide family. -/
def Obligations.ScalarThreeAndDivide : Prop :=
  Sys2Proof.Claims.ScalarThreeResult ∧ Sys2Proof.Claims.DivideResult

namespace Sys2Proof.Claims

/-! ## Transfers (R139 to R147) -/

/-- The conditional branches: operand, offset in parcels, stall count, the uses, and the condition over the operand and q1 (R139). -/
def branchOf : Instr → Option (BitVec 7 × BitVec 14 × BitVec 3 × List Use × (Word → Word → Bool))
  | .beq a off sc => some (a, off, sc, [⟨2, a, .src false⟩, ⟨3, 0, .src false⟩], fun x q => decide (x = q))
  | .bne a off sc => some (a, off, sc, [⟨2, a, .src false⟩, ⟨3, 0, .src false⟩], fun x q => decide (x ≠ q))
  | .blt a off sc => some (a, off, sc, [⟨2, a, .src false⟩, ⟨3, 0, .src false⟩], fun x q => decide (x.toInt < q.toInt))
  | .bge a off sc => some (a, off, sc, [⟨2, a, .src false⟩, ⟨3, 0, .src false⟩], fun x q => decide (q.toInt ≤ x.toInt))
  | .bltn a off sc => some (a, off, sc, [⟨2, a, .src false⟩, ⟨3, 0, .src false⟩], fun x q => decide (x.toNat < q.toNat))
  | .bgen a off sc => some (a, off, sc, [⟨2, a, .src false⟩, ⟨3, 0, .src false⟩], fun x q => decide (q.toNat ≤ x.toNat))
  | .bz a off sc => some (a, off, sc, [⟨2, a, .src false⟩], fun x _ => decide (x = 0))
  | .bnz a off sc => some (a, off, sc, [⟨2, a, .src false⟩], fun x _ => decide (x ≠ 0))
  | _ => none

/-- The address an offset in parcels names from an instruction's own address (R63). -/
def parcelsFrom {n : Nat} (pc : BitVec 48) (off : BitVec n) : BitVec 48 := BitVec.ofInt 48 ((pc.toNat : Int) + 2 * off.toInt)

end Sys2Proof.Claims

/-- R139, R144, R70: a conditional branch with no other unresolved goes on at its fall-through, and whether it is taken and the context at
its target are settled 2 cycles on; one issued while another is unresolved waits. -/
def Sys2Proof.Claims.ConditionalBranch : Prop :=
  ∀ (i : Instr) (a : BitVec 7) (off : BitVec 14) (sc : BitVec 3) (us : List Use) (holds : Word → Word → Bool),
    branchOf i = some (a, off, sc, us, holds) →
  ∀ (s : State) (c : Ctx), Issues s c →
    ((s.view c).specOpen = false → Clear (s.view c) us → ∃ t, exec i s = .next t ∧
      Branching (s.view c) (holds ((s.view c).scalar 2 a) ((s.view c).scalar 3 0)) (parcelsFrom c.pc off) sc t
        (c.movedOn s.cur.len sc s.now) (spacing sc) ∧
      (t.tile s.cur.tile).mx = (s.tile s.cur.tile).mx) ∧
    ((s.view c).specOpen = true → exec i s = .next (holdIssue s))

/-- R140: LOOP steps its counter down, writes it back as a result, and branches while it is not 0; a counter that is no g register and no row
is ILLOPND. -/
def Sys2Proof.Claims.LoopBranch : Prop :=
  ∀ (a : BitVec 7) (off : BitVec 14) (sc : BitVec 3) (s : State) (c : Ctx), Issues s c → (s.view c).specOpen = false →
    (16 ≤ a.toNat → a.toNat < 48 ∨ 56 ≤ a.toNat → Clear (s.view c) [⟨2, a, .rw false⟩] →
      let n := BitVec.ofInt 64 (((s.view c).scalar 2 a).toInt - 1)
      ∃ t c', exec (.loop a off sc) s = .next t ∧
        Branching (s.view c) (decide (n ≠ 0)) (parcelsFrom c.pc off) sc t c' (spacing sc) ∧ Delivered (s.view c) a (.scalar n) sc t c') ∧
    (a.toNat < 16 ∨ 48 ≤ a.toNat ∧ a.toNat < 56 → Traps (exec (.loop a off sc) s) s c Cause.illopnd (BitVec.ofNat 64 (512 + a.toNat)))

/-- R141, R142, R144: J goes to its target at once; JL pushes the address after itself as well; JR and JLR read their target, whose bit 0 is
cleared, before JLR writes its link, and nothing issues until they have resolved. -/
def Sys2Proof.Claims.Jumps : Prop :=
  ∀ (d a : BitVec 7) (off : BitVec 21) (sc : BitVec 3) (s : State) (c : Ctx), Issues s c → (s.view c).specOpen = false →
    let link : Val := .scalar (BitVec.ofNat 64 (c.pc + BitVec.ofNat 48 s.cur.len).toNat)
    let target := BitVec.ofNat 48 (((s.view c).scalar 2 a).toNat / 2 * 2)
    (∃ t, exec (.j off sc) s = .next t ∧ (t.tile s.cur.tile).mx = (s.tile s.cur.tile).mx ∧
      Completed s t ((c.movedOn s.cur.len sc s.now).landing (parcelsFrom c.pc off) (c.dist + max (spacing sc) 3)) (max (spacing sc) 3)) ∧
    (∃ t c', exec (.jl off sc) s = .next t ∧ (t.tile s.cur.tile).mx = (s.tile s.cur.tile).mx ∧ Completed s t c' (max (spacing sc) 3) ∧
      c' = { c with
        q := c.q.push (.ofVal link s.now), pend := c'.pend, savedPend := c'.savedPend,
        pc := parcelsFrom c.pc off, dist := c.dist + max (spacing sc) 3 }) ∧
    (Clear (s.view c) [⟨2, a, .src false⟩] → ∃ t, exec (.jr a sc) s = .next t ∧
      Branching (s.view c) true target sc t (c.movedOn s.cur.len sc s.now) (max (spacing sc) 3) ∧
      (t.tile s.cur.tile).mx = (s.tile s.cur.tile).mx) ∧
    (Clear (s.view c) (usesDA d a) → ∃ t c', exec (.jlr d a sc) s = .next t ∧
      Branching (s.view c) true target sc t c' (max (spacing sc) 3) ∧ Delivered (s.view c) d link sc t c')

/-- What an accumulator row holds once the speculative writes to it are undone (R77): what it held before the first of them. -/
def Sys2Proof.Claims.squashedRow (m : MatrixUnit) (r : Nat) : Row := ((m.undo.filter fun x => x.1 == r).getLast?.map fun x => x.2.1).getD (rowsGet m.acc r)

/-- R77, R78, R144, R146: when a taken transfer resolves, the berth runs on from the context kept at the target, and nothing its fall-through
did stays: not in the context, not in accumulator rows, and none of the commands that it put into the commit buffer; otherwise the fall-through
stands, its reads leave their stamps, what it deferred takes effect, and a YIELD among it too. -/
def Obligations.BranchResolves : Prop :=
  ∀ (n b : Nat) (s : State) (sp : Spec) (c : Ctx), (s.berth n b).spec = some sp → s.ctx? n b = some c →
    (sp.taken = true → ∃ t, exec (.branchResolve n b) s = .next t ∧ t.ctx? n b = some sp.checkpoint ∧
      (t.berth n b).spec = none ∧ (t.berth n b).latch = none ∧ (t.berth n b).nextIssue = sp.nextIfTaken ∧
      (t.berth n b).yielding = (s.berth n b).yielding ∧ (∀ k, berthIx k ≠ berthIx b → (t.tile n).berth k = (s.tile n).berth k) ∧
      (∀ o ∈ (s.tile n).ops, (∃ e, Item.command e o.id ∈ c.deferred.flatMap Deferred.commands) → o.stage = .held → o ∉ (t.tile n).ops) ∧
      (c.deferred = [] → TileOnly s t n ∧ t.tile n = { s.tile n with berths := (t.tile n).berths, mx := (t.tile n).mx }) ∧
      ((s.tile n).mx.holder ≠ some (b % 4) → (t.tile n).mx = (s.tile n).mx) ∧
      ((s.tile n).mx.holder = some (b % 4) → (∀ r, rowsGet (t.tile n).mx.acc r = Sys2Proof.Claims.squashedRow (s.tile n).mx r) ∧
        (t.tile n).mx = { (s.tile n).mx with acc := (t.tile n).mx.acc, accPoison := (t.tile n).mx.accPoison, undo := [] })) ∧
    (sp.taken = false → ∃ t, exec (.branchResolve n b) s = .next t ∧
      (c.deferred = [] → TileOnly s t n ∧
        t.ctx? n b = some { c with stampsHeld := [] } ∧ (t.berth n b).spec = none ∧ (t.berth n b).nextIssue = (s.berth n b).nextIssue ∧
        (t.berth n b).yielding = ((s.berth n b).yielding || (s.berth n b).yieldHeld) ∧
        (t.tile n).tags = ((s.stampLines n c c.stampsHeld).tile n).tags ∧
        (t.tile n).mx = (if (s.tile n).mx.holder = some (b % 4) then { (s.tile n).mx with undo := [] } else (s.tile n).mx) ∧
        ∀ k, berthIx k ≠ berthIx b → (t.tile n).berth k = (s.tile n).berth k) ∧
      (∀ k, c.deferred = [.slice k] → (t.tile n).sliceHeld = max (s.tile n).sliceHeld (s.now + k)) ∧
      ∀ ring eng base lg esl, c.deferred = [.ringInit ring eng base lg esl] →
        (t.tile n).ring ring = { valid := true, eng := eng, base := base, lg := lg, esl := esl })

/-- R146, R147: NOP only moves on; YIELD moves on and its berth becomes yielding, or once no branch of it is unresolved. -/
def Sys2Proof.Claims.NopAndYield : Prop :=
  ∀ (sc : BitVec 3) (s : State) (c : Ctx), Issues s c →
    Ends (exec (.nop sc) s) (s.view c) sc ∧ Ends (exec (.yield sc) s) (s.view c) sc ∧
    ∀ t, exec (.yield sc) s = .next t →
      (t.berth s.cur.tile s.cur.berth).yielding = !(s.view c).specOpen ∧
      ((s.view c).specOpen = true → (t.berth s.cur.tile s.cur.berth).yieldHeld = true)

/-- R139, R140, R144: the conditional branches and LOOP. -/
def Obligations.Branches : Prop :=
  Sys2Proof.Claims.ConditionalBranch ∧ Sys2Proof.Claims.LoopBranch

/-- R141, R142, R144, R146, R147: J, JL, JR, JLR, NOP and YIELD. -/
def Obligations.JumpsNopYield : Prop :=
  Sys2Proof.Claims.Jumps ∧ Sys2Proof.Claims.NopAndYield

namespace Sys2Proof.Claims

/-! ## Vectors (R148 to R173) -/

/-- Element `k` of a row (R41). -/
def elem (t : EType) (r : Row) (k : Nat) : Nat := r.toNat / 2 ^ (t.width * k) % 2 ^ t.width

/-- A row whose elements of type `t` are the values of `f`, each modulo its width. -/
def Elements (t : EType) (r : Row) (f : Nat → Nat) : Prop := ∀ k, k < 2048 / t.width → elem t r k = f k % 2 ^ t.width

/-- The elementwise instructions of two sources: the value of one element (R155, R156). -/
def vectorPair : Instr → Option (BitVec 7 × BitVec 7 × BitVec 7 × BitVec 3 × (EType → Rnd → Nat → Nat → Nat))
  | .vadd d a b sc => some (d, a, b, sc, fun t r => elemOp2 t r (· + ·) (FVal.add r))
  | .vsub d a b sc => some (d, a, b, sc, fun t r => elemOp2 t r (· - ·) (FVal.sub r))
  | .vmul d a b sc => some (d, a, b, sc, fun t r => elemOp2 t r (· * ·) FVal.mul)
  | .vmin d a b sc => some (d, a, b, sc, fun t r => elemOp2 t r min FVal.min)
  | .vmax d a b sc => some (d, a, b, sc, fun t r => elemOp2 t r max FVal.max)
  | .vand d a b sc => some (d, a, b, sc, fun _ _ x y => x &&& y)
  | .vor d a b sc => some (d, a, b, sc, fun _ _ x y => x ||| y)
  | .vxor d a b sc => some (d, a, b, sc, fun _ _ x y => x ^^^ y)
  | .vshl d a b sc => some (d, a, b, sc, fun t _ x y => x * 2 ^ (y % t.width))
  | .vshr d a b sc => some (d, a, b, sc, fun t _ x y => x / 2 ^ (y % t.width))
  | .vshra d a b sc => some (d, a, b, sc, fun t _ x y =>
      ((toInt true t.width x / (2 ^ (y % t.width) : Nat)) % (2 ^ t.width : Nat)).toNat)
  | _ => none

/-- The elementwise instructions of one source (R155). -/
def vectorOne : Instr → Option (BitVec 7 × BitVec 7 × BitVec 3 × (EType → Rnd → Nat → Nat))
  | .vabs d a sc => some (d, a, sc, fun t r x => elemOp2 t r (fun i _ => (i.natAbs : Int)) (fun v _ => v.absolute) x 0)
  | .vneg d a sc => some (d, a, sc, fun t r x => elemOp2 t r (fun i _ => -i) (fun v _ => v.negate) x 0)
  | .vnot d a sc => some (d, a, sc, fun t _ x => 2 ^ t.width - 1 - x)
  | _ => none

/-- The elementwise instructions that read D under R66 (R157, R158): the value over A, B and D. -/
def vectorThree : Instr → Option (BitVec 7 × BitVec 7 × BitVec 7 × BitVec 3 × (EType → Rnd → Nat → Nat → Nat → Nat))
  | .vmad d a b sc => some (d, a, b, sc, fun t r => elemOp3 t r (fun x y z => x * y + z) (FVal.fma r))
  | .vmsb d a b sc => some (d, a, b, sc, fun t r => elemOp3 t r (fun x y z => x * y - z) (fun x y z => FVal.fma r x y z.negate))
  | .vnmad d a b sc => some (d, a, b, sc, fun t r =>
      elemOp3 t r (fun x y z => z - x * y) (fun x y z => z.add r (x.mul y).negate))
  | .vclamp d a b sc => some (d, a, b, sc, fun t r x y z => elemMin t r (elemMax t r z x) y)
  | _ => none

/-- The compares: destination mask, governing mask, sources, stall count, and the condition on the order of two elements (R159). -/
def vectorCompare : Instr → Option (BitVec 3 × BitVec 3 × BitVec 7 × BitVec 7 × BitVec 3 × (Option Int → Bool))
  | .vcmpeq kd kg a b sc => some (kd, kg, a, b, sc, fun o => o == some 0)
  | .vcmpne kd kg a b sc => some (kd, kg, a, b, sc, fun o => o != some 0)
  | .vcmplt kd kg a b sc => some (kd, kg, a, b, sc, fun o => o == some (-1))
  | .vcmple kd kg a b sc => some (kd, kg, a, b, sc, fun o => o == some (-1) || o == some 0)
  | _ => none

/-- The reductions: governing mask, source, stall count, the node, and the identity (R57, R163). -/
def reductionOf : Instr → Option (BitVec 3 × BitVec 7 × BitVec 3 × (EType → Rnd → Nat → Nat → Nat) × (EType → Nat))
  | .vred kg a sc => some (kg, a, sc, elemAdd, fun _ => 0)
  | .vredmx kg a sc => some (kg, a, sc, elemMax, EType.lowest)
  | .vredmn kg a sc => some (kg, a, sc, elemMin, EType.highest)
  | _ => none

/-- The special functions (R170). -/
def specialOf : Instr → Option (BitVec 7 × BitVec 7 × BitVec 3 × (FVal → FVal))
  | .vrcp d a sc => some (d, a, sc, fun x => FVal.div (.fin ⟨1, 0⟩) x)
  | .vrsq d a sc => some (d, a, sc, FVal.rsqrt)
  | .vsqrt d a sc => some (d, a, sc, FVal.sqrt)
  | .vexp2 d a sc => some (d, a, sc, FVal.exp2)
  | .vlog2 d a sc => some (d, a, sc, FVal.log2)
  | .vsin d a sc => some (d, a, sc, FVal.sinPi)
  | .vcos d a sc => some (d, a, sc, FVal.cosPi)
  | .vtanh d a sc => some (d, a, sc, FVal.tanh)
  | _ => none

/-- The mask instructions of mask registers: destination, source, stall count, and the mask (R172). -/
def maskPair : Instr → Option (BitVec 3 × BitVec 3 × BitVec 3 × List (Fin 8) × (Mask → Mask → Mask))
  | .kand kd ks sc => some (kd, ks, sc, [kIx kd, kIx ks], fun x y => x &&& y)
  | .kor kd ks sc => some (kd, ks, sc, [kIx kd, kIx ks], fun x y => x ||| y)
  | .kxor kd ks sc => some (kd, ks, sc, [kIx kd, kIx ks], fun x y => x ^^^ y)
  | .knot kd ks sc => some (kd, ks, sc, [kIx ks], fun _ y => ~~~y)
  | _ => none

/-- The permute unit of a tile is free: it takes one operation in 4 cycles. -/
def PermuteFree (s : State) : Prop := ∀ p, (s.tile s.cur.tile).permuteAt = some p → p + 4 ≤ s.now

/-- The state once the permute unit has taken an operation. -/
def permuting (s : State) : State := s.modTile s.cur.tile fun t => { t with permuteAt := some s.now }

end Sys2Proof.Claims

/-- R148, R155, R156: each element of the result is the value of the rule over the elements of the two sources in its place. -/
def Obligations.VectorPairResult : Prop :=
  ∀ (i : Instr) (d a b : BitVec 7) (sc : BitVec 3) (f : EType → Rnd → Nat → Nat → Nat), vectorPair i = some (d, a, b, sc, f) →
  ∀ (s : State) (c : Ctx), Issues s c → Clear (s.view c) (vusesDAB d a b) [] (some (s.view c).etype.width) →
    let t := (s.view c).etype
    ∃ r, Gives (exec i s) (s.view c) d (.vector r) sc ∧
      Elements t r fun k => f t (s.view c).rnd (elem t ((s.view c).vector t 2 a) k) (elem t ((s.view c).vector t 3 b) k)

/-- R155, R157, R158, R66: the same of one source, and of the instructions that read D before they write it. -/
def Obligations.VectorOneAndThreeResult : Prop :=
  (∀ (i : Instr) (d a : BitVec 7) (sc : BitVec 3) (f : EType → Rnd → Nat → Nat), vectorOne i = some (d, a, sc, f) →
    ∀ (s : State) (c : Ctx), Issues s c → Clear (s.view c) (vusesDA d a) [] (some (s.view c).etype.width) →
      let t := (s.view c).etype
      ∃ r, Gives (exec i s) (s.view c) d (.vector r) sc ∧
        Elements t r fun k => f t (s.view c).rnd (elem t ((s.view c).vector t 2 a) k)) ∧
  (∀ (i : Instr) (d a b : BitVec 7) (sc : BitVec 3) (f : EType → Rnd → Nat → Nat → Nat → Nat), vectorThree i = some (d, a, b, sc, f) →
    ∀ (s : State) (c : Ctx), Issues s c → Clear (s.view c) (vusesRwAB d a b) [] (some (s.view c).etype.width) →
      let t := (s.view c).etype
      ∃ r, Gives (exec i s) (s.view c) d (.vector r) sc ∧
        Elements t r fun k => f t (s.view c).rnd (elem t ((s.view c).vector t 2 a) k) (elem t ((s.view c).vector t 3 b) k)
          (elem t ((s.view c).vector t 1 d) k))

/-- R159, R21: a compare writes all 256 bits of its mask: 1 at the active positions below the element count whose elements meet the
condition, 0 at every other. It pushes nothing. -/
def Sys2Proof.Claims.VectorCompareResult : Prop :=
  ∀ (i : Instr) (kd kg : BitVec 3) (a b : BitVec 7) (sc : BitVec 3) (cond : Option Int → Bool), vectorCompare i = some (kd, kg, a, b, sc, cond) →
  ∀ (s : State) (c : Ctx), Issues s c →
    Clear (s.view c) [⟨2, a, .src true⟩, ⟨3, b, .src true⟩] (govMasks kg) (some (s.view c).etype.width) →
    let t := (s.view c).etype
    ∃ m, Marks (exec i s) (s.view c) (kIx kd) m sc ∧
      ∀ k, k < 256 → m.getLsbD k = (decide (k < 2048 / t.width) && ((s.view c).governing (kIx kg)).getLsbD k &&
        cond (elemCmp t (elem t ((s.view c).vector t 2 a) k) (elem t ((s.view c).vector t 3 b) k)))

/-- R160, R165, R166: VSEL takes each element from A where the mask is 1 and from B elsewhere; VIOTA counts the active positions below each
position; VBCAST repeats the element B names (0 past the last); VEXT gives that element as a scalar; VINS replaces it. -/
def Sys2Proof.Claims.VectorElementMoves : Prop :=
  ∀ (kg : BitVec 3) (d a b : BitVec 7) (sc : BitVec 3) (s : State) (c : Ctx), Issues s c →
    let v := s.view c
    let t := v.etype
    let n := 2048 / t.width
    let j := (v.scalar 3 b).toNat
    (Clear v [⟨2, a, .src true⟩, ⟨3, b, .src true⟩] (govMasks kg) (some t.width) → ∃ r, Gives (exec (.vsel kg a b sc) s) v 0 (.vector r) sc ∧
      Elements t r fun k => if (v.governing (kIx kg)).getLsbD k then elem t (v.vector t 2 a) k else elem t (v.vector t 3 b) k) ∧
    (Clear v [] (govMasks kg) (some t.width) → ∃ r, Gives (exec (.viota kg sc) s) v 0 (.vector r) sc ∧
      Elements t r fun k => elemOfNat t ((List.range k).countP fun i => (v.governing (kIx kg)).getLsbD i)) ∧
    (Clear v [⟨1, d, .dst true⟩, ⟨2, a, .src true⟩, ⟨3, b, .src false⟩] [] (some t.width) →
      ∃ r, Gives (exec (.vbcast d a b sc) s) v d (.vector r) sc ∧
        Elements t r fun _ => if j < n then elem t (v.vector t 2 a) j else 0) ∧
    (Clear v [⟨1, d, .dst false⟩, ⟨2, a, .src true⟩, ⟨3, b, .src false⟩] [] (some t.width) →
      Gives (exec (.vext d a b sc) s) v d
        (.scalar (if j < n then BitVec.ofInt 64 (toInt t.signed t.width (elem t (v.vector t 2 a) j)) else 0)) sc) ∧
    (Clear v [⟨1, d, .rw true⟩, ⟨2, a, .src false⟩, ⟨3, b, .src false⟩] [] (some t.width) →
      ∃ r, Gives (exec (.vins d a b sc) s) v d (.vector r) sc ∧
        Elements t r fun k => if k = j then (v.scalar 2 a).toNat else elem t (v.vector t 1 d) k)

/-- R161, R162, R152: VCVT converts each element once and places the results by PART; VCVTS divides each element by its block's scale, or
gives the scales; a PART that breaks its rule is ILLEGAL with the word in TRAPVAL. -/
def Sys2Proof.Claims.VectorConversions : Prop :=
  ∀ (d a imm : BitVec 7) (sc : BitVec 3) (s : State) (c : Ctx), Issues s c →
    let v := s.view c
    let e := v.etype
    let f := Format.ofCode (imm.toNat % 16)
    let src := if imm.getLsbD 4 then Format.elem e else f
    let dst := if imm.getLsbD 4 then f else Format.elem e
    let lidBad (u : Use) : Bool := u.field == 2 && Opnd.of u.code == .lid && (match src with | .taper _ => true | .elem _ => false)
    let xs := (rowElems src.width (v.vectorIn src 2 a)).map fun x => dst.encode v.rnd (src.decode x)
    let tp : Taper := if imm.toNat % 16 = 9 then .t8 else .t6
    let blocks := (chunks 32 8 (rowElems e.width (v.vector e 2 a))).map fun b => b.map e.decode
    let us : List Use := [⟨1, d, .dst !imm.getLsbD 4⟩, ⟨2, a, .src true⟩]
    (v.checkWith (vusesDA d a) [] (fun u => some (if u.field = 1 then dst.width else src.width)) lidBad = .ok () →
      v.keepRoom (vusesDA d a) = .ok () →
      (∀ ys, placed (imm.toNat / 32) (2048 / src.width) (2048 / dst.width) xs = some ys →
        Gives (exec (.vcvt d a imm sc) s) v d (.vector (rowOfElems dst.width ys)) sc) ∧
      (v.specOpen = false → placed (imm.toNat / 32) (2048 / src.width) (2048 / dst.width) xs = none →
        Traps (exec (.vcvt d a imm sc) s) s c Cause.illegal s.cur.illegalValue)) ∧
    (v.checkWith us [] (fun u => if u.field = 1 then (if imm.getLsbD 4 then none else some 8) else some e.width) (fun _ => false) = .ok () →
      v.keepRoom us = .ok () →
      (imm.getLsbD 4 = true → Gives (exec (.vcvts d a imm sc) s) v d (.scalar (BitVec.ofNat 64 (pack 8 (blocks.map blockScale)))) sc) ∧
      (imm.getLsbD 4 = false → ∀ ys,
        placed (imm.toNat / 32) e.count 256 (blocks.map fun b => b.map (scaledEncode tp (blockScale b))).flatten = some ys →
        Gives (exec (.vcvts d a imm sc) s) v d (.vector (rowOfElems 8 ys)) sc))

/-- R57, R163, R164: a reduction gives the tree over the active elements in order, sign-extended for the signed types, and the identity when
none is active; VSCAN gives the running sum, an inactive position repeating the sum below it. -/
def Obligations.VectorReductions : Prop :=
  (∀ (i : Instr) (kg : BitVec 3) (a : BitVec 7) (sc : BitVec 3) (node : EType → Rnd → Nat → Nat → Nat) (identity : EType → Nat),
    reductionOf i = some (kg, a, sc, node, identity) →
    ∀ (s : State) (c : Ctx), Issues s c → Clear (s.view c) [⟨2, a, .src true⟩] (govMasks kg) (some (s.view c).etype.width) →
      let t := (s.view c).etype
      let x := reduceTree (node t (s.view c).rnd) (identity t) (activeElems t ((s.view c).governing (kIx kg)) ((s.view c).vector t 2 a))
      Gives (exec i s) (s.view c) 0 (.scalar (BitVec.ofInt 64 (toInt t.signed t.width x))) sc) ∧
  (∀ (kg : BitVec 3) (a : BitVec 7) (sc : BitVec 3) (s : State) (c : Ctx), Issues s c →
    Clear (s.view c) [⟨2, a, .src true⟩] (govMasks kg) (some (s.view c).etype.width) →
      let t := (s.view c).etype
      Gives (exec (.vscan kg a sc) s) (s.view c) 0 (.vector (rowOfElems t.width (scanFrom (elemAdd t (s.view c).rnd) none
        (activeElems t ((s.view c).governing (kIx kg)) ((s.view c).vector t 2 a))))) sc)

/-- R167 to R169: VPERM takes the element that B's natural element names (0 past the last), VCMPR packs the active elements from position 0
and VEXPD spreads elements over the active positions, each holding the permute unit; VSHUF moves elements by its pattern. -/
def Sys2Proof.Claims.VectorPermutes : Prop :=
  ∀ (kg : BitVec 3) (d a b imm : BitVec 7) (sc : BitVec 3) (s : State) (c : Ctx), Issues s c →
    let v := s.view c
    let t := v.etype
    let n := 2048 / t.width
    (PermuteFree s → Clear v (vusesDAB d a b) [] (some t.width) → ∃ r, Gives (exec (.vperm d a b sc) s) ((permuting s).view c) d (.vector r) sc ∧
      Elements t r fun k => let j := elem t (v.vector t 3 b) k; if j < n then elem t (v.vector t 2 a) j else 0) ∧
    (PermuteFree s → Clear v [⟨2, a, .src true⟩] (govMasks kg) (some t.width) →
      Gives (exec (.vcmpr kg a sc) s) ((permuting s).view c) 0 (.vector (rowOfElems t.width
        (let ys := (activeElems t (v.governing (kIx kg)) (v.vector t 2 a)).filterMap id
         ys ++ List.replicate (n - ys.length) 0))) sc ∧
      ∃ r, Gives (exec (.vexpd kg a sc) s) ((permuting s).view c) 0 (.vector r) sc ∧
        Elements t r fun k => if (v.governing (kIx kg)).getLsbD k
          then elem t (v.vector t 2 a) ((List.range k).countP fun i => (v.governing (kIx kg)).getLsbD i) else 0) ∧
    (Clear v (vusesDA d a) [] (some t.width) →
      let kind := imm.toNat / 16
      let p := imm.toNat % 16
      (¬(kind ≤ 3 ∧ n ≤ 2 ^ p) → ∃ r, Gives (exec (.vshuf d a imm sc) s) v d (.vector r) sc ∧
        Elements t r fun k => match shufflePos kind p n k with
          | some j => if j < n then elem t (v.vector t 2 a) j else 0
          | none => 0) ∧
      (v.specOpen = false → kind ≤ 3 → n ≤ 2 ^ p → Traps (exec (.vshuf d a imm sc) s) s c Cause.illegal s.cur.illegalValue))

/-- R170, R171, R152: a special function of a floating type gives its value rounded once; of an integer type it is ILLEGAL. VDIV divides
element by element, holds the berth's vector divider for its latency, and waits while that is busy. -/
def Sys2Proof.Claims.VectorSpecialAndDivide : Prop :=
  (∀ (i : Instr) (d a : BitVec 7) (sc : BitVec 3) (f : FVal → FVal), specialOf i = some (d, a, sc, f) →
    ∀ (s : State) (c : Ctx), Issues s c → Clear (s.view c) (vusesDA d a) [] (some (s.view c).etype.width) →
      let t := (s.view c).etype
      (∀ g, t.fmt? = some g → ∃ r, Gives (exec i s) (s.view c) d (.vector r) sc ∧
        Elements t r fun k => g.encode (s.view c).rnd (f (g.decode (elem t ((s.view c).vector t 2 a) k)))) ∧
      ((s.view c).specOpen = false → t.fmt? = none → Traps (exec i s) s c Cause.illegal s.cur.illegalValue)) ∧
  (∀ (d a b : BitVec 7) (sc : BitVec 3) (s : State) (c : Ctx), Issues s c →
    Clear (s.view c) (vusesDAB d a b) [] (some (s.view c).etype.width) →
      let t := (s.view c).etype
      (c.vdivFree ≤ s.now → ∃ r,
        Gives (exec (.vdiv d a b sc) s) (s.view { c with vdivFree := s.now + (t.width + 8) }) d (.vector r) sc ∧
        Elements t r fun k => elemDiv t (s.view c).rnd (elem t ((s.view c).vector t 2 a) k) (elem t ((s.view c).vector t 3 b) k)) ∧
      (s.now < c.vdivFree → exec (.vdiv d a b sc) s = .next (holdIssue s)))

/-- R172, R173: the mask instructions write all 256 bits and push nothing; KSET sets the bits below its count; KPOP and KFIRST push the
number of set bits, and the place of the lowest, among the positions of VTYPE. -/
def Sys2Proof.Claims.MaskResults : Prop :=
  (∀ (i : Instr) (kd ks : BitVec 3) (sc : BitVec 3) (ms : List (Fin 8)) (f : Mask → Mask → Mask), maskPair i = some (kd, ks, sc, ms, f) →
    ∀ (s : State) (c : Ctx), Issues s c → Clear (s.view c) [] ms →
      Marks (exec i s) (s.view c) (kIx kd) (f (c.staleMask (kIx kd)) (c.staleMask (kIx ks))) sc) ∧
  (∀ (kd : BitVec 3) (a : BitVec 7) (sc : BitVec 3) (s : State) (c : Ctx), Issues s c → Clear (s.view c) [⟨2, a, .src false⟩] →
    ∃ m, Marks (exec (.kset kd a sc) s) (s.view c) (kIx kd) m sc ∧ ∀ k, k < 256 → m.getLsbD k = decide (k < ((s.view c).scalar 2 a).toNat)) ∧
  (∀ (ks : BitVec 3) (sc : BitVec 3) (s : State) (c : Ctx), Issues s c → Clear (s.view c) [] [kIx ks] →
    let bits := (List.range (2048 / (s.view c).etype.width)).map fun k => (c.staleMask (kIx ks)).getLsbD k
    Gives (exec (.kpop ks sc) s) (s.view c) 0 (.scalar (BitVec.ofNat 64 (bits.count true))) sc ∧
    Gives (exec (.kfirst ks sc) s) (s.view c) 0 (.scalar (BitVec.ofNat 64 (bits.takeWhile (!·)).length)) sc)

/-- R154: VSET writes bits 5 to 0 of its immediate to VTYPE and gives the element count of the new type. -/
def Sys2Proof.Claims.VsetResult : Prop :=
  ∀ (d : BitVec 7) (imm : BitVec 14) (sc : BitVec 3) (s : State) (c : Ctx), Issues s c → Clear (s.view c) [⟨1, d, .dst false⟩] →
    Gives (exec (.vset d imm sc) s) (s.view { c with cr := { c.cr with vtype := imm.extractLsb' 0 6 } }) d
      (.scalar (BitVec.ofNat 64 (2048 / (EType.ofCode (imm.toNat % 16)).width))) sc

/-- R154, R159, R172, R173: the compares, the mask instructions and VSET. -/
def Obligations.VectorMasks : Prop :=
  Sys2Proof.Claims.VectorCompareResult ∧ Sys2Proof.Claims.MaskResults ∧ Sys2Proof.Claims.VsetResult

/-- R160, R165 to R169: selections, moves of elements, and permutes. -/
def Obligations.VectorMoves : Prop :=
  Sys2Proof.Claims.VectorElementMoves ∧ Sys2Proof.Claims.VectorPermutes

/-- R161, R162, R170, R171: conversions, the special functions and VDIV. How a special function of a value is rounded once is the model's choice
(assumption 12). -/
def Obligations.VectorConversionsAndFunctions : Prop :=
  Sys2Proof.Claims.VectorConversions ∧ Sys2Proof.Claims.VectorSpecialAndDivide

namespace Sys2Proof.Claims

/-! ## Near memory (R175 to R183) -/

/-- Nothing holds the berth's next near access back: no LDA's acquire, and no VSCT (R179, R182). -/
def Quiet (s : State) (c : Ctx) : Prop := c.acquireUntil ≤ s.now ∧ (s.tile s.cur.tile).sliceHeld ≤ s.now

/-- A pointer that the berth may dereference for `len` bytes at an alignment, no matrix operation of it holding the bytes (R38, R234). -/
def Near (v : View) (p : Word) (len align off : Nat) : Prop := v.nearOff p len align = some off ∧ v.scaleBusy off len = false

/-- The near scalar loads: destination, pointer, step, stall count, bytes, and whether signed (R178). -/
def loadOf : Instr → Option (BitVec 7 × BitVec 7 × BitVec 7 × BitVec 3 × Nat × Bool)
  | .ldb d a imm sc => some (d, a, imm, sc, 1, true)
  | .ldbn d a imm sc => some (d, a, imm, sc, 1, false)
  | .ldh d a imm sc => some (d, a, imm, sc, 2, true)
  | .ldhn d a imm sc => some (d, a, imm, sc, 2, false)
  | .ldw d a imm sc => some (d, a, imm, sc, 4, true)
  | .ldwn d a imm sc => some (d, a, imm, sc, 4, false)
  | .ldd d a imm sc => some (d, a, imm, sc, 8, false)
  | _ => none

/-- The near scalar stores: source, pointer, step, stall count, and bytes (R178). -/
def storeOf : Instr → Option (BitVec 7 × BitVec 7 × BitVec 7 × BitVec 3 × Nat)
  | .stb d a imm sc => some (d, a, imm, sc, 1)
  | .sth d a imm sc => some (d, a, imm, sc, 2)
  | .stw d a imm sc => some (d, a, imm, sc, 4)
  | .std d a imm sc => some (d, a, imm, sc, 8)
  | _ => none

/-- The integer that `size` bytes hold, byte 0 lowest, as a 64-bit value (R41, R178). -/
def loaded (signed : Bool) (bs : List Byte) : Word :=
  let x := (bs.zipIdx.map fun (b, i) => b.toNat * 2 ^ (8 * i)).sum
  BitVec.ofInt 64 (if signed && decide (2 ^ (8 * bs.length) ≤ 2 * x) then (x : Int) - 2 ^ (8 * bs.length) else x)

/-- Byte `i` of a value (R41). -/
def byteOf (x i : Nat) : Byte := BitVec.ofNat 8 (x / 2 ^ (8 * i))

/-- A context with an item at the end of its open segment or buffer (R294). -/
def Ctx.buffering (c : Ctx) (is : List Item) : Ctx := { c with buf := c.buf ++ is }

/-- The accesses of one element each: destination or source row, pointer, displacement operand, stall count, whether B holds indices, and
whether it stores (R181, R182). -/
def elemAccess : Instr → Option (BitVec 7 × BitVec 7 × BitVec 7 × BitVec 3 × Bool × Bool)
  | .vlds d a b sc => some (d, a, b, sc, false, false)
  | .vsts d a b sc => some (d, a, b, sc, false, true)
  | .vgth d a b sc => some (d, a, b, sc, true, false)
  | .vsct d a b sc => some (d, a, b, sc, true, true)
  | _ => none

/-- The slice offset of element `k` of such an access: the pointer's offset and a stride or an index, modulo 0x20000. -/
def elemAddress (v : View) (a b : BitVec 7) (gather : Bool) (k : Nat) : Nat :=
  let disp : Int := if gather then elem v.etype (v.vector v.etype 3 b) k else k * (v.scalar 3 b).toInt
  (((offOf (v.scalar 2 a) : Int) + disp) % 0x20000).toNat

end Sys2Proof.Claims

/-- R175, R178, R37, R288: a near load at an aligned near pointer of its own tile gives the bytes as the berth sees them; another pointer is
WINDOW and poisoned bytes are POISON, with the effective pointer in TRAPVAL. -/
def Sys2Proof.Claims.NearLoadResult : Prop :=
  ∀ (i : Instr) (d a imm : BitVec 7) (sc : BitVec 3) (size : Nat) (signed : Bool), loadOf i = some (d, a, imm, sc, size, signed) →
  ∀ (s : State) (c : Ctx), Issues s c → Clear (s.view c) (usesDA d a) → Quiet s c →
    let v := s.view c
    let p := stepPointer (v.scalar 2 a) (size * imm.toInt)
    (∀ off, Near v p size size off → v.nearPoison off size = false →
      Gives (exec i s) (v.stamp off size) d (.scalar (loaded signed (v.readNear off size))) sc) ∧
    (v.specOpen = false → v.nearOff p size size = none → Traps (exec i s) s c Cause.window p) ∧
    (v.specOpen = false → ∀ off, Near v p size size off → v.nearPoison off size = true → Traps (exec i s) s c Cause.poison p)

/-- R178, R176, R302: a near store at an aligned near pointer of its own tile joins the open segment, and from then on the berth reads its
bytes there and every other byte as before; memory itself is unchanged. A full store buffer is RINGOVER, another pointer WINDOW. -/
def Obligations.NearStoreEffect : Prop :=
  ∀ (i : Instr) (d a imm : BitVec 7) (sc : BitVec 3) (size : Nat), storeOf i = some (d, a, imm, sc, size) →
  ∀ (s : State) (c : Ctx), Issues s c → (s.view c).specOpen = false → Clear (s.view c) (storeUses d a) → Quiet s c →
    let v := s.view c
    let p := stepPointer (v.scalar 2 a) (size * imm.toInt)
    let x := (v.scalar 1 d).toNat
    (∀ off, Near v p size size off →
      let c1 := Ctx.buffering c [.store off ((List.range size).map (byteOf x))]
      (c1.storeEntries ≤ 256 → Ends (exec i s) (s.view c1) sc ∧
        ∀ t c', exec i s = .next t → t.ctx? s.cur.tile s.cur.berth = some c' → ∀ o,
          (t.view c').readNear o 1 = if off ≤ o ∧ o < off + size then [byteOf x (o - off)] else v.readNear o 1) ∧
      (256 < c1.storeEntries → Traps (exec i s) s c Cause.ringover p)) ∧
    (v.nearOff p size size = none → Traps (exec i s) s c Cause.window p)

/-- R179, R195, R294: LDA gives what LDD gives and holds later accesses until its value exists; STL of a FREE task adds its store to the
segment, passes the segment's checks and closes it; of an ordered task it is FENCECLASS. The model's choices and readings here: assumption
60. -/
def Obligations.AcquireAndRelease : Prop :=
  ∀ (d a imm : BitVec 7) (sc : BitVec 3) (s : State) (c : Ctx), Issues s c → Quiet s c →
    let v := s.view c
    let p := stepPointer (v.scalar 2 a) (8 * imm.toInt)
    (Clear v (usesDA d a) → ∀ off, Near v p 8 8 off → v.nearPoison off 8 = false →
      Gives (exec (.lda d a imm sc) s) ((s.view { c with acquireUntil := s.now + 4 }).stamp off 8) d
        (.scalar (loaded false (v.readNear off 8))) sc) ∧
    (v.specOpen = false → c.task.cls = 0 → Clear v (storeUses d a) → ∀ off, Near v p 8 8 off →
      let c1 := Ctx.buffering c [.store off ((List.range 8).map (byteOf (v.scalar 1 d).toNat))]
      c1.storeEntries ≤ 256 → ∀ w, (s.view c1).checkSegment = .ok w → Ends (exec (.stl d a imm sc) s) w.closeSegment sc) ∧
    (v.specOpen = false → c.task.cls ≠ 0 → Clear v (storeUses d a) →
      Traps (exec (.stl d a imm sc) s) s c Cause.fenceclass (BitVec.ofNat 64 s.cur.word.toNat))

/-- R180: VLD gives the 256 bytes at its pointer, and VST buffers the 256 bytes of its source; the offset is a multiple of 64. -/
def Sys2Proof.Claims.VectorLoadStore : Prop :=
  ∀ (d a imm : BitVec 7) (sc : BitVec 3) (s : State) (c : Ctx), Issues s c → Quiet s c →
    let v := s.view c
    let p := stepPointer (v.scalar 2 a) (256 * imm.toInt)
    (v.mcheck [⟨1, d, .dst true⟩, ⟨2, a, .src false⟩] = .ok () →
      (∀ off, Near v p 256 64 off → v.nearPoison off 256 = false →
        Gives (exec (.vld d a imm sc) s) (v.stamp off 256) d (.vector (rowOfBytes (v.readNear off 256))) sc) ∧
      (v.specOpen = false → v.nearOff p 256 64 = none → Traps (exec (.vld d a imm sc) s) s c Cause.window p)) ∧
    (v.specOpen = false → v.mcheck [⟨1, d, .src true⟩, ⟨2, a, .src false⟩] = .ok () →
      (∀ off, Near v p 256 64 off →
        let c1 := Ctx.buffering c [.store off ((List.range 256).map (byteOf (v.vector v.etype 1 d).toNat))]
        c1.storeEntries ≤ 256 → Ends (exec (.vst d a imm sc) s) (s.view c1) sc) ∧
      (v.nearOff p 256 64 = none → Traps (exec (.vst d a imm sc) s) s c Cause.window p))

/-- R181, R182: the strided and indexed accesses move each element at its own offset, and stores buffer them lowest element first; the lowest
element whose offset is not a multiple of its bytes is WINDOW, before any moves. -/
def Sys2Proof.Claims.ElementAccess : Prop :=
  ∀ (i : Instr) (d a b : BitVec 7) (sc : BitVec 3) (gather store : Bool), elemAccess i = some (d, a, b, sc, gather, store) →
  ∀ (s : State) (c : Ctx), Issues s c → Quiet s c → (s.view c).specOpen = false →
    let v := s.view c
    let t := v.etype
    let w := t.width / 8
    let offs := (List.range (2048 / t.width)).map (elemAddress v a b gather)
    let ok (o : Nat) : Prop := o % w = 0 ∧ o + w ≤ s.sliceLimit s.cur.tile
    v.mcheck [⟨1, d, if store then .src true else .dst true⟩, ⟨2, a, .src false⟩, ⟨3, b, .src gather⟩] = .ok () →
    Near v (v.scalar 2 a) 1 1 (offOf (v.scalar 2 a)) →
    ((∀ o ∈ offs, ok o ∧ v.scaleBusy o w = false) →
      (store = false → (∀ o ∈ offs, v.nearPoison o w = false) → ∃ r, Gives (exec i s) (v.stampAll w offs) d (.vector r) sc ∧
        Elements t r fun k => (v.readNear (elemAddress v a b gather k) w).zipIdx.foldr (fun x n => x.1.toNat * 2 ^ (8 * x.2) + n) 0) ∧
      (store = true →
        let items := offs.zipIdx.map fun (o, k) => Item.store o ((List.range w).map (byteOf (elem t (v.vector t 1 d) k)))
        let hold := if gather then s.now + ((storeLines items).length + 7) / 8 else (s.tile s.cur.tile).sliceHeld
        (Ctx.buffering c items).storeEntries ≤ 256 →
        Ends (exec i s) ((if gather then s.modTile s.cur.tile fun t => { t with sliceHeld := hold } else s).view (Ctx.buffering c items)) sc)) ∧
    (∀ k, k < 2048 / t.width → ¬ ok (elemAddress v a b gather k) → (∀ j, j < k → ok (elemAddress v a b gather j)) →
      Traps (exec i s) s c Cause.window (nearPtr (tagOf (v.scalar 2 a)) (elemAddress v a b gather k)))

/-- R183: LDP gives 8 bytes of a row and STP writes 8 bytes of a row, by a private pointer below MWL rows; every other row is unchanged. -/
def Sys2Proof.Claims.PrivateAccess : Prop :=
  ∀ (d a imm : BitVec 7) (sc : BitVec 3) (s : State) (c : Ctx), Issues s c → c.acquireUntil ≤ s.now →
    let v := s.view c
    let p := stepPointer (v.scalar 2 a) (8 * imm.toInt)
    let o := (p.extractLsb' 0 60).toNat
    let row := o / 256
    let sh := 8 * (o % 256)
    let valid := winOf p = 0 ∧ o % 8 = 0 ∧ o < c.cr.mwl.toNat * 256
    (Clear v (usesDA d a) →
      (valid → (∀ x ∈ c.pend, x.writes (.row row) = true → x.doneAt ≤ s.now) → ¬ (row, o % 256 / 8) ∈ c.rowPoison →
        Gives (exec (.ldp d a imm sc) s) v d (.scalar ((rowsGet c.rows row).extractLsb' sh 64)) sc) ∧
      (¬ valid → v.specOpen = false → Traps (exec (.ldp d a imm sc) s) s c Cause.window p)) ∧
    (v.specOpen = false → Clear v (storeUses d a) →
      (valid → v.keepRow row p = .ok () → ∃ r, Ends (exec (.stp d a imm sc) s) (v.writeRowNow row r) sc ∧
        r.extractLsb' sh 64 = v.scalar 1 d ∧ (∀ k, k < sh ∨ sh + 64 ≤ k → r.getLsbD k = (rowsGet c.rows row).getLsbD k) ∧
        ∀ t c', exec (.stp d a imm sc) s = .next t → t.ctx? s.cur.tile s.cur.berth = some c' →
          ∀ n, n < 896 → rowsGet c'.rows n = if n = row then r else rowsGet c.rows n) ∧
      (¬ valid → Traps (exec (.stp d a imm sc) s) s c Cause.window p))

/-- R175, R178, R183: near loads, and loads and stores of the berth's own rows. -/
def Obligations.NearAndPrivateLoads : Prop :=
  Sys2Proof.Claims.NearLoadResult ∧ Sys2Proof.Claims.PrivateAccess

/-- R180 to R182: vector accesses of one run, and of one element each. -/
def Obligations.VectorAccess : Prop :=
  Sys2Proof.Claims.VectorLoadStore ∧ Sys2Proof.Claims.ElementAccess

namespace Sys2Proof.Claims

/-! ## Split-phase accesses, pointers, atomics and barriers (R184 to R199) -/

/-- The context after a GET, or a remote ACAS, has kept the resident rows that it will write (R299). -/
def Ctx.keeping (c : Ctx) (first n : Nat) : Ctx :=
  if c.task.cls = 0 then c
  else { c with kept := (natsFrom first n).foldl (fun k r => if r < c.resident ∧ (lookup r k).isNone = true
    then insertAt r (rowsGet c.rows r) k else k) c.kept }

/-- The atomics: destination, pointer, operand, stall count, number, and the new value over the old and the operand (R191). -/
def atomicOf : Instr → Option (BitVec 7 × BitVec 7 × BitVec 7 × BitVec 3 × Nat × (Word → Word → Word))
  | .aadd d a b sc => some (d, a, b, sc, 0, fun x y => BitVec.ofNat 64 (x.toNat + y.toNat))
  | .aand d a b sc => some (d, a, b, sc, 1, fun x y => x &&& y)
  | .aor d a b sc => some (d, a, b, sc, 2, fun x y => x ||| y)
  | .axor d a b sc => some (d, a, b, sc, 3, fun x y => x ^^^ y)
  | .amin d a b sc => some (d, a, b, sc, 4, fun x y => if x.toInt ≤ y.toInt then x else y)
  | .amax d a b sc => some (d, a, b, sc, 5, fun x y => if y.toInt ≤ x.toInt then x else y)
  | .aminn d a b sc => some (d, a, b, sc, 6, fun x y => if x.toNat ≤ y.toNat then x else y)
  | .amaxn d a b sc => some (d, a, b, sc, 7, fun x y => if y.toNat ≤ x.toNat then x else y)
  | .aswp d a b sc => some (d, a, b, sc, 8, fun _ y => y)
  | _ => none

/-- The 8-byte word of a slice at an offset, as memory holds it (R41). -/
def sliceWord (s : State) (agent off : Nat) : Word := BitVec.ofNat 64 (leNat (s.readSlice agent off 8))

/-- Only the bytes of one run have changed between two memories. -/
def OnlyBytes (m m' : List Host.Cell) (pa len : Nat) : Prop := ∀ a, a < pa ∨ pa + len ≤ a → Mem.read m' a = Mem.read m a

/-- Every write that a berth has sent is performed, and every GET of it has read (R306). -/
def Performed (s : State) (n b : Nat) : Prop :=
  ∀ f ∈ s.flights, f.issuer.tile = n → f.issuer.berth = b → s.unperformed f = false ∧ (f.kind.isGet = true → f.performed = true)

/-- Nothing that the berth has released is still held back or on its way (R295, R309). -/
def Released (s : State) (c : Ctx) : Prop :=
  (s.berth s.cur.tile s.cur.berth).holdUntil ≤ s.chron ∧ (s.tile s.cur.tile).held = [] ∧ c.deferred = [] ∧
  Performed s s.cur.tile s.cur.berth

/-- The barrier instructions of a byte count (R198). -/
def barrierReady (s : State) (c : Ctx) (a b : BitVec 7) (off : Nat) : Prop :=
  (s.view c).specOpen = false ∧ Clear (s.view c) (barUses a b) ∧ Quiet s c ∧ Near (s.view c) ((s.view c).scalar 2 a) 16 16 off

end Sys2Proof.Claims

/-- R184, R185, R187, R188: a GET whose window checks pass leaves the berth with its row, and one whose checks fail becomes the task's pending
fault, the earliest issued standing; both complete at issue. A seventeenth access in flight waits, and so does a GET of bytes that a write
which the berth has released has not reached; resident rows that the store buffer has no room to keep are RINGOVER. -/
def Sys2Proof.Claims.GetEffect : Prop :=
  ∀ (d a b : BitVec 7) (sc : BitVec 3) (s : State) (c : Ctx) (first n : Nat), Issues s c → (s.view c).specOpen = false →
    (s.view c).runCheck d a b false = .ok (first, n) → c.acquireUntil ≤ s.now →
    let v := s.view c
    let p := v.scalar 2 a
    let ctl := v.scalar 3 b
    let out := s.inFlight s.cur.tile s.cur.berth + (c.deferred.filter Deferred.isGet).length
    let new := (natsFrom first n).filter fun r => decide (c.task.cls ≠ 0 ∧ r < c.resident ∧ (lookup r c.kept).isNone = true)
    v.ctlCheck p ctl false = .ok () →
    (new ≠ [] → 256 < c.storeEntries + 4 * new.length → Traps (exec (.get d a b sc) s) s c Cause.ringover p) ∧
    (new = [] ∨ c.storeEntries + 4 * new.length ≤ 256 →
      (16 ≤ out → exec (.get d a b sc) s = .next (holdIssue s)) ∧
      (out < 16 →
      (∀ pl, s.place s.cur.tile c.ctxnum p (ctlLen ctl) = some pl → offOf p % 16 = 0 → v.ownWriteOut pl (ctlLen ctl) = true →
        exec (.get d a b sc) s = .next (holdIssue s)) ∧
      (∀ pl, s.place s.cur.tile c.ctxnum p (ctlLen ctl) = some pl → offOf p % 16 = 0 → v.ownWriteOut pl (ctlLen ctl) = false →
        let c1 := Ctx.keeping { c with unchecked := match pl with | .ext _ => c.unchecked ++ [s.nextId] | _ => c.unchecked } first n
        let s1 := s.sendAccess v.issuer (.get p ctl first) p (ctlLen ctl)
        Ends (exec (.get d a b sc) s) (s1.view c1) sc ∧ ∃ f ∈ s1.flights, f.id = s.nextId ∧ f.kind = .get p ctl first) ∧
      (s.place s.cur.tile c.ctxnum p (ctlLen ctl) = none ∨ offOf p % 16 ≠ 0 →
        Ends (exec (.get d a b sc) s) (s.view (if c.fault.isSome ∧ c.faultAt ≤ s.nextId then c
          else { c with fault := some (Cause.window, p), faultAt := s.nextId })) sc)))

/-- R184, R186: a PUT captures the bytes of its rows at issue and joins the open segment or the task's buffer; a control word with a reserved
bit, or one that accumulates outside external memory, is ILLEGAL with the word in TRAPVAL. -/
def Sys2Proof.Claims.PutEffect : Prop :=
  ∀ (d a b : BitVec 7) (sc : BitVec 3) (s : State) (c : Ctx) (first n : Nat), Issues s c → (s.view c).specOpen = false →
    (s.view c).runCheck d a b true = .ok (first, n) → c.acquireUntil ≤ s.now →
    let v := s.view c
    let p := v.scalar 2 a
    let ctl := v.scalar 3 b
    let len := 16 * ((ctl.extractLsb' 17 6).toNat + 1)
    (v.ctlCheck p ctl true = .ok () → Ends (exec (.put d a b sc) s) (s.view (Ctx.buffering c [.put p ctl
      ((List.range len).map fun j => byteOf (v.staleRow (first + j / 256)).toNat (j % 256))])) sc) ∧
    (ctl.toNat / 2 ^ 38 ≠ 0 ∨ ctl.toNat % 16 ≠ 0 ∨ (ctl.getLsbD 23 = true ∧ winOf p ≠ 4) →
      Traps (exec (.put d a b sc) s) s c Cause.illegal ctl)

/-- R189, R190: SPTEST gives the window in bits 3 to 0, DIRECT in 4, LOCAL in 5 and INRANGE in 6, and never traps on its value; SPCAST gives
the converted pointer, whose offset is the same, or is WINDOW with the pointer in TRAPVAL. -/
def Obligations.PointerResults : Prop :=
  ∀ (d a imm : BitVec 7) (sc : BitVec 3) (s : State) (c : Ctx), Issues s c → Clear (s.view c) (usesDA d a) →
    let v := s.view c
    let p := v.scalar 2 a
    (∃ x : Word, Gives (exec (.sptest d a sc) s) v d (.scalar x) sc ∧ x.toNat < 128 ∧ x.extractLsb' 0 4 = p.extractLsb' 60 4 ∧
      x.getLsbD 6 = v.inRange p ∧
      (x.getLsbD 5 = true ↔ v.inRange p = true ∧ (winOf p = 0 ∨ (winOf p = 1 ∧ tagOf p = c.cr.tilev.toNat) ∨
        (winOf p = 2 ∧ dieTile (dieOf s.cur.tile) (tagOf p) = s.cur.tile) ∨
        (winOf p = 3 ∧ tagOf p = c.cr.tilev.toNat ∧ isCore s.cur.tile = false))) ∧
      (x.getLsbD 4 = true ↔ x.getLsbD 5 = true ∧ winOf p ≤ 1)) ∧
    (∀ x, v.castTo p imm.toNat = some x → Gives (exec (.spcast d a imm sc) s) v d (.scalar x) sc ∧ offOf x = offOf p) ∧
    (v.castTo p imm.toNat = none → v.specOpen = false → Traps (exec (.spcast d a imm sc) s) s c Cause.window p)

/-- R191, R192: a near atomic of a FREE task reads the word of memory, writes the new value there at once, and gives the old; no other byte
changes. Of an ordered task it reads the task's own view and buffers the new value. A split-phase pointer gives a posted atomic, whose D must
be Z; any other window is WINDOW. -/
def Sys2Proof.Claims.AtomicEffect : Prop :=
  ∀ (i : Instr) (d a b : BitVec 7) (sc : BitVec 3) (op : Nat) (f : Word → Word → Word), atomicOf i = some (d, a, b, sc, op, f) →
  ∀ (s : State) (c : Ctx), Issues s c → (s.view c).specOpen = false → Clear (s.view c) (usesDAB d a b) → Quiet s c →
    let v := s.view c
    let p := v.scalar 2 a
    let y := v.scalar 3 b
    (winOf p = 1 → ∀ off, Near v p 8 8 off →
      (c.task.cls = 0 → Released s c → s.poisoned (slicePa s.cur.tile off) 8 = false →
        let old := sliceWord s s.cur.tile off
        let s1 := s.writeSlice s.cur.tile off ((List.range 8).map (byteOf (f old y).toNat)) c.ctxnum
        Gives (exec i s) (s1.view c) d (.scalar old) sc ∧ sliceWord s1 s.cur.tile off = f old y ∧
          OnlyBytes s.mem s1.mem (slicePa s.cur.tile off) 8) ∧
      (c.task.cls ≠ 0 → v.nearPoison off 8 = false →
        let old : Word := BitVec.ofNat 64 (leNat (v.readNear off 8))
        let item := Item.store off ((List.range 8).map (byteOf (f old y).toNat))
        (Ctx.buffering c [item]).storeEntries ≤ 256 → Gives (exec i s) ((s.view (Ctx.buffering c [item])).stamp off 8) d (.scalar old) sc)) ∧
    (2 ≤ winOf p → winOf p ≤ 5 →
      (d = 48 → Ends (exec i s) (s.view (Ctx.buffering c [.atomic op p y])) sc) ∧
      (d ≠ 48 → Traps (exec i s) s c Cause.illopnd (BitVec.ofNat 64 (256 + d.toNat)))) ∧
    (winOf p = 0 ∨ 5 < winOf p → Traps (exec i s) s c Cause.window p)

/-- R193, R299: near, ACAS swaps the word when it equals D and gives the old value either way, an ordered task in its own view and buffer;
remote, it captures the expected value and the barrier from its row, keeps a resident row, and joins the segment; a barrier offset that is not
a multiple of 16 is WINDOW with the offset in TRAPVAL. -/
def Sys2Proof.Claims.CompareAndSwap : Prop :=
  ∀ (d a b : BitVec 7) (sc : BitVec 3) (s : State) (c : Ctx), Issues s c → (s.view c).specOpen = false →
    let v := s.view c
    let p := v.scalar 2 a
    let e := v.scalar 1 d
    let y := v.scalar 3 b
    (c.task.cls = 0 → ¬ (2 ≤ winOf p ∧ winOf p ≤ 5) → Clear v (usesRwAB d a b) → Quiet s c → Released s c → ∀ off, Near v p 8 8 off →
      s.poisoned (slicePa s.cur.tile off) 8 = false →
      let old := sliceWord s s.cur.tile off
      (old = e → let s1 := s.writeSlice s.cur.tile off ((List.range 8).map (byteOf y.toNat)) c.ctxnum
        Gives (exec (.acas d a b sc) s) (s1.view c) d (.scalar old) sc ∧ sliceWord s1 s.cur.tile off = y ∧
          OnlyBytes s.mem s1.mem (slicePa s.cur.tile off) 8) ∧
      (old ≠ e → Gives (exec (.acas d a b sc) s) v d (.scalar old) sc)) ∧
    (c.task.cls ≠ 0 → ¬ (2 ≤ winOf p ∧ winOf p ≤ 5) → Clear v (usesRwAB d a b) → Quiet s c → ∀ off, Near v p 8 8 off →
      v.nearPoison off 8 = false →
      let old : Word := BitVec.ofNat 64 (leNat (v.readNear off 8))
      let c1 := Ctx.buffering c [.store off ((List.range 8).map (byteOf y.toNat))]
      (old = e → c1.storeEntries ≤ 256 → Gives (exec (.acas d a b sc) s) ((s.view c1).stamp off 8) d (.scalar old) sc) ∧
      (old ≠ e → Gives (exec (.acas d a b sc) s) (v.stamp off 8) d (.scalar old) sc)) ∧
    (2 ≤ winOf p ∧ winOf p ≤ 5 → c.acquireUntil ≤ s.now → ∀ row, v.rowOf (Opnd.of d) = some row → row < c.cr.mwl.toNat →
      v.checkWith [⟨1, d, .src true⟩, ⟨2, a, .src false⟩, ⟨3, b, .src false⟩] [] (fun _ => none) (fun u => u.field == 1 && !v.casCode d) = .ok () →
      v.keepRow row p = .ok () →
      let want := (v.staleRow row).extractLsb' 0 64
      let bar := ((v.staleRow row).extractLsb' 64 64).toNat
      (bar % 16 = 0 → bar + 16 ≤ s.sliceLimit s.cur.tile →
        Ends (exec (.acas d a b sc) s) (s.view (Ctx.buffering (Ctx.keeping c row 1) [.acas p want y bar row])) sc) ∧
      (bar % 16 ≠ 0 → Traps (exec (.acas d a b sc) s) s c Cause.window (BitVec.ofNat 64 bar)))

/-- R194, R195, R306: an acquire waits until every earlier load holds its value and every earlier GET inside its scope has read; a release of a FREE task passes its segment's checks and commits
it; a sequentially consistent fence stays until what it has committed is acknowledged. In an ordered task every order but acquire is
FENCECLASS. -/
def Sys2Proof.Claims.FenceEffect : Prop :=
  ∀ (eng : BitVec 4) (sc : BitVec 3) (s : State) (c : Ctx), Issues s c → (s.view c).specOpen = false →
    let v := s.view c
    let scope := eng.toNat
    let loads := (∀ p ∈ c.pend, isLoadWord p.word = true → p.doneAt ≤ s.now) ∧
      ∀ f ∈ v.outIn scope, f.kind.isGet = true → f.performed = true
    (loads → Ends (exec (.fence eng 0 sc) s) v sc) ∧
    ((∃ p ∈ c.pend, isLoadWord p.word = true ∧ s.now < p.doneAt) ∨
      (∃ f ∈ v.outIn scope, f.kind.isGet = true ∧ f.performed = false) → exec (.fence eng 0 sc) s = .next (holdIssue s)) ∧
    (c.task.cls = 0 → ∀ w, v.checkSegment = .ok w →
      Ends (exec (.fence eng 1 sc) s) (w.closeSegment scope) sc ∧
      (loads → Ends (exec (.fence eng 2 sc) s) (w.closeSegment scope) sc) ∧
      (loads → c.buf = [] → w.acknowledged scope = true → Ends (exec (.fence eng 3 sc) s) (w.closeSegment scope) sc) ∧
      (loads → c.buf = [] → w.acknowledged scope = false → exec (.fence eng 3 sc) s = .next (holdIssue s)) ∧
      (loads → c.buf ≠ [] → exec (.fence eng 3 sc) s = .next (w.closeSegment scope).stay.commit)) ∧
    (c.task.cls ≠ 0 → ∀ fn : BitVec 3, fn ≠ 0 → Traps (exec (.fence eng fn sc) s) s c Cause.fenceclass (BitVec.ofNat 64 s.cur.word.toNat))

/-- R294, R309: with no earlier release of the berth held back, none of its writes out and none of its GETs unread, a FREE task's near stores
become visible in their order when their unit commits, and no byte that none of them covers changes. -/
def Sys2Proof.Claims.CommitMakesVisible : Prop :=
  ∀ (s : State) (iss : Issuer) (stores : List (Nat × List Byte)) (scope : Nat),
    (s.tile iss.tile).held = [] → (s.berth iss.tile iss.berth).holdUntil ≤ s.chron → Performed s iss.tile iss.berth → iss.key = none →
    let t := s.commitUnit iss (stores.map fun x => .store x.1 x.2) scope
    t.mem = stores.foldl (fun m x => Mem.writeBytes m (slicePa iss.tile x.1) x.2) s.mem ∧
    ∀ a, (∀ x ∈ stores, a < slicePa iss.tile x.1 ∨ slicePa iss.tile x.1 + x.2.length ≤ a) → Mem.read t.mem a = Mem.read s.mem a

/-- R198: BARINIT of a FREE task makes the object fresh with its expected count; BAREXP sets the expected count of the earliest incomplete
phase, completing it when its count is there, and is PHASEOVER when the next phase has already more. A count out of range is ILLEGAL. -/
def Sys2Proof.Claims.BarrierSetup : Prop :=
  ∀ (a b : BitVec 7) (sc : BitVec 3) (s : State) (c : Ctx) (off : Nat), Issues s c → c.task.cls = 0 → barrierReady s c a b off → Released s c →
    let p := (s.view c).scalar 2 a
    let n := (s.view c).scalar 3 b
    let o := s.bar s.cur.tile off
    let pa := slicePa s.cur.tile off
    (1 ≤ n.toNat → n.toNat < 2 ^ 32 →
      (∀ s1, s1 = (s.barInit s.cur.tile off n.toNat c.ctxnum).wake s.cur.tile →
        Ends (exec (.barinit a b sc) s) (s1.view c) sc ∧ OnlyBytes s.mem s1.mem pa 16 ∧
        s1.bar s.cur.tile off = { done := false, ovr := false, phase := 0, ncount := 0, expect := n.toNat, count := 0 }) ∧
      (o.done = true → n.toNat < o.ncount → Traps (exec (.barexp a b sc) s) s c Cause.phaseover p) ∧
      (¬ (o.done = true ∧ n.toNat < o.ncount) →
        let o1 := if o.done = false ∧ n.toNat ≤ o.count
          then { o with expect := n.toNat, ncount := o.count - n.toNat, count := n.toNat, done := true } else { o with expect := n.toNat }
        let s1 := (s.setBar s.cur.tile off o1 c.ctxnum).wake s.cur.tile
        Ends (exec (.barexp a b sc) s) (s1.view c) sc ∧ OnlyBytes s.mem s1.mem pa 16 ∧ s1.bar s.cur.tile off = o1)) ∧
    (n.toNat = 0 ∨ 2 ^ 32 ≤ n.toNat → Traps (exec (.barinit a b sc) s) s c Cause.illegal n ∧ Traps (exec (.barexp a b sc) s) s c Cause.illegal n)

/-- R197, R198: BARARR of a FREE task two phases ahead is PHASEOVER, the segment staying open; otherwise its segment commits and it arrives,
at once or behind the writes its release covers. An arrival that is not two phases ahead loses no byte. -/
def Sys2Proof.Claims.BarrierArrival : Prop :=
  (∀ (a b : BitVec 7) (sc : BitVec 3) (s : State) (c : Ctx) (off : Nat), Issues s c → c.task.cls = 0 → barrierReady s c a b off →
    let v := s.view c
    let n := v.scalar 3 b
    n.toNat < 2 ^ 32 →
    ((s.bar s.cur.tile off).tooFar n.toNat = true → Traps (exec (.bararr a b sc) s) s c Cause.phaseover (v.scalar 2 a)) ∧
    ((s.bar s.cur.tile off).tooFar n.toNat = false → ∀ w, v.checkSegment = .ok w →
      let x := w.closeSegment
      let behind := x.s.notPerformed s.cur.tile s.cur.berth (x.s.berth s.cur.tile s.cur.berth).unit
      (n = 0 → Ends (exec (.bararr a b sc) s) x sc) ∧
      (n ≠ 0 → behind = false → Ends (exec (.bararr a b sc) s) { x with s := x.s.arrive s.cur.tile off n.toNat v.issuer false } sc) ∧
      (n ≠ 0 → behind = true → Ends (exec (.bararr a b sc) s) (x.modTile fun t =>
        { t with held := t.held ++ [{ issuer := v.issuer, release := 0, after := true, items := [.arrive off n.toNat] }] }) sc))) ∧
  (∀ (o : Bar) (b : Nat), o.tooFar b = false → (o.done = false → o.ncount = 0 ∧ o.count < o.expect) →
    (o.arrive b).count + (o.arrive b).ncount = o.count + o.ncount + b ∧ (o.arrive b).ovr = o.ovr ∧ (o.arrive b).expect = o.expect ∧
    (o.arrive b).phase = o.phase ∧ ((o.arrive b).done = true ↔ o.expect ≤ o.count + b ∨ o.done = true))

/-- R199, R359: BARTST with FN 0 passes the object's poison on; it clears OVER and is PHASEOVER; or advances a completed phase and pushes the new PHASE; or pushes PHASE as it stands.
FN 1 and 2 push COUNT and EXPECT and change nothing. -/
def Sys2Proof.Claims.BarrierTest : Prop :=
  ∀ (a : BitVec 7) (sc : BitVec 3) (s : State) (c : Ctx) (off : Nat), Issues s c → (s.view c).specOpen = false →
    Clear (s.view c) [⟨2, a, .src false⟩] → Quiet s c → Near (s.view c) ((s.view c).scalar 2 a) 16 16 off →
    let v := s.view c
    let n := s.cur.tile
    let o := s.bar n off
    let r := s.observe n off c.ctxnum
    (o.ovr = true → ∃ u, exec (.bartstObserve a sc) s =
        .next (takeTrap u n s.cur.berth Cause.phaseover (v.scalar 2 a) c.pc c.pc (issueSigma s)) ∧
      u.bar n off = { o with ovr := false } ∧ OnlyBytes s.mem u.mem (slicePa n off) 16 ∧
      u.ctx? n s.cur.berth = some { c with poisoned := c.poisoned || (s.barSide n off).poison }) ∧
    (o.ovr = false → (∀ x ∈ (s.tile n).mx.refusals, x.1 ≠ off) →
      Gives (exec (.bartstObserve a sc) s) ((r.1.wake n).view { c with
          floor := max c.floor (r.2.2.1 + 1), poisoned := c.poisoned || r.2.2.2.1 }) 0
        (.scalar (BitVec.ofNat 64 (if o.done then o.phase + 1 else o.phase).toNat)) sc ∧
      OnlyBytes s.mem r.1.mem (slicePa n off) 16 ∧
      r.1.bar n off = if o.done then { o with phase := o.phase + 1, count := o.ncount, ncount := 0, done := decide (o.expect ≤ o.ncount) } else o) ∧
    Gives (exec (.bartstCount a sc) s) v 0 (.scalar (BitVec.ofNat 64 o.count)) sc ∧
    Gives (exec (.bartstExpect a sc) s) v 0 (.scalar (BitVec.ofNat 64 o.expect)) sc

/-- R184 to R188: GET and PUT at issue. The model's choices and readings here: assumption 61. -/
def Obligations.SplitPhase : Prop :=
  Sys2Proof.Claims.GetEffect ∧ Sys2Proof.Claims.PutEffect

/-- R191 to R193: the atomics and ACAS. The model's choices and readings here: assumption 15. -/
def Obligations.Atomics : Prop :=
  Sys2Proof.Claims.AtomicEffect ∧ Sys2Proof.Claims.CompareAndSwap

/-- R194, R195, R294: fences, and what a commit makes visible. The model's choices and readings here: assumptions 8, 13, 73. -/
def Obligations.Fences : Prop :=
  Sys2Proof.Claims.FenceEffect ∧ Sys2Proof.Claims.CommitMakesVisible

/-- R197 to R199: barrier objects. The model's choices and readings here: assumptions 13, 15. -/
def Obligations.Barriers : Prop :=
  Sys2Proof.Claims.BarrierSetup ∧ Sys2Proof.Claims.BarrierArrival ∧ Sys2Proof.Claims.BarrierTest

namespace Sys2Proof.Claims

/-! ## Messages, the end of a task, records and launches (R201 to R214) -/

/-- The message instructions: destination, A, B, stall count and KIND (R203, R206). -/
def messageOf : Instr → Option (BitVec 7 × BitVec 7 × BitVec 7 × BitVec 3 × Nat)
  | .send d a b sc => some (d, a, b, sc, 0)
  | .sendv d a b sc => some (d, a, b, sc, 1)
  | .sendi d a b sc => some (d, a, b, sc, 2)
  | .amsg d a b sc => some (d, a, b, sc, 3)
  | _ => none

/-- Whether a message of a task is refused (R203 to R205), or would create work below the task's point (R384). -/
def Refused (l : Launch) (kind : Nat) (w : Word) (r : TaskRec) : Prop :=
  let count := (w.extractLsb' 16 6).toNat
  let stage := (w.extractLsb' 12 4).toNat
  let ts := r.ts.toNat
  let new := (ts + (w.extractLsb' 32 32).toNat) % 2 ^ 64
  w.extractLsb' 22 10 ≠ 0 ∨
  (kind = 0 ∧ 8 < count) ∨ (kind = 1 ∧ count ≠ 0) ∨ (kind = 2 ∧ (count = 0 ∨ 48 < count)) ∨ (kind = 3 ∧ 22 < count) ∨
  ((∃ h ∈ l.handlers, h.cls = 2) ∧ (new < ts ∨ new = ts ∧ (if kind = 3 then 0 else stage) < r.stage.toNat)) ∨
  (kind = 3 ∧ (w.extractLsb' 6 10 ≠ 0 ∨ ∀ t ∈ l.field, dieOf t ≠ (w.extractLsb' 0 6).toNat)) ∨
  (kind ≠ 3 ∧ (lookup stage l.stages = none ∨ l.ext.1 ≤ (w.extractLsb' 0 4).toNat ∨ l.ext.2.1 ≤ (w.extractLsb' 4 4).toNat ∨
    l.ext.2.2 ≤ (w.extractLsb' 8 4).toNat))

/-- The payload that a message carries (R204, R206). -/
def payloadOf (v : View) (kind : Nat) (b : BitVec 7) (count : Nat) : List Byte :=
  let row := v.vector v.etype 3 b
  match kind with
  | 0 => (List.range (8 * count)).map fun j => byteOf (if b = 48 then 0 else v.ctx.staleG (Fin.ofNat 32 (b.toNat - 16 + j / 8))).toNat (j % 8)
  | 1 => (List.range 192).map (byteOf row.toNat)
  | 2 => (List.range (4 * count)).map (byteOf row.toNat)
  | _ => (List.range (8 + 8 * count)).map (byteOf row.toNat)

/-- The message that a task sends (R203, R204, R206). -/
structure Sends (v : View) (l : Launch) (num : Nat) (w : Word) (b : BitVec 7) (m : Message) : Prop where
  kind : m.kind = num
  time : m.ts = BitVec.ofNat 64 (v.ctx.task.ts.toNat + (w.extractLsb' 32 32).toNat)
  stage : m.stage = if num = 3 then 0 else w.extractLsb' 12 4
  payload : m.count = (w.extractLsb' 16 6).toNat ∧ m.payload = payloadOf v num b m.count
  sender : m.src = v.s.cur.tile ∧ m.ctxnum = v.ctx.ctxnum ∧ m.poison = v.ctx.poisoned
  order : m.seq = (v.s.berth v.s.cur.tile v.s.cur.berth).seq
  place : if num = 3 then dieOf m.destTile = (w.extractLsb' 0 6).toNat else
    m.destTile = l.physical ((w.extractLsb' 0 4).toNat + l.ext.1 * (w.extractLsb' 4 4).toNat + l.ext.1 * l.ext.2.1 * (w.extractLsb' 8 4).toNat)

/-- What the end of a task leaves before its segment commits: the berth free from the next cycle, the rows in their image, the units released,
and an entry of the retirement tracker for work that is outstanding (R209). -/
structure Leaves (s : State) (c : Ctx) (last : List Item) (u : State) : Prop where
  free : u.ctx? s.cur.tile s.cur.berth = none ∧ (u.berth s.cur.tile s.cur.berth).nextIssue = s.now + 1
  berths : ∀ b, berthIx b ≠ berthIx s.cur.berth → u.ctx? s.cur.tile b = s.ctx? s.cur.tile b
  rows : ∀ l i, s.launch? c.ctxnum = some l → lookup c.image l.images = some i → ∃ l', u.launch? c.ctxnum = some l' ∧
    lookup c.image l'.images = some { i with rows := c.rows, rowPoison := c.rowPoison }
  matrix : (u.tile s.cur.tile).mx = if (s.tile s.cur.tile).mx.holder = some (s.cur.berth % 4)
    then { (s.tile s.cur.tile).mx with holder := none, claims := 0 } else (s.tile s.cur.tile).mx
  expansion : (u.tile s.cur.tile).xu = if (s.tile s.cur.tile).xu.holder = some (s.cur.berth % 4)
    then { (s.tile s.cur.tile).xu with holder := none } else (s.tile s.cur.tile).xu
  retires : if c.task.cls ≠ 0 ∨ c.buf ++ last ≠ [] ∨ s.outstanding (s.view c).issuer = true
    then ∃ x, (u.tile s.cur.tile).trackers = (s.tile s.cur.tile).trackers ++ [x] ∧ x.task = c.task ∧ x.kept = c.kept ∧
      x.buf = (if c.task.cls = 0 then [] else c.buf ++ last) ∧ x.committed = decide (c.task.cls = 0)
    else (u.tile s.cur.tile).trackers = (s.tile s.cur.tile).trackers
  rest : u.mem = s.mem ∧ u.flights = s.flights ∧ ∀ m, m ≠ s.cur.tile → u.tile m = s.tile m

/-- What TAIL and SPLIT do once `s1` has the translations of the segment's writes: a FREE task's segment commits, and an ordered task's buffer
waits for its turn. -/
def Finishes (o : Out) (s1 : State) (c : Ctx) (last : List Item) : Prop :=
  ∃ u, Leaves s1 c last u ∧ o = .next (if c.task.cls = 0 then u.commitUnit (s1.view c).issuer (c.buf ++ last) else u.sequence c.ctxnum)

/-- Nothing that the end of a task waits for is missing (R188, R209, R217). -/
def Endable (s : State) (c : Ctx) : Prop := (s.view c).specOpen = false ∧ (s.view c).checksDone = true

end Sys2Proof.Claims

/-- R203 to R206: a message instruction gives 2 where the message is refused, even with a full send queue, 1 where 8 of the berth's messages
wait, and otherwise 0, the message joining the open segment or the task's buffer. -/
def Obligations.MessageStatus : Prop :=
  ∀ (i : Instr) (d a b : BitVec 7) (sc : BitVec 3) (kind : Nat), messageOf i = some (d, a, b, sc, kind) →
  ∀ (s : State) (c : Ctx) (l : Launch), Issues s c → (s.view c).specOpen = false → c.acquireUntil ≤ s.now → s.launch? c.ctxnum = some l →
    let v := s.view c
    let w := v.scalar 2 a
    v.mcheck [⟨1, d, .dst false⟩, ⟨2, a, .src false⟩, ⟨3, b, if kind = 0 then .octet true else .src true⟩] = .ok () →
    (Refused l kind w c.task → Gives (exec i s) v d (.scalar 2) sc) ∧
    (¬ Refused l kind w c.task → 8 ≤ v.queuedMessages → Gives (exec i s) v d (.scalar 1) sc) ∧
    (¬ Refused l kind w c.task → v.queuedMessages < 8 → ∃ m, Sends v l kind w b m ∧
      Gives (exec i s) ((s.modBerth s.cur.tile s.cur.berth fun x => { x with seq := x.seq + 1 }).view (Ctx.buffering c [.message m])) d
        (.scalar 0) sc)

/-- R209: TAIL traps with a pending fault, which is then no longer pending, or with the first write of its segment that fails its checks, and
otherwise ends the task; work that is outstanding waits for one of the tile's 8 tracker entries. -/
def Sys2Proof.Claims.TailEndsTask : Prop :=
  ∀ (sc : BitVec 3) (s : State) (c : Ctx), Issues s c → Endable s c →
    (∀ cause p, c.fault = some (cause, p) → exec (.tail sc) s =
      .next (faultTaken (takeTrap s s.cur.tile s.cur.berth cause p c.pc c.pc (issueSigma s)))) ∧
    (c.fault = none →
      (∀ cause p, s.checkItems s.cur.tile c.ctxnum c.buf = .error (cause, p) → exec (.tail sc) s =
        .next (faultTaken (takeTrap s s.cur.tile s.cur.berth cause p c.pc c.pc (issueSigma s)))) ∧
      ∀ s1, s.checkItems s.cur.tile c.ctxnum c.buf = .ok s1 →
        ((s1.tile s.cur.tile).trackers.length < 8 → Finishes (exec (.tail sc) s) s1 c []) ∧
        (c.task.cls = 0 → c.buf = [] → s1.outstanding (s1.view c).issuer = false → Finishes (exec (.tail sc) s) s1 c []) ∧
        (8 ≤ (s1.tile s.cur.tile).trackers.length → c.task.cls ≠ 0 ∨ c.buf ≠ [] ∨ s1.outstanding (s1.view c).issuer = true →
          exec (.tail sc) s = .next (holdIssue s)))

/-- R210: SPLIT ends the task as TAIL does, its continuation leaving with the task's other work; a trigger word that breaks its layout is
ILLEGAL, and KIND 2 in an ordered task is FENCECLASS, with the word in TRAPVAL. -/
def Sys2Proof.Claims.SplitEndsTask : Prop :=
  ∀ (a b : BitVec 7) (sc : BitVec 3) (s : State) (c : Ctx), Issues s c → Endable s c → Clear (s.view c) [⟨2, a, .src false⟩, ⟨3, b, .src false⟩] →
    let v := s.view c
    let w := v.scalar 3 b
    let kind := (w.extractLsb' 30 2).toNat
    let num := (w.extractLsb' 17 4).toNat
    let count := (w.extractLsb' 32 16).toNat
    let bar := (w.extractLsb' 0 17).toNat
    let r := (s.tile s.cur.tile).rings[Fin.ofNat 16 num]
    let good := w.extractLsb' 21 9 = 0 ∧ ((kind = 0 ∧ count = 0 ∧ num = 0 ∧ bar % 16 = 0) ∨
      (kind = 1 ∧ bar = 0 ∧ r.valid = true ∧ 1 ≤ count ∧ count ≤ 2 ^ r.lg) ∨ (kind = 2 ∧ bar = 0 ∧ count = 0 ∧ num ≤ 12))
    (¬ good → Traps (exec (.split a b sc) s) s c Cause.illegal w) ∧
    (good → kind = 2 → c.task.cls ≠ 0 → Traps (exec (.split a b sc) s) s c Cause.fenceclass w) ∧
    (good → (kind = 2 → c.task.cls = 0) → v.outsideField = false → ∀ s1, s.checkItems s.cur.tile c.ctxnum c.buf = .ok s1 →
      (s1.tile s.cur.tile).trackers.length < 8 → ∃ x : TaskRec, Finishes (exec (.split a b sc) s) s1 c [.continuation x] ∧
        x.hpc = BitVec.ofNat 48 ((v.scalar 2 a).toNat / 2 * 2) ∧ x.ts = c.task.ts ∧ x.src = c.task.src ∧ x.cls = c.task.cls ∧ x.chan = c.task.chan ∧
        x.stage = c.task.stage ∧ x.launch = c.task.launch ∧ x.cont = true ∧ x.poison = c.poisoned ∧ x.cmask = w.extractLsb' 48 16 ∧
        x.dest = c.cr.tilev ∧ x.trig = w ∧ x.startTrap = c.fault ∧
        ∀ k, k < 24 → x.body.extractLsb' (64 * k) 64 = if k < 16 ∧ (w.extractLsb' 48 16).getLsbD k = true then c.staleG (Fin.ofNat 32 k) else 0)

/-- R212, R214: SPAWN makes one record of its own tile with the words of B's eight registers; PRIO sets a channel's priority, and clears its
raise. -/
def Sys2Proof.Claims.SpawnAndPrio : Prop :=
  ∀ (a b imm : BitVec 7) (sc : BitVec 3) (s : State) (c : Ctx), Issues s c → (s.view c).specOpen = false →
    let v := s.view c
    (Clear v [⟨2, a, .src false⟩, ⟨3, b, .octet true⟩] → c.acquireUntil ≤ s.now → ∃ x : TaskRec, Ends (exec (.spawn a b sc) s) (s.view (Ctx.buffering c [.spawn x])) sc ∧
      x.hpc = BitVec.ofNat 48 ((v.scalar 2 a).toNat / 2 * 2) ∧ x.ts = c.task.ts ∧ x.src = BitVec.ofNat 13 s.cur.tile ∧ x.cls = c.task.cls ∧
      x.chan = c.task.chan ∧ x.stage = c.task.stage ∧ x.launch = c.task.launch ∧ x.poison = c.poisoned ∧ x.cmask = 0 ∧ x.amsg = false ∧
      ∀ k, k < 24 → x.body.extractLsb' (64 * k) 64 = if k < 16 ∨ b = 48 then 0 else c.staleG (Fin.ofNat 32 (b.toNat - 16 + (k - 16)))) ∧
    (a.toNat < 50 → b.toNat % 8 ≠ 0 ∨ b.toNat < 16 ∨ 48 < b.toNat →
      Traps (exec (.spawn a b sc) s) s c Cause.illopnd (BitVec.ofNat 64 (768 + b.toNat))) ∧
    (Clear v [⟨2, a, .src false⟩] →
      let ch := (v.scalar 2 a).toNat
      (ch < 12 → Ends (exec (.prio a imm sc) s) ((s.modTile s.cur.tile fun t => { t with
        channels := t.channels.set (Fin.ofNat 16 ch) { t.channels[Fin.ofNat 16 ch] with base := imm.toNat % 8, raise := 0 } }).view c) sc) ∧
      (12 ≤ ch → Traps (exec (.prio a imm sc) s) s c Cause.illegal (v.scalar 2 a)))

/-- R213: LAUNCH releases the open segment and stays until that is acknowledged; then it reads its block and gives 0 for a submitted request,
1 for a full launch queue and 2 for a block that breaks its layout. In an ordered task it is FENCECLASS. -/
def Sys2Proof.Claims.LaunchSubmission : Prop :=
  ∀ (d a : BitVec 7) (sc : BitVec 3) (s : State) (c : Ctx), Issues s c → (s.view c).specOpen = false → Clear (s.view c) (usesDA d a) →
    let v := s.view c
    let p := v.scalar 2 a
    (c.task.cls ≠ 0 → Traps (exec (.launch d a sc) s) s c Cause.fenceclass (BitVec.ofNat 64 s.cur.word.toNat)) ∧
    (c.task.cls = 0 → Quiet s c → v.nearOff p 32 32 = none → Traps (exec (.launch d a sc) s) s c Cause.window p) ∧
    (c.task.cls = 0 → Quiet s c → ∀ off, Near v p 32 32 off → ∀ w, v.checkSegment = .ok w →
      (c.buf ≠ [] → exec (.launch d a sc) s = .next (w.closeSegment 4).stay.commit) ∧
      (c.buf = [] → w.acknowledged 4 = false → exec (.launch d a sc) s = .next (holdIssue s)) ∧
      (c.buf = [] → w.acknowledged 4 = true → s.poisoned (slicePa s.cur.tile off) 32 = false →
        let w1 := w.closeSegment 4
        let word (k : Nat) : Word := sliceWord w1.s s.cur.tile (off + 8 * k)
        let good := winOf (word 0) = 4 ∧ tagOf (word 0) = 0 ∧ (word 1).toNat < 2 ^ 17 ∧ (word 1).toNat % 16 = 0 ∧ word 3 = 0
        (¬ good → Gives (exec (.launch d a sc) s) w1 d (.scalar 2) sc) ∧
        (good → ∀ x, w1.s.part? (w1.s.partOf c.ctxnum) = some x →
          (64 ≤ x.waiting → Gives (exec (.launch d a sc) s) w1 d (.scalar 1) sc) ∧
          (x.waiting < 64 → Gives (exec (.launch d a sc) s)
            (((w1.s.modPart (w1.s.partOf c.ctxnum) fun x => x.append (word 0) (some (s.cur.tile, off, (word 1).toNat))).once
              (.launchQueueTake (w1.s.partOf c.ctxnum))).view w1.ctx) d (.scalar 0) sc))))

/-- R209, R210: the end of a task, and its continuation. The model's choices and readings here: assumption 10. -/
def Obligations.TaskEnds : Prop :=
  Sys2Proof.Claims.TailEndsTask ∧ Sys2Proof.Claims.SplitEndsTask

/-- R212 to R214: records of a tile's own, channel priorities, and launches. The model's choices and readings here: assumption 14. -/
def Obligations.SpawnPrioLaunch : Prop :=
  Sys2Proof.Claims.SpawnAndPrio ∧ Sys2Proof.Claims.LaunchSubmission

namespace Sys2Proof.Claims

/-! ## Engines and rings (R215 to R225) -/

/-- The berth's last release still holds back what follows it, or near stores that it released, so a command waits behind them (R216, R309). -/
def BehindRelease (s : State) (c : Ctx) : Prop :=
  (s.view c).heldItems.any Item.isNear = true ∨ s.chron < (s.berth s.cur.tile s.cur.berth).holdUntil

/-- A command goes to its engine at its acceptance: of a FREE task, with no branch open and no release in its way (R78, R216). -/
def Straight (s : State) (c : Ctx) : Prop := c.task.cls = 0 ∧ (s.view c).specOpen = false ∧ ¬ BehindRelease s c

/-- The commit buffer of the berth has a place for a command (R78). -/
def CommitRoom (c : Ctx) : Prop := (c.deferred.flatMap Deferred.commands).length < 2

/-- What accepting an operation leaves (R78, R215, R216): one more entry of its engine's queue, in the engine at once where nothing is in its
way, and otherwise held for the commit, the release or the branch; a speculative one stands in the commit buffer. -/
structure Accepted (s : State) (c : Ctx) (eng : Nat) (kind : OpKind) (w : View) : Prop where
  op : ∃ o, (w.s.tile s.cur.tile).ops.getLast? = some o ∧ o.id = (s.tile s.cur.tile).nextOp ∧ o.eng = eng ∧ o.kind = kind ∧
    o.issuer = (s.view c).issuer ∧ (Straight s c → o.stage = .queued) ∧ (¬ Straight s c → o.stage = .held)
  older : (w.s.tile s.cur.tile).ops.filter (fun o => o.id != (s.tile s.cur.tile).nextOp) =
    (s.tile s.cur.tile).ops.filter fun o => o.id != (s.tile s.cur.tile).nextOp
  ctx : w.ctx = { (if c.task.cls = 0 then c else Ctx.buffering c [.command eng (s.tile s.cur.tile).nextOp]) with
    deferred := if (s.view c).specOpen then c.deferred ++ [.command eng (s.tile s.cur.tile).nextOp] else c.deferred }
  looks : Straight s c → .engineTakeCommand s.cur.tile eng ∈ w.s.agenda
  agenda : ∀ e ∈ w.s.agenda, e ∈ s.agenda ∨ e = .engineTakeCommand s.cur.tile eng ∨ e = .accumulatorShadowCopy s.cur.tile (s.tile s.cur.tile).nextOp
  timed : ∀ e ∈ w.s.timed, e ∈ s.timed ∨ e.2 = .releaseHoldEnd s.cur.tile
  tile : w.s.tile s.cur.tile = { s.tile s.cur.tile with
    ops := (w.s.tile s.cur.tile).ops, nextOp := (s.tile s.cur.tile).nextOp + 1, held := (w.s.tile s.cur.tile).held }
  held : c.task.cls ≠ 0 ∨ (s.view c).specOpen = true ∨ ¬ BehindRelease s c →
    (w.s.tile s.cur.tile).held = (s.tile s.cur.tile).held ∧ w.s.timed = s.timed
  tiles : ∀ m, m ≠ s.cur.tile → w.s.tile m = s.tile m
  rest : w.s = { s with tiles := w.s.tiles, nextId := s.nextId + 1, agenda := w.s.agenda, timed := w.s.timed }

/-- When a command's windows and translations are checked (R217): of a FREE task by its engine, of another at acceptance, which leaves `s1`. -/
def Checked (s : State) (c : Ctx) (eng : Nat) (kind : OpKind) (bytes : Nat) (s1 : State) : Prop :=
  (c.task.cls = 0 ∧ s1 = s) ∨ (c.task.cls ≠ 0 ∧ ∃ pins, s.checkOp s.cur.tile c.ctxnum kind eng bytes = .ok (s1, pins))

/-- The 64 bytes of the eight registers from `g(a)` on (R215). -/
def octetBytes (c : Ctx) (a : BitVec 7) : List Byte :=
  (List.range 64).map fun j => byteOf (c.staleG (Fin.ofNat 32 (a.toNat - 16 + j / 8))).toNat (j % 8)

/-- The number of the operations that an engine's command records name (R218, R219, R221). -/
def opCount (eng : Nat) : Nat := if eng = 4 then 3 else 4

/-- The ring instructions' operands. -/
def abUses (a b : BitVec 7) : List Use := [⟨2, a, .src false⟩, ⟨3, b, .src false⟩]

/-- Only one ring of a tile has changed, and its new pointers (R223). -/
structure RingMoved (s s1 : State) (k : Nat) (prod cons : BitVec 32) : Prop where
  ring : (s1.tile s.cur.tile).rings[Fin.ofNat 16 k] = { (s.tile s.cur.tile).rings[Fin.ofNat 16 k] with prod := prod, cons := cons }
  others : ∀ j : Fin 16, j ≠ Fin.ofNat 16 k → (s1.tile s.cur.tile).rings[j] = (s.tile s.cur.tile).rings[j]
  tile : s1.tile s.cur.tile = { s.tile s.cur.tile with rings := (s1.tile s.cur.tile).rings }
  tiles : ∀ m, m ≠ s.cur.tile → s1.tile m = s.tile m
  rest : s1 = { s with tiles := s1.tiles, agenda := s1.agenda }

/-- The barrier word of an EOP: none, or a slice offset that is a multiple of 16 (R225). -/
def BarWord (w : Word) : Prop := w = 2 ^ 63 ∨ (w.toNat < 2 ^ 17 ∧ w.toNat % 16 = 0)

/-- What every EOP needs at acceptance: nothing to wait for, operands, room, and an engine register 0 that keeps its layout and names rings of the engine (R215, R224,
R225). -/
structure RingReady (s : State) (c : Ctx) (eng : Nat) (a b : BitVec 7) (map : Word) : Prop where
  issues : Quiet s c ∧ CommitRoom c ∧ isCore s.cur.tile = false ∧ (s.view c).outsideField = false
  clear : Clear (s.view c) (abUses a b)
  room : (s.tile s.cur.tile).engineUsed eng < 8
  layout : map = ((s.tile s.cur.tile).eregs[Fin.ofNat 5 eng])[(0 : Fin 8)] ∧ map.extractLsb' 15 17 = 0 ∧ map.extractLsb' 56 8 = 0
  rings : ∀ x ∈ (RingMap.of map).used, let r := (s.tile s.cur.tile).rings[Fin.ofNat 16 x.1]
    r.valid = true ∧ r.eng = eng ∧ 1 ≤ x.2 ∧ x.2 ≤ 2 ^ r.lg

/-- The EOPs: A, B, stall count, engine and FN (R225). -/
def ringOpOf : Instr → Option (BitVec 7 × BitVec 7 × BitVec 3 × Nat × Nat)
  | .eopCopy a b sc => some (a, b, sc, 0, 0)
  | .eopSlotFill a b sc => some (a, b, sc, 0, 1)
  | .eopAccumulatingStore a b sc => some (a, b, sc, 0, 2)
  | .eopMatrixTileOperation a b sc => some (a, b, sc, 1, 0)
  | .eopAccumulatorDrain a b sc => some (a, b, sc, 1, 1)
  | .eopNearFieldEvaluate a b sc => some (a, b, sc, 3, 0)
  | .eopConsolidate a b sc => some (a, b, sc, 4, 0)
  | .eopInsertArrangement a b sc => some (a, b, sc, 4, 1)
  | _ => none

/-- The combination of rings and the operands that an EOP admits (R225, R250, R262, R369), by engine and FN. -/
def RingOpOk (v : View) (map p w : Word) (eng fn : Nat) : Prop :=
  let m := RingMap.of map
  let inOnly := m.in0 ≠ none ∧ m.in1 = none ∧ m.out = none
  let outOnly := m.in0 = none ∧ m.in1 = none ∧ m.out ≠ none
  let esl (x : Option (Nat × Nat)) := v.tile.useEsl x
  let bytes (x : Option (Nat × Nat)) := v.tile.useBytes x
  let cr := v.ctx.cr
  match eng, fn with
  | 0, 0 => (inOnly ∨ outOnly) ∧ BarWord w ∧
    (inOnly → winOf p = 2 ∨ winOf p = 3 → (v.s.traceTarget v.s.cur.tile v.ctx.ctxnum p map).isSome = true)
  | 0, 1 => inOnly ∧ BarWord w ∧ p.toNat = slotOff p * 2 ^ 16 + slotOf p ∧ slotOff p % 16 = 0 ∧ slotOff p + bytes m.in0 ≤ 4096 ∧
    v.claims.getLsbD (slotOf p) = true
  | 0, 2 => inOnly ∧ w.toNat < 2 ^ 38 ∧ offOf w % 16 = 0 ∧ winOf p = 4 ∧ offOf p % 64 = 0 ∧ 6 ≤ esl m.in0 ∧
    ∃ l, v.s.launch? v.ctx.ctxnum = some l ∧ ctlSlice w < l.sliceCount (ctlAxis w)
  | 1, 0 => p.toNat < 512 ∧ w.extractLsb' 53 10 = 0 ∧ w.extractLsb' 36 4 = 0 ∧ w.extractLsb' 12 24 = 0 ∧ geoOk w = true ∧
    (∀ k ∈ (mmaSlots cr p w).1 ++ (mmaSlots cr p w).2, k < 16 ∧ v.claims.getLsbD k = true) ∧ m.in0 ≠ none ∧ m.in1 ≠ none ∧ m.out = none ∧
    esl m.in0 = 8 ∧ esl m.in1 = 8 ∧ bytes m.in0 = (MxFmt.ofCode cr.fmta).runBytes 64 (geoK w) ∧
    bytes m.in1 = (MxFmt.ofCode cr.fmtb).runBytes cr.columns (geoK w)
  | 1, 1 => p.toNat < 2 ∧ BarWord w ∧ outOnly ∧ esl m.out = 8 ∧ (∀ x ∈ m.out, x.2 = 64) ∧ v.holdsMx = true
  | 3, 0 => inOnly ∧ esl m.in0 = 4 ∧ p = 0 ∧ BarWord w
  | 4, 0 => m.in1 = none ∧ esl m.in0 = 5 ∧ esl m.out = 5 ∧ p = 0 ∧ BarWord w ∧
    ∃ x y, m.in0 = some x ∧ m.out = some y ∧ x.2 ≤ y.2
  | _, _ => inOnly ∧ esl m.in0 = 5 ∧ BarWord w ∧ p.toNat + 64 ≤ v.s.sliceLimit v.s.cur.tile ∧ (arrAt v.readNear p.toNat).isSome = true

end Sys2Proof.Claims

/-- R78, R215, R217: CPUSH gives 1 when the engine's queue is full, commands in a commit buffer counted, and 0 when its command keeps its
layout and limits and enters the queue; a third speculative command waits; a command of an engine with no records, or of a reserved OP, is
ILLEGAL with its bytes 0 to 7 in TRAPVAL. An ordered task's failed window check becomes its pending fault. The model's choices and readings
here: assumptions 22, 28. -/
def Obligations.CommandPush : Prop :=
  ∀ (eng : BitVec 4) (a : BitVec 7) (sc : BitVec 3) (s : State) (c : Ctx), Issues s c →
    isCore s.cur.tile = false ∨ eng = 0 → Clear (s.view c) [⟨2, a, .octet false⟩] → Quiet s c →
    let n := eng.toNat
    let bs := octetBytes c a
    let kind : OpKind := .record bs
    let full := 8 ≤ (s.tile s.cur.tile).engineUsed n
    ((s.view c).specOpen = false → n = 1 ∨ n = 3 → Traps (exec (.cpush eng a sc) s) s c Cause.illegal (c.staleG (Fin.ofNat 32 (a.toNat - 16)))) ∧
    (n ≠ 1 → n ≠ 3 → full → Gives (exec (.cpush eng a sc) s) (s.view c) 0 (.scalar 1) sc) ∧
    ((s.view c).specOpen = false → n ≠ 1 → n ≠ 3 → ¬ full → isCore s.cur.tile = false → opCount n ≤ (bs.headD 0).toNat →
      Traps (exec (.cpush eng a sc) s) s c Cause.illegal (c.staleG (Fin.ofNat 32 (a.toNat - 16)))) ∧
    (n ≠ 1 → n ≠ 3 → ¬ full → (s.view c).recordCheck n bs = .ok () → (s.view c).shadowCheck n bs = .ok () →
      (¬ CommitRoom c → exec (.cpush eng a sc) s = .next (holdIssue s)) ∧
      (CommitRoom c →
        (∀ s1, Checked s c n kind 0 s1 → ∃ w, Accepted s1 c n kind w ∧ Gives (exec (.cpush eng a sc) s) w 0 (.scalar 0) sc) ∧
        (c.task.cls ≠ 0 → ∀ cause p, s.checkOp s.cur.tile c.ctxnum kind n 0 = .error (cause, p) →
          Gives (exec (.cpush eng a sc) s) ((s.logWalk c.ctxnum cause p).view (if c.fault.isSome ∧ c.faultAt ≤ s.nextId then c
            else { c with fault := some (cause, p), faultAt := s.nextId })) 0 (.scalar 0) sc)))

/-- R220, R224, R251: COLL accepts the collective command of its template with OP and the line word put in, a full queue being RINGOVER; ECFG
writes an engine register, another berth's expansion unit being REGWIN. The model's choices and readings here: assumption 28. -/
def Obligations.CollectiveAndConfig : Prop :=
  ∀ (eng : BitVec 4) (fn : BitVec 3) (a b : BitVec 7) (sc : BitVec 3) (s : State) (c : Ctx), Issues s c → isCore s.cur.tile = false →
    let v := s.view c
    (Clear v (abUses a b) → Quiet s c →
      let off := (v.scalar 3 b).toNat
      let t := v.readReleased off 64
      let bs := [BitVec.ofNat 8 fn.toNat] ++ (t.drop 1).take 7 ++ (List.range 8).map (byteOf (v.scalar 2 a).toNat) ++ t.drop 16
      (v.specOpen = false → off % 64 ≠ 0 ∨ s.sliceLimit s.cur.tile < off + 64 →
        Traps (exec (.coll fn a b sc) s) s c Cause.illegal (v.scalar 3 b)) ∧
      (off % 64 = 0 → off + 64 ≤ s.sliceLimit s.cur.tile → v.outsideField = false →
        (v.specOpen = false → 8 ≤ (s.tile s.cur.tile).engineUsed 2 → Traps (exec (.coll fn a b sc) s) s c Cause.ringover 2) ∧
        ((s.tile s.cur.tile).engineUsed 2 < 8 → v.recordCheck 2 bs = .ok () → v.shadowCheck 2 bs = .ok () →
          (¬ CommitRoom c → exec (.coll fn a b sc) s = .next (holdIssue s)) ∧
          (CommitRoom c → ∀ s1, Checked s c 2 (.record bs) 0 s1 → ∃ w, Accepted s1 c 2 (.record bs) w ∧ Ends (exec (.coll fn a b sc) s) w sc)))) ∧
    (v.specOpen = false → Clear v [⟨2, a, .src false⟩] → eng.toNat < 5 →
      let e := Fin.ofNat 5 eng.toNat
      let other := eng = 3 ∧ ∃ h, (s.tile s.cur.tile).xu.holder = some h ∧ h ≠ s.cur.berth % 4
      (other → Traps (exec (.ecfg eng fn a sc) s) s c Cause.regwin (BitVec.ofNat 64 fn.toNat)) ∧
      (¬ other → Ends (exec (.ecfg eng fn a sc) s) ((s.modTile s.cur.tile fun t => { t with
        eregs := t.eregs.set e ((t.eregs[e]).set (Fin.ofNat 8 fn.toNat) (v.scalar 2 a)) }).view c) sc))

/-- R222, R223: RINGI sets up an empty ring of its descriptor; a ring of 16 or more and a descriptor that breaks its layout are ILLEGAL, and a
ring that an operation still names is RINGOVER. RINGQ gives the count, the free space, PROD or CONS. -/
def Sys2Proof.Claims.RingSetupAndQuery : Prop :=
  ∀ (eng : BitVec 4) (fn : BitVec 3) (a b : BitVec 7) (sc : BitVec 3) (s : State) (c : Ctx), Issues s c → Quiet s c →
    let v := s.view c
    let n := s.cur.tile
    let k := (v.scalar 2 a).toNat
    (Clear v (abUses a b) → isCore n = false ∨ eng = 0 →
      let off := (v.scalar 3 b).toNat
      let x := leNat (v.readReleased off 16)
      let base := x % 2 ^ 17
      let lg := x / 2 ^ 32 % 2 ^ 8
      let esl := x / 2 ^ 40 % 2 ^ 8
      let good := x / 2 ^ 17 % 2 ^ 15 = 0 ∧ x / 2 ^ 48 % 2 ^ 16 = 0 ∧ base % 64 = 0 ∧ 1 ≤ lg ∧ lg ≤ 12 ∧ 3 ≤ esl ∧ esl ≤ 8 ∧
        2 ^ lg * 2 ^ esl ≤ 0x10000 ∧ base + 2 ^ lg * 2 ^ esl ≤ s.sliceLimit n ∧ base + 2 ^ lg * 2 ^ esl ≤ 0x20000
      (v.specOpen = false → 16 ≤ k → Traps (exec (.ringi eng a b sc) s) s c Cause.illegal (v.scalar 2 a)) ∧
      (v.specOpen = false → k < 16 → off % 16 ≠ 0 ∨ s.sliceLimit n < off + 16 →
        Traps (exec (.ringi eng a b sc) s) s c Cause.illegal (v.scalar 3 b)) ∧
      (k < 16 → off % 16 = 0 → off + 16 ≤ s.sliceLimit n → v.outsideField = false →
        (v.specOpen = false → ¬ good → Traps (exec (.ringi eng a b sc) s) s c Cause.illegal (v.scalar 3 b)) ∧
        (v.specOpen = false → good → s.ringNamed n k = true → Traps (exec (.ringi eng a b sc) s) s c Cause.ringover (BitVec.ofNat 64 k)) ∧
        (good → s.ringNamed n k = false →
          (v.specOpen = false → Ends (exec (.ringi eng a b sc) s) (((s.modTile n fun t => { t with
            rings := t.rings.set (Fin.ofNat 16 k) { valid := true, eng := eng.toNat, base := base, lg := lg, esl := esl, prod := 0, cons := 0 } }).wake
            n).view c) sc) ∧
          (v.specOpen = true → Ends (exec (.ringi eng a b sc) s)
            (s.view { c with deferred := c.deferred ++ [.ringInit k eng.toNat base lg esl] }) sc)))) ∧
    (Clear v [⟨2, a, .src false⟩] → k < 16 → v.outsideField = false →
      let r := (s.tile n).rings[Fin.ofNat 16 k]
      let count := (r.prod - r.cons).toNat
      Gives (exec (.ringq fn a sc) s) v 0 (.scalar (BitVec.ofNat 64
        (if fn = 0 then count else if fn = 1 then 2 ^ r.lg - count else if fn = 2 then r.prod.toNat else r.cons.toNat))) sc)

/-- R78, R223: RINGP of a FREE task releases its segment at tile scope and moves PROD by its count, at once where nothing that it releases is
still on its way; RINGC moves CONS; an ordered task's move joins its buffer, and a speculative one waits for the branch. Moves past the ring's
room, or past its elements, are RINGOVER with the ring in TRAPVAL. -/
def Sys2Proof.Claims.RingMoves : Prop :=
  ∀ (a b : BitVec 7) (sc : BitVec 3) (s : State) (c : Ctx), Issues s c → Clear (s.view c) (abUses a b) → c.acquireUntil ≤ s.now →
    let v := s.view c
    let k := (v.scalar 2 a).toNat
    let x := v.scalar 3 b
    let r := (s.tile s.cur.tile).rings[Fin.ofNat 16 k]
    let count := (r.prod - r.cons).toNat
    let room := 2 ^ r.lg - count
    k < 16 → v.outsideField = false → count ≤ 2 ^ r.lg → (s.tile s.cur.tile).engineUsed r.eng < 8 →
    (c.task.cls = 0 → ∀ w, v.checkSegment = .ok w →
      (v.specOpen = false → room < v.movesAhead k true + x.toNat → Traps (exec (.ringp a b sc) s) s c Cause.ringover (BitVec.ofNat 64 k)) ∧
      (v.movesAhead k true + x.toNat ≤ room →
        (¬ CommitRoom c → exec (.ringp a b sc) s = .next (holdIssue s)) ∧
        (CommitRoom c → v.specOpen = true → Ends (exec (.ringp a b sc) s) ((w.addMove r.eng k (x.setWidth 32) true).modCtx fun c => { c with
          buf := [], deferred := c.deferred ++ [.produce c.buf (s.tile s.cur.tile).nextOp] }) sc) ∧
        (CommitRoom c → v.specOpen = false →
          let u := w.closeSegment 0
          (u.s.moveWaits w.issuer = false → ∃ s1, RingMoved u.s s1 k (r.prod + x.setWidth 32) r.cons ∧
            Ends (exec (.ringp a b sc) s) (s1.view { c with buf := [] }) sc) ∧
          (u.s.moveWaits w.issuer = true → Ends (exec (.ringp a b sc) s)
            (({ u.addMove r.eng k (x.setWidth 32) true with
                s := (u.addMove r.eng k (x.setWidth 32) true).s.holdMove w.issuer r.eng (u.s.tile s.cur.tile).nextOp } : View)) sc)))) ∧
    (c.task.cls ≠ 0 →
      (v.specOpen = false → room < v.movesAhead k true + x.toNat → Traps (exec (.ringp a b sc) s) s c Cause.ringover (BitVec.ofNat 64 k)) ∧
      (v.movesAhead k true + x.toNat ≤ room → CommitRoom c → ∃ w, Accepted s c r.eng (.ringMove k (x.setWidth 32) true) w ∧
        Ends (exec (.ringp a b sc) s) w sc)) ∧
    ((∀ p ∈ c.pend, isLoadWord p.word = true → p.doneAt ≤ s.now) →
      (v.specOpen = false → count < v.movesAhead k false + x.toNat → Traps (exec (.ringc a b sc) s) s c Cause.ringover (BitVec.ofNat 64 k)) ∧
      (v.movesAhead k false + x.toNat ≤ count → CommitRoom c →
        (c.task.cls = 0 → v.specOpen = false → ∃ s1, RingMoved s s1 k r.prod (r.cons + x.setWidth 32) ∧
          Ends (exec (.ringc a b sc) s) (s1.view c) sc) ∧
        (c.task.cls = 0 → v.specOpen = true → Ends (exec (.ringc a b sc) s) ((v.addMove r.eng k (x.setWidth 32) false).modCtx fun c => { c with
          deferred := c.deferred ++ [.consume (s.tile s.cur.tile).nextOp] }) sc) ∧
        (c.task.cls ≠ 0 → ∃ w, Accepted s c r.eng (.ringMove k (x.setWidth 32) false) w ∧ Ends (exec (.ringc a b sc) s) w sc)))

/-- R225, R224: an EOP whose rings and operands its row admits enters its engine's queue with the ring map and the matrix controls as they stand
at acceptance; a full queue is RINGOVER with ENG in TRAPVAL, and a reserved bit of the ring map is ILLEGAL with the map. -/
def Sys2Proof.Claims.RingOperations : Prop :=
  ∀ (i : Instr) (a b : BitVec 7) (sc : BitVec 3) (eng fn : Nat), ringOpOf i = some (a, b, sc, eng, fn) →
  ∀ (s : State) (c : Ctx), Issues s c →
    let v := s.view c
    let p := v.scalar 2 a
    let w := v.scalar 3 b
    (∀ map, RingReady s c eng a b map → RingOpOk v map p w eng fn →
      let kind : OpKind := .eop fn p w map c.cr (if eng = 3 then [BitVec.ofNat 8 (s.tile s.cur.tile).xkind.toNat] else [])
      let m := RingMap.of map
      let bytes := if fn = 0 then v.tile.useBytes (m.in0.or m.out) else if fn = 1 then 0 else v.tile.useBytes m.in0
      ∀ s1, (eng ≠ 0 ∧ s1 = s) ∨ (eng = 0 ∧ Checked s c 0 kind bytes s1) → ∃ x, Accepted s1 c eng kind x ∧ Ends (exec i s) x sc) ∧
    (v.specOpen = false → isCore s.cur.tile = false → Clear v (abUses a b) → Quiet s c → CommitRoom c →
      let map := ((s.tile s.cur.tile).eregs[Fin.ofNat 5 eng])[(0 : Fin 8)]
      (8 ≤ (s.tile s.cur.tile).engineUsed eng → Traps (exec i s) s c Cause.ringover (BitVec.ofNat 64 eng)) ∧
      ((s.tile s.cur.tile).engineUsed eng < 8 → map.extractLsb' 15 17 ≠ 0 ∨ map.extractLsb' 56 8 ≠ 0 →
        Traps (exec i s) s c Cause.illegal map))

/-- R225, R219: an EOP of the collective engine builds its command from the template at B, with the slice number A put into its line word and no
source, and enters the queue with it. -/
def Sys2Proof.Claims.RingCollective : Prop :=
  ∀ (a b : BitVec 7) (sc : BitVec 3) (s : State) (c : Ctx) (map : Word), Issues s c → RingReady s c 2 a b map →
    let v := s.view c
    let p := v.scalar 2 a
    let w := v.scalar 3 b
    let m := RingMap.of map
    let t := v.readReleased w.toNat 64
    let line := BitVec.ofNat 64 (leNat ((t.drop 8).take 8) / 4096 * 4096 + p.toNat)
    let bs := t.take 2 ++ [0] ++ (t.drop 3).take 5 ++ (List.range 8).map (byteOf line.toNat) ++ [0, 0, 0, 0] ++ t.drop 20
    (m.in0 ≠ none ∧ m.in1 = none ∧ m.out = none → p.toNat < 4096 → w.toNat % 64 = 0 → w.toNat + 64 ≤ s.sliceLimit s.cur.tile →
      leNat ((t.drop 24).take 4) = v.tile.useBytes m.in0 → v.recordCheck 2 bs = .ok () →
      ∀ s1, Checked s c 2 (.eop 0 p w map c.cr bs) 0 s1 →
        ∃ x, Accepted s1 c 2 (.eop 0 p w map c.cr bs) x ∧ Ends (exec (.eopCollectiveFold a b sc) s) x sc) ∧
    (v.specOpen = false → m.in0 = none ∨ m.in1 ≠ none ∨ m.out ≠ none → Traps (exec (.eopCollectiveFold a b sc) s) s c Cause.illegal map) ∧
    (v.specOpen = false → m.in0 ≠ none ∧ m.in1 = none ∧ m.out = none → 4096 ≤ p.toNat → Traps (exec (.eopCollectiveFold a b sc) s) s c Cause.illegal p)

/-- R222, R223: rings, their setting up and their moves. The model's choices and readings here: assumptions 21, 45. -/
def Obligations.Rings : Prop :=
  Sys2Proof.Claims.RingSetupAndQuery ∧ Sys2Proof.Claims.RingMoves

/-- R225: EOP at acceptance. The model's choices and readings here: assumptions 24, 28. -/
def Obligations.RingCommands : Prop :=
  Sys2Proof.Claims.RingOperations ∧ Sys2Proof.Claims.RingCollective

namespace Sys2Proof.Claims

/-! ## The matrix unit (R234 to R250) -/

/-- An instruction of the units may issue: no branch is unresolved, and the agent is no memory core (R236, R326). -/
def UnitReady (s : State) (c : Ctx) : Prop := (s.view c).specOpen = false ∧ isCore s.cur.tile = false

/-- The slots that the berth has claimed (R238). -/
def claimed (s : State) : BitVec 16 :=
  let m := (s.tile s.cur.tile).mx
  if m.holder = some (s.cur.berth % 4) then m.claims else 0

/-- The matrix unit takes an entry in this cycle: fewer than 4 wait, and for a curb-counted one its window has room (R242). -/
def QueueRoom (s : State) (curb : Bool) : Prop :=
  let t := s.tile s.cur.tile
  t.mx.queue.length < 4 ∧ t.mx.entered ≠ some s.now ∧ (curb = true → t.curbUsed < t.curbWindow)

/-- What an instruction that enters the matrix unit's queue leaves, over the view `v` with its other effects (R242): an entry with the controls as
they stand at issue. -/
structure Queued (v : View) (kind : MxKind) (slots : List Nat) (curb : Bool) (w : View) : Prop where
  entry : ∃ o, (w.s.tile v.s.cur.tile).mx.queue = (v.s.tile v.s.cur.tile).mx.queue ++ [o] ∧ o.kind = kind ∧ o.slots = slots ∧ o.cr = v.ctx.cr ∧
    o.issuer = v.issuer ∧ o.ownView = true ∧ o.doneAt = none ∧ o.id = (v.s.tile v.s.cur.tile).mx.nextId
  unit : (w.s.tile v.s.cur.tile).mx = { (v.s.tile v.s.cur.tile).mx with
    queue := (w.s.tile v.s.cur.tile).mx.queue, nextId := (v.s.tile v.s.cur.tile).mx.nextId + 1, entered := some v.s.now }
  curb : (w.s.tile v.s.cur.tile).curbUsed = (v.s.tile v.s.cur.tile).curbUsed + if curb then 1 else 0
  tile : w.s.tile v.s.cur.tile = { v.s.tile v.s.cur.tile with
    mx := (w.s.tile v.s.cur.tile).mx, curbUsed := (w.s.tile v.s.cur.tile).curbUsed, curbWaiting := (w.s.tile v.s.cur.tile).curbWaiting }
  tiles : ∀ m, m ≠ v.s.cur.tile → w.s.tile m = v.s.tile m
  rest : w.ctx = v.ctx ∧ w.s = { v.s with tiles := w.s.tiles, agenda := w.s.agenda, timed := w.s.timed }

/-- The tile operations: whether AT is zeroed first, the accumulator tile, A, B and the stall count (R241). -/
def tileOpOf : Instr → Option (Bool × BitVec 1 × BitVec 7 × BitVec 7 × BitVec 3)
  | .mma tl a b sc => some (false, tl, a, b, sc)
  | .mmaz tl a b sc => some (true, tl, a, b, sc)
  | _ => none

/-- MACC's functions by number (R243). -/
def maccOf : Instr → Option (Nat × BitVec 3)
  | .maccAddAt1ToAt0 sc => some (0, sc)
  | .maccAddAt0ToAt1 sc => some (1, sc)
  | .maccZeroAt0 sc => some (2, sc)
  | .maccZeroAt1 sc => some (3, sc)
  | .maccExchange sc => some (4, sc)
  | _ => none

/-- The scale arrays that a tile operation reads when it runs (R50, R241). -/
def scaleArrays (cr : CRegs) (g : Word) : List (Nat × Nat) :=
  let nb := g.toNat % 4096 / 32
  (if cr.fmta.getLsbD 3 then wrapRuns cr.scla.toNat (64 * nb) else []) ++ (if cr.fmtb.getLsbD 3 then wrapRuns cr.sclb.toNat (cr.columns * nb) else [])

/-- Element `n` of an accumulator row of `bits`-bit elements (R17). -/
def accElem (bits : Nat) (r : Row) (n : Nat) : Nat := r.toNat / 2 ^ (bits * n) % 2 ^ bits

/-- Row `i` of accumulator tile `a` (R13). -/
def accRow (t : Tile) (a i : Nat) : Row := rowsGet t.mx.acc (896 + 64 * a + i)

/-- An element after a tile operation (R55, R56, R241): for each block of 32 of K, the exact sum of its products times both scales, rounded to f32,
is added to the accumulator. -/
def accumulated (slots : List Host.Cell) (o : MxOp) (w g : Word) (m n start : Nat) : Nat :=
  let cr := o.cr
  let kk := g.toNat % 4096
  let a (k : Nat) := (MxFmt.ofCode cr.fmta).elem (Mem.read slots) (4096 * (w.toNat % 16)) kk m k
  let b (k : Nat) := (MxFmt.ofCode cr.fmtb).elem (Mem.read slots) (4096 * (w.toNat / 16 % 16)) kk n k
  (List.range (kk / 32)).foldl (fun acc j =>
    let ks := (List.range 32).map (32 * j + ·)
    accAdd cr.accFmt acc (blockSum (ks.map a) (ks.map b)
      (if cr.fmta.getLsbD 3 then (o.scaleA.getD (m * (kk / 32) + j) 0).toNat else 127)
      (if cr.fmtb.getLsbD 3 then (o.scaleB.getD (n * (kk / 32) + j) 0).toNat else 127))) start

/-- The head of a tile's matrix queue has run, in the issuing berth's own name, and no fill has touched its operands. -/
def RunsNow (s : State) (n : Nat) (o : MxOp) (rest : List MxOp) : Prop :=
  (s.tile n).mx.queue = o :: rest ∧ (∃ d, o.doneAt = some d ∧ d ≤ s.now) ∧ o.parent = none ∧ o.reply = none ∧ o.overwritten = []

/-- The end of the head of a matrix queue leaves it out, and of the unit changes nothing but accumulators and slots. -/
structure UnitDone (s t : State) (n : Nat) (o : MxOp) : Prop where
  queue : (t.tile n).mx.queue.map MxOp.id = ((s.tile n).mx.queue.map MxOp.id).filter fun x => x != o.id
  unit : (t.tile n).mx = { (s.tile n).mx with
    queue := (t.tile n).mx.queue, acc := (t.tile n).mx.acc, accPoison := (t.tile n).mx.accPoison, slots := (t.tile n).mx.slots,
    slotPoison := (t.tile n).mx.slotPoison }
  frame : t.mem = s.mem ∧ (∀ b, t.ctx? n b = s.ctx? n b) ∧ ∀ m, m ≠ n → t.tile m = s.tile m

end Sys2Proof.Claims

/-- R238, R239: SCLAIM claims all slots of its mask and gives the mask, or claims nothing and gives 0; SRELS releases the slots that are the
berth's once nothing that names them is at work, and the unit with the last. -/
def Obligations.SlotClaims : Prop :=
  ∀ (a : BitVec 7) (sc : BitVec 3) (s : State) (c : Ctx), Issues s c → UnitReady s c → Clear (s.view c) [⟨2, a, .src false⟩] →
    let x := (s.view c).scalar 2 a
    let mask := x.setWidth 16
    let mx := (s.tile s.cur.tile).mx
    let out := mask &&& claimed s
    let good := mask ≠ 0 ∧ mx.reserved = false ∧ (∀ h, mx.holder = some h → h = s.cur.berth % 4) ∧ claimed s &&& mask = 0
    let fresh := c.task.cls ≠ 0 ∧ c.mxReset = false
    (2 ^ 16 ≤ x.toNat → Traps (exec (.sclaim a sc) s) s c Cause.illegal x ∧ Traps (exec (.srels a sc) s) s c Cause.illegal x) ∧
    (x.toNat < 2 ^ 16 → good → Gives (exec (.sclaim a sc) s) ((s.modTile s.cur.tile fun t => { t with
      mx := { t.mx with
        holder := some (s.cur.berth % 4), claims := claimed s ||| mask, acc := if fresh then [] else t.mx.acc,
        accPoison := if fresh then [] else t.mx.accPoison } }).view { c with mxReset := true }) 0 (.scalar x) sc) ∧
    (x.toNat < 2 ^ 16 → ¬ good → Gives (exec (.sclaim a sc) s) (s.view c) 0 (.scalar 0) sc) ∧
    (x.toNat < 2 ^ 16 → (∃ o ∈ mx.queue, o.names out = true) ∨ s.filling s.cur.tile out = true →
      exec (.srels a sc) s = .next (holdIssue s)) ∧
    (x.toNat < 2 ^ 16 → (∀ o ∈ mx.queue, o.names out = false) → s.filling s.cur.tile out = false → mx.holder = some (s.cur.berth % 4) →
      Ends (exec (.srels a sc) s) ((s.modTile s.cur.tile fun t => { t with
        mx := { t.mx with
          claims := claimed s &&& ~~~out, holder := if claimed s &&& ~~~out = 0 then none else t.mx.holder } }).view c) sc) ∧
    (x.toNat < 2 ^ 16 → (∀ o ∈ mx.queue, o.names 0 = false) → s.filling s.cur.tile 0 = false → mx.holder ≠ some (s.cur.berth % 4) →
      Ends (exec (.srels a sc) s) (s.view c) sc)

/-- R240 to R243, R245: SFILL, MMA, MMAZ, MACC and RQT whose words keep their layouts and whose slots are the berth's own enter the matrix unit's
queue with the controls of their issue; one that finds the queue full waits. -/
def Sys2Proof.Claims.MatrixQueueEntries : Prop :=
  ∀ (s : State) (c : Ctx), Issues s c → UnitReady s c →
    let v := s.view c
    let mine (k : Nat) := (claimed s).getLsbD k = true
    (∀ (a b : BitVec 7) (sc : BitVec 3), Clear v (abUses a b) → Quiet s c →
      let p := v.scalar 2 a
      let w := v.scalar 3 b
      let slot := w.toNat % 16
      let off := w.toNat / 2 ^ 16 % 4096
      let len := w.toNat / 2 ^ 32
      w.extractLsb' 4 12 = 0 → w.extractLsb' 28 4 = 0 → len % 16 = 0 → 1 ≤ len → off % 16 = 0 → off + len ≤ 4096 → mine slot →
      ∀ src, Near v p len 16 src → v.nearPoison src len = false →
        (QueueRoom s false → ∃ x, Queued (v.stamp src len) (.sfill slot off (v.readNear src len)) [slot] false x ∧ Ends (exec (.sfill a b sc) s) x sc) ∧
        (¬ QueueRoom s false → exec (.sfill a b sc) s = .next (holdIssue s))) ∧
    (∀ (i : Instr) (zero : Bool) (tl : BitVec 1) (a b : BitVec 7) (sc : BitVec 3), tileOpOf i = some (zero, tl, a, b, sc) → Clear v (abUses a b) → Quiet s c →
      let w := v.scalar 2 a
      let g := v.scalar 3 b
      let slots := (mmaSlots c.cr w g).1 ++ (mmaSlots c.cr w g).2
      w.toNat < 256 → g.toNat < 4096 → 32 ≤ g.toNat → g.toNat ≤ 2048 → g.toNat % 32 = 0 → (∀ k ∈ slots, k < 16 ∧ mine k) →
      (s.tile s.cur.tile).shadowPending tl.toNat = false →
        (QueueRoom s true → ∃ x, Queued (v.stampRuns (scaleArrays c.cr g)) (.mma zero tl.toNat w g) slots true x ∧ Ends (exec i s) x sc) ∧
        (4 ≤ (s.tile s.cur.tile).mx.queue.length → exec i s = .next (holdIssue s))) ∧
    (∀ (i : Instr) (fn : Nat) (sc : BitVec 3), maccOf i = some (fn, sc) →
      ((s.tile s.cur.tile).mx.holder = some (s.cur.berth % 4) → (∀ k, k < 2 → (s.tile s.cur.tile).shadowPending k = false) → QueueRoom s false →
        ∃ x, Queued v (.macc fn) [] false x ∧ Ends (exec i s) x sc) ∧
      ((s.tile s.cur.tile).mx.holder ≠ some (s.cur.berth % 4) → Traps (exec i s) s c Cause.regwin 896)) ∧
    (∀ (fn : BitVec 1) (a b : BitVec 7) (sc : BitVec 3), Clear v (abUses a b) → Quiet s c →
      let w := v.scalar 2 a
      let g := v.scalar 3 b
      let src := g.toNat % 2 ^ 32
      let dst := g.toNat / 2 ^ 32
      w.toNat < 256 → src < 2 ^ 17 → dst < 2 ^ 17 → mine (w.toNat % 16) → mine (w.toNat / 16 % 16) →
      (∀ k, k < 128 → (src + k) % 2 ^ 17 < s.sliceLimit s.cur.tile ∧ (dst + k) % 2 ^ 17 < s.sliceLimit s.cur.tile) → QueueRoom s true →
      ∃ x, Queued (v.stampRuns (wrapRuns src 128)) (.rqt (decide (fn = 1)) w g) [w.toNat % 16, w.toNat / 16 % 16] true x ∧
        Ends (exec (.rqt fn a b sc) s) x sc)

/-- R240, R241: a broken slot or geometry word is ILLEGAL with that word in TRAPVAL, and a slot that is not the berth's own is REGWIN with the
lowest such slot. -/
def Sys2Proof.Claims.MatrixQueueTraps : Prop :=
  ∀ (i : Instr) (zero : Bool) (tl : BitVec 1) (a b : BitVec 7) (sc : BitVec 3), tileOpOf i = some (zero, tl, a, b, sc) →
  ∀ (s : State) (c : Ctx), Issues s c → UnitReady s c → Clear (s.view c) (abUses a b) →
    let w := (s.view c).scalar 2 a
    let g := (s.view c).scalar 3 b
    let slots := (mmaSlots c.cr w g).1 ++ (mmaSlots c.cr w g).2
    let geo := g.toNat < 4096 ∧ 32 ≤ g.toNat ∧ g.toNat ≤ 2048 ∧ g.toNat % 32 = 0
    (256 ≤ w.toNat → Traps (exec i s) s c Cause.illegal w) ∧ (w.toNat < 256 → ¬ geo → Traps (exec i s) s c Cause.illegal g) ∧
    (w.toNat < 256 → geo → (∃ k ∈ slots, 16 ≤ k) → Traps (exec i s) s c Cause.illegal w) ∧
    (w.toNat < 256 → geo → (∀ k ∈ slots, k < 16) → ∀ k ∈ slots, (claimed s).getLsbD k = false →
      (∀ j ∈ slots, (claimed s).getLsbD j = false → k ≤ j) → Traps (exec i s) s c Cause.regwin (BitVec.ofNat 64 k))

/-- R244, R246: MSTAT gives the claimed slots, or the entries of the unit's queue; MCAP replaces the key when B is the current one and A is not 0,
and gives 0, or changes nothing and gives 1. -/
def Sys2Proof.Claims.MatrixStatusAndKey : Prop :=
  ∀ (a b : BitVec 7) (sc : BitVec 3) (s : State) (c : Ctx), Issues s c → UnitReady s c →
    let v := s.view c
    Gives (exec (.mstatClaimed sc) s) v 0 (.scalar ((claimed s).setWidth 64)) sc ∧
    Gives (exec (.mstatInFlight sc) s) v 0 (.scalar (BitVec.ofNat 64 (s.tile s.cur.tile).mx.queue.length)) sc ∧
    (Clear v (abUses a b) →
      let ok := v.scalar 3 b = (s.tile s.cur.tile).mcapkey ∧ v.scalar 2 a ≠ 0
      (ok → Gives (exec (.mcap a b sc) s) ((s.modTile s.cur.tile fun t => { t with mcapkey := v.scalar 2 a }).view c) 0 (.scalar 0) sc) ∧
      (¬ ok → Gives (exec (.mcap a b sc) s) v 0 (.scalar 1) sc))

/-- R248: MREM sends the 64 bytes at its pointer as a message of KIND 5 to the tile that B names, and gives the status of a message: 2 for a
non-zero TSD, COUNT or STAGE or a coordinate outside the field, 1 for a full send queue, else 0. -/
def Sys2Proof.Claims.RemoteCommandSend : Prop :=
  ∀ (a b : BitVec 7) (sc : BitVec 3) (s : State) (c : Ctx) (l : Launch), Issues s c → UnitReady s c → Clear (s.view c) (abUses a b) → Quiet s c →
    s.launch? c.ctxnum = some l →
    let v := s.view c
    let w := v.scalar 3 b
    let x := w.toNat % 16
    let y := w.toNat / 16 % 16
    let z := w.toNat / 256 % 16
    let good := w.toNat < 2 ^ 12 ∧ x < l.ext.1 ∧ y < l.ext.2.1 ∧ z < l.ext.2.2
    ∀ off, Near v (v.scalar 2 a) 64 64 off → v.nearPoison off 64 = false →
      (¬ good → Gives (exec (.mrem a b sc) s) (v.stamp off 64) 0 (.scalar 2) sc) ∧
      (good → 8 ≤ v.queuedMessages → Gives (exec (.mrem a b sc) s) (v.stamp off 64) 0 (.scalar 1) sc) ∧
      (good → v.queuedMessages < 8 → ∃ m : Message, m.kind = 5 ∧ m.payload = v.readNear off 64 ∧
        m.destTile = l.physical (x + l.ext.1 * y + l.ext.1 * l.ext.2.1 * z) ∧ m.src = s.cur.tile ∧ m.ctxnum = c.ctxnum ∧
        Gives (exec (.mrem a b sc) s) (((v.stamp off 64).s.modBerth s.cur.tile s.cur.berth fun x => { x with seq := x.seq + 1 }).view
          (Ctx.buffering c [.message m])) 0 (.scalar 0) sc)

/-- R241 to R243: when the head of a tile's matrix queue completes it leaves the queue; a tile operation has added every block into each
element of its accumulator tile, MACC has added, zeroed or exchanged, SFILL has written its bytes, and no other accumulator row or slot
byte has changed. The model's choices and readings here: assumption 40. -/
def Obligations.MatrixUnitResults : Prop :=
  ∀ (n : Nat) (s : State) (o : MxOp) (rest : List MxOp), RunsNow s n o rest →
    let bits := o.cr.accBits
    (∀ zero tl w g, o.kind = .mma zero tl w g → tl < 2 → ∃ t, exec (.tileOperationComplete n) s = .next t ∧ UnitDone s t n o ∧
      (t.tile n).mx.slots = (s.tile n).mx.slots ∧ (∀ i, i < 64 → accRow (t.tile n) (1 - tl) i = accRow (s.tile n) (1 - tl) i) ∧
      ∀ i j, i < 64 → j < o.cr.columns → accElem bits (accRow (t.tile n) tl i) j =
        accumulated (s.tile n).mx.slots o w g i j (if zero then 0 else accElem bits (accRow (s.tile n) tl i) j)) ∧
    (∀ fn, o.kind = .macc fn → fn < 5 → ∃ t, exec (.tileOperationComplete n) s = .next t ∧ UnitDone s t n o ∧
      (t.tile n).mx.slots = (s.tile n).mx.slots ∧ ∀ a i, a < 2 → i < 64 →
        (fn = a → ∀ j, j < o.cr.columns → accElem bits (accRow (t.tile n) a i) j =
          o.cr.accFmt.encode .rne ((o.cr.accFmt.decode (accElem bits (accRow (s.tile n) a i) j)).add .rne
            (o.cr.accFmt.decode (accElem bits (accRow (s.tile n) (1 - a) i) j)))) ∧
        (fn = 2 + a → accRow (t.tile n) a i = 0) ∧ (fn = 4 → accRow (t.tile n) a i = accRow (s.tile n) (1 - a) i) ∧
        (fn ≠ a → fn ≠ 2 + a → fn ≠ 4 → accRow (t.tile n) a i = accRow (s.tile n) a i)) ∧
    (∀ k off d, o.kind = .sfill k off d → ∃ t, exec (.tileOperationComplete n) s = .next t ∧ UnitDone s t n o ∧
      (t.tile n).mx.acc = (s.tile n).mx.acc ∧ ∀ x, Mem.read (t.tile n).mx.slots x =
        if 4096 * k + off ≤ x ∧ x < 4096 * k + off + d.length then d.getD (x - (4096 * k + off)) 0 else Mem.read (s.tile n).mx.slots x)

/-- R240 to R243, R245: what enters the matrix unit's queue, and what traps. The model's choices and readings here: assumption 46. -/
def Obligations.MatrixQueue : Prop :=
  Sys2Proof.Claims.MatrixQueueEntries ∧ Sys2Proof.Claims.MatrixQueueTraps

/-- R244, R246, R248: MSTAT, MCAP and MREM. -/
def Obligations.MatrixControls : Prop :=
  Sys2Proof.Claims.MatrixStatusAndKey ∧ Sys2Proof.Claims.RemoteCommandSend

namespace Sys2Proof.Claims

/-! ## The expansion unit (R251 to R263) -/

/-- An expansion instruction may run: XORD is within its kind's limit, no other berth holds the unit, and it is free (R22, R24, R263). -/
def ExpansionReady (s : State) (c : Ctx) : Prop :=
  let t := s.tile s.cur.tile
  UnitReady s c ∧ t.xord.toNat ≤ (if t.xkind = 0 then 127 else 15) ∧ t.xu.reserved = false ∧
  (∀ h, t.xu.holder = some h → h = s.cur.berth % 4) ∧ (s.view c).outsideField = false ∧ t.xu.busyUntil ≤ s.now

/-- The registers as an instruction finds them: zero at an ordered task's first use (R235). -/
def expFile (s : State) (c : Ctx) : Vector (BitVec 8192) 8 :=
  if c.task.cls ≠ 0 ∧ c.xuReset = false then Vector.replicate 8 0 else (s.tile s.cur.tile).xu.e
def expTags (s : State) (c : Ctx) : Vector (BitVec 32) 8 :=
  if c.task.cls ≠ 0 ∧ c.xuReset = false then Vector.replicate 8 0 else (s.tile s.cur.tile).xu.tags

/-- The view of an expansion instruction: the berth holds the unit, which is busy for an occupancy, with these registers and tags (R22, R263). -/
def Holding (s : State) (c : Ctx) (occ : Nat) (e : Vector (BitVec 8192) 8) (tags : Vector (BitVec 32) 8) : View :=
  ((s.modTile s.cur.tile fun t => { t with
    xu := { t.xu with holder := some (s.cur.berth % 4), busyUntil := s.now + occ, e := e, tags := tags } }).atCycle (s.now + occ)
    (.expansionInstructionComplete s.cur.tile)).view { c with xuReset := true }

/-- Entry `j` of a register (R22). -/
def entry (e : BitVec 8192) (j : Nat) : BitVec 32 := e.extractLsb' (32 * j) 32

/-- A register after an operation of an order: the entries of its coefficients take new values, and every other keeps its bits (R252). -/
def Rewritten (old new : BitVec 8192) (written : Nat → Prop) (vals : List FVal) : Prop :=
  ∀ j, j < 256 → (written j → entry new j = BitVec.ofNat 32 (f32Bits (vals.getD j (.zero false)))) ∧ (¬ written j → entry new j = entry old j)

/-! ## The consolidator (R264 to R272) -/

/-- A delta instruction meets no wait of the slice (R179, R182). -/
def DeltaStarts (s : State) (c : Ctx) : Prop := UnitReady s c ∧ Quiet s c

/-- The consolidator can serve the berth: it is free, and no other berth stands before this one in its line (R272). -/
def Serves (s : State) : Prop :=
  (s.tile s.cur.tile).consolidatorFree ≤ s.now ∧ ∀ k, (s.tile s.cur.tile).deltaWait.head? = some k → k = s.cur.berth

/-- A berth that the consolidator cannot serve stands in its line, once, behind those that came before it, and tries again in the next cycle (R272). -/
def StandsInLine (o : Out) (s : State) : Prop := ∃ t, o = .next t ∧ TileOnly s t s.cur.tile ∧
  (t.tile s.cur.tile).deltaWait =
    (if s.cur.berth ∈ (s.tile s.cur.tile).deltaWait then (s.tile s.cur.tile).deltaWait else (s.tile s.cur.tile).deltaWait ++ [s.cur.berth]) ∧
  (t.berth s.cur.tile s.cur.berth).nextIssue = s.now + 1 ∧ ∀ b, t.ctx? s.cur.tile b = s.ctx? s.cur.tile b

/-- A near run that holds no poisoned word. -/
def Reads (v : View) (p : Word) (len align off : Nat) : Prop := Near v p len align off ∧ v.nearPoison off len = false

/-- The consolidator is busy for a time (R272). -/
def serving (s : State) (lat : Nat) : State := s.modTile s.cur.tile fun t => { t with consolidatorFree := s.now + lat }

/-- A context that stores runs of bytes (R234). -/
def Ctx.storing (c : Ctx) (ws : List (Nat × List Byte)) : Ctx := Ctx.buffering c (ws.map fun w => .store w.1 w.2)

/-- The sum of the multiplicities of a group (R264). -/
def groupSum (rs : List DeltaRec) (k v t : Nat) : Int := ((rs.filter fun r => r.key == k && r.value == v && r.time == t).map DeltaRec.mult).sum

/-- The sum clamped to s32 (R264). -/
def clamped (i : Int) : Int := max (-(2 ^ 31)) (min (2 ^ 31 - 1) i)

/-- The order of output (R264). -/
def Before (a b : DeltaRec) : Prop :=
  a.time < b.time ∨ (a.time = b.time ∧ (a.key < b.key ∨ (a.key = b.key ∧ (BitVec.ofNat 64 a.value).toInt < (BitVec.ofNat 64 b.value).toInt)))

end Sys2Proof.Claims

/-- R253, R22, R235, R263: XCLR clears a register and its tag, XLD loads 1,024 bytes and clears the tag, and XST stores the register; the berth
then holds the unit, and every other register is as the unit had it. Another holder is REGWIN with the register's number. -/
def Sys2Proof.Claims.ExpansionRegisters : Prop :=
  ∀ (e : BitVec 3) (a : BitVec 7) (sc : BitVec 3) (s : State) (c : Ctx), Issues s c →
    let v := s.view c
    let k : Fin 8 := Fin.ofNat 8 e.toNat
    (ExpansionReady s c →
      Ends (exec (.xclr e sc) s) (Holding s c 4 ((expFile s c).set k 0) ((expTags s c).set k 0)) sc ∧
      (Clear v [⟨2, a, .src false⟩] → Quiet s c → ∀ off, Reads v (v.scalar 2 a) 1024 64 off → c.task.cls = 0 →
        Ends (exec (.xld e a sc) s)
          (Holding s c 20 ((expFile s c).set k (BitVec.ofNat 8192 (leNat (v.readNear off 1024)))) ((expTags s c).set k 0)) sc) ∧
      (Clear v [⟨2, a, .src false⟩] → Quiet s c → ∀ off, Near v (v.scalar 2 a) 1024 64 off →
        let c1 := Ctx.storing c [(off, (List.range 1024).map (byteOf ((expFile s c)[k]).toNat))]
        c1.storeEntries ≤ 256 → Ends (exec (.xst e a sc) s) (Holding s c1 20 (expFile s c) (expTags s c)) sc)) ∧
    (UnitReady s c → (s.tile s.cur.tile).xord.toNat ≤ (if (s.tile s.cur.tile).xkind = 0 then 127 else 15) →
      (∃ h, (s.tile s.cur.tile).xu.holder = some h ∧ h ≠ s.cur.berth % 4) →
      Traps (exec (.xclr e sc) s) s c Cause.regwin (BitVec.ofNat 64 e.toNat))

/-- R254 to R257, R260, R252: XFORM, XSHIFT, XCONV and XLSHIFT write only the coefficients of order at most XORD of their register, with the sums
that the kind gives; XCONV also raises the tag, and traps where its source cluster does not come after the last. -/
def Sys2Proof.Claims.ExpansionSums : Prop :=
  ∀ (e : BitVec 3) (a b : BitVec 7) (sc : BitVec 3) (s : State) (c : Ctx), Issues s c → ExpansionReady s c →
    let v := s.view c
    let t := s.tile s.cur.tile
    let k : Fin 8 := Fin.ofNat 8 e.toNat
    let kind0 := decide (t.xkind = 0)
    let p := t.xord.toNat
    let E := expFile s c
    let T := expTags s c
    let old := entriesOf E[k]
    let x := v.scalar 2 a
    let y := v.scalar 3 b
    let src := entriesOf E[Fin.ofNat 8 x.toNat]
    let count := if kind0 then 2 * (p + 1) else (p + 1) ^ 2
    let shift := if kind0 then 8 + (p + 1) ^ 2 else 8 + ((p + 1) ^ 4 + 7) / 8
    (Clear v (abUses a b) → ∃ r, Rewritten E[k] r (fun j => j < count ∧ ¬ (kind0 = true ∧ j = 1))
        (if kind0 then form0 p (pointOf x y) (highF32 y) t.centreA old else form1 p (highF32 y) (diff (pointOf x y) t.centreA) old) ∧
      Ends (exec (.xform e a b sc) s) (Holding s c (if kind0 then 4 + p else 4 + (p + 1) ^ 2) (E.set k r) T) sc) ∧
    (Clear v [⟨2, a, .src false⟩] →
      (x.toNat < 8 → ∃ r, Rewritten E[k] r (fun j => j < count)
          (if kind0 then addCoefs old (shift0 p (diff t.centreA t.centreB).flat (coefs src p))
            else shift1 p (diff t.centreA t.centreB) (solidOf src p) old) ∧
        Ends (exec (.xshift e a sc) s) (Holding s c shift (E.set k r) T) sc) ∧
      (x.toNat < 8 → ∃ r, Rewritten E[k] r (fun j => j < count)
          (if kind0 then addCoefs old (localShift0 p (diff t.centreB t.centreA).flat (coefs src p))
            else localShift1 p (diff t.centreB t.centreA) (solidOf src p) old) ∧
        Ends (exec (.xlshift e a sc) s) (Holding s c shift (E.set k r) T) sc) ∧
      (8 ≤ x.toNat → Traps (exec (.xshift e a sc) s) s c Cause.illegal x ∧ Traps (exec (.xlshift e a sc) s) s c Cause.illegal x)) ∧
    (Clear v (abUses a b) → x.toNat < 8 → y.toNat < 2 ^ 32 - 1 →
      (T[k] = 0 ∨ T[k].toNat < y.toNat + 1 → ∃ r, Rewritten E[k] r (fun j => j < count)
          (if kind0 then addCoefs old (conv0 p (diff t.centreB t.centreA).flat (coefs src p))
            else conv1 p (diff t.centreB t.centreA) (solidOf src p) old) ∧
        Ends (exec (.xconv e a b sc) s) (Holding s c shift (E.set k r) (T.set k (BitVec.ofNat 32 (y.toNat + 1)))) sc) ∧
      (T[k] ≠ 0 → y.toNat + 1 ≤ T[k].toNat → Traps (exec (.xconv e a b sc) s) s c Cause.illegal y))

/-- R258, R260, R261: XEVAL and XMEVAL give the potential at a point, of the local expansion about B or the multipole expansion about A; XADM gives
0 for a far pair of clusters, 1 for two near leaves and 2 otherwise. -/
def Sys2Proof.Claims.ExpansionValues : Prop :=
  ∀ (e : BitVec 3) (a b : BitVec 7) (sc : BitVec 3) (s : State) (c : Ctx), Issues s c → ExpansionReady s c →
    let v := s.view c
    let t := s.tile s.cur.tile
    let kind0 := decide (t.xkind = 0)
    let p := t.xord.toNat
    let es := entriesOf (expFile s c)[Fin.ofNat 8 e.toNat]
    let w (occ : Nat) := Holding s c occ (expFile s c) (expTags s c)
    let point := pointOf (v.scalar 2 a) (v.scalar 3 b)
    let occ := if kind0 then 8 + 2 * (p + 1) else 8 + 2 * (p + 1) ^ 2
    (Clear v (abUses a b) →
      Gives (exec (.xeval e a b sc) s) (w occ) 0 (.scalar (if kind0 then (eval0 (diff point t.centreB).flat (coefs es p)).word
        else BitVec.ofNat 64 (f32Bits (eval1 p (diff point t.centreB) (solidOf es p))))) sc ∧
      Gives (exec (.xmeval e a b sc) s) (w occ) 0 (.scalar (if kind0 then (multiEval0 (diff point t.centreA).flat (coefs es p)).word
        else BitVec.ofNat 64 (f32Bits (multiEval1 p (diff point t.centreA) (solidOf es p))))) sc) ∧
    (Clear v [⟨2, a, .src false⟩] → t.xthetaOk = true →
      let x := v.scalar 2 a
      let A := t.centreA
      let B := t.centreB
      let sq (m n : FVal) : FVal := (exactSub m n).mul (exactSub m n)
      let flat := exactAdd (sq A.x B.x) (sq A.y B.y)
      let dist := if kind0 then flat else exactAdd flat (sq A.z B.z)
      let r := exactAdd (highF32 (t.xreg 2)) (highF32 (t.xreg 4))
      let th := f32Of t.xtheta.toNat
      let far := (r.mul r).cmp ((th.mul th).mul dist) = some (-1)
      (x.toNat < 4 → Gives (exec (.xadm a sc) s) (w 8) 0 (.scalar (if far then 0 else if x = 3 then 1 else 2)) sc) ∧
      (4 ≤ x.toNat → Traps (exec (.xadm a sc) s) s c Cause.illegal x)) ∧
    (Clear v [⟨2, a, .src false⟩] → t.xthetaOk = false → Traps (exec (.xadm a sc) s) s c Cause.illopnd (BitVec.ofNat 64 (2 ^ 63 + 0x402)))

/-- R262: XNEAR appends its entry to ring NLR, a full ring being RINGOVER; XDIRECT adds every source's potential at every target, and stores the
run; an entry that breaks its layout or limits is ILLEGAL. -/
def Sys2Proof.Claims.NearField : Prop :=
  ∀ (a b : BitVec 7) (sc : BitVec 3) (s : State) (c : Ctx), Issues s c → ExpansionReady s c → Quiet s c → Clear (s.view c) (abUses a b) →
    let v := s.view c
    let t := s.tile s.cur.tile
    let x := v.scalar 2 a
    let y := v.scalar 3 b
    let reg := (t.eregs[(3 : Fin 5)])[(5 : Fin 8)]
    let k := reg.toNat % 16
    let r := t.rings[Fin.ofNat 16 k]
    let at_ := r.base + r.prod.toNat % 2 ^ r.lg * 16
    (r.valid = false ∨ r.eng ≠ 3 ∨ r.esl ≠ 4 → Traps (exec (.xnear a b sc) s) s c Cause.illegal reg) ∧
    (r.valid = true → r.eng = 3 → r.esl = 4 →
      (2 ^ r.lg ≤ (r.prod - r.cons).toNat → Traps (exec (.xnear a b sc) s) s c Cause.ringover (BitVec.ofNat 64 k)) ∧
      ((r.prod - r.cons).toNat < 2 ^ r.lg → ∀ off, Near v (nearPtr c.cr.tilev.toNat at_) 16 16 off →
        let c1 := Ctx.storing c [(off, (List.range 8).map (byteOf x.toNat) ++ (List.range 8).map (byteOf y.toNat))]
        let w := Holding s c1 2 (expFile s c) (expTags s c)
        c1.storeEntries ≤ 256 → ∃ s1, RingMoved w.s s1 k (r.prod + 1) r.cons ∧ Ends (exec (.xnear a b sc) s) (s1.view w.ctx) sc)) ∧
    (let kind0 := decide (t.xkind = 0)
      let toff := x.toNat % 2 ^ 32
      let soff := x.toNat / 2 ^ 32
      let poff := y.toNat % 2 ^ 32
      let tn := y.toNat / 2 ^ 32 % 2 ^ 16
      let sn := y.toNat / 2 ^ 48
      let size := if kind0 then 8 else 4
      let badA := toff % 16 ≠ 0 ∨ soff % 16 ≠ 0 ∨ 0x20000 < toff + 16 * tn ∨ 0x20000 < soff + 16 * sn
      let badB := poff % size ≠ 0 ∨ tn = 0 ∨ 256 < tn ∨ sn = 0 ∨ 256 < sn ∨ 4096 < tn * sn ∨ 0x20000 < poff + size * tn
      let near (o len align : Nat) : Prop := Reads v (nearPtr c.cr.tilev.toNat o) len align o
      (badA → Traps (exec (.xdirect a b sc) s) s c Cause.illegal x) ∧ (¬ badA → badB → Traps (exec (.xdirect a b sc) s) s c Cause.illegal y) ∧
      (¬ badA → ¬ badB → near toff (16 * tn) 16 → near soff (16 * sn) 16 → near poff (size * tn) size → c.task.cls = 0 →
        let c1 := Ctx.storing c [(poff, nearPotentials kind0 (v.readNear toff (16 * tn)) (v.readNear soff (16 * sn)) (v.readNear poff (size * tn)))]
        c1.storeEntries ≤ 256 → Ends (exec (.xdirect a b sc) s) (Holding s c1 (16 + 4 * tn * sn) (expFile s c) (expTags s c)) sc))

/-- R264: consolidation keeps one record of each group of equal KEY, VALUE and TIME whose multiplicities do not sum to 0, with their sum clamped
to s32, and puts the records in the order of TIME, KEY and VALUE as s64. -/
def Sys2Proof.Claims.Consolidation : Prop :=
  ∀ (rs : List DeltaRec), (∀ r ∈ rs, r.value < 2 ^ 64) →
    let out := (consolidated false rs).1
    out.Pairwise Before ∧ (∀ r ∈ out, r.mult = clamped (groupSum rs r.key r.value r.time) ∧ groupSum rs r.key r.value r.time ≠ 0) ∧
    (∀ k v t, groupSum rs k v t ≠ 0 → ∃ r ∈ out, r.key = k ∧ r.value = v ∧ r.time = t) ∧
    ((consolidated false rs).2 = true ↔ ∃ r ∈ rs, clamped (groupSum rs r.key r.value r.time) ≠ groupSum rs r.key r.value r.time)

/-- R265, R266, R270: DEMIT sends its delta records as one message and gives the status of a message; DCONS consolidates its records in place,
zeroes the rest of the run and gives their number with MOVF in bit 62; DFRONT gives the frontier of a stage as the tile has it, and the
CHRON of the commits below it is acquired (R304, R309). The model's choices and readings here: assumptions 32, 73. -/
def Obligations.DeltaRecords : Prop :=
  ∀ (a b : BitVec 7) (fn : BitVec 3) (sc : BitVec 3) (s : State) (c : Ctx), Issues s c → DeltaStarts s c → c.task.cls = 0 →
    let v := s.view c
    let p := v.scalar 2 a
    let w := v.scalar 3 b
    (Clear v (abUses a b) → ∀ l, s.launch? c.ctxnum = some l →
      let count := (w.extractLsb' 16 6).toNat
      let n := if 1 ≤ count ∧ count ≤ 7 then count else 1
      ∀ off, Reads v p (32 * n) 32 off →
        let bs := v.readNear off (32 * n)
        let dest := l.demitTile w c.task (deltaRecs bs)
        (dest = none → Gives (exec (.demit a b sc) s) v 0 (.scalar 2) sc) ∧
        (dest ≠ none → 8 ≤ v.queuedMessages → Gives (exec (.demit a b sc) s) v 0 (.scalar 1) sc) ∧
        (∀ t, dest = some t → v.queuedMessages < 8 → ∃ m : Message, m.kind = 4 ∧ m.destTile = t ∧ m.payload = bs ∧ m.count = n ∧
          m.stage = w.extractLsb' 12 4 ∧ (∀ r ∈ deltaRecs bs, m.ts.toNat ≤ r.time) ∧ m.src = s.cur.tile ∧ m.ctxnum = c.ctxnum ∧
          Gives (exec (.demit a b sc) s) ((s.modBerth s.cur.tile s.cur.berth fun x => { x with seq := x.seq + 1 }).view
            (Ctx.buffering c [.message m])) 0 (.scalar 0) sc)) ∧
    (Clear v (abUses a b) → Serves s →
      let n := w.toNat
      (n = 0 ∨ 256 < n → Traps (exec (.dcons fn a b sc) s) s c Cause.illegal w) ∧
      (1 ≤ n → n ≤ 256 → ∀ off, Reads v p (32 * n) 32 off →
        let r := consolidated (decide (fn = 1)) (deltaRecs (v.readNear off (32 * n)))
        let c1 := Ctx.storing c [(off, r.1.flatMap DeltaRec.bytes ++ List.replicate (32 * (n - r.1.length)) 0)]
        c1.storeEntries ≤ 256 → Gives (exec (.dcons fn a b sc) s) ((serving s (8 + 2 * n)).view c1) 0
          (.scalar (BitVec.ofNat 64 (r.1.length + if r.2 then 2 ^ 62 else 0))) sc)) ∧
    (Clear v [⟨2, a, .src false⟩] →
      (p.toNat < 16 → ∀ l, s.launch? c.ctxnum = some l → ∃ x : Word,
        Gives (exec (.dfront a sc) s) (s.view { c with floor := max c.floor (l.commitChron + 1) }) 0 (.scalar x) sc ∧
        ∀ f, (s.tile s.cur.tile).frontierF.find? (fun y => y.1 == c.ctxnum && y.2.1 == p.toNat) = some f → x = f.2.2) ∧
      (16 ≤ p.toNat → Traps (exec (.dfront a sc) s) s c Cause.illegal p))

/-- R267 to R269, R271, R272: an instruction of the consolidator that it cannot serve stands in its line; DINS merges its record into its key's bucket and gives the status; DLOOK gives the live entries of a key, packed from byte
0; DCOMP raises the times of an arrangement, merges equal entries and gives the live ones, a time beyond the stage's frontier being ILLEGAL. -/
def Sys2Proof.Claims.Arrangements : Prop :=
  ∀ (a b : BitVec 7) (sc : BitVec 3) (s : State) (c : Ctx) (off : Nat) (arr : Arr), Issues s c → DeltaStarts s c → c.task.cls = 0 →
    Clear (s.view c) (abUses a b) →
    let v := s.view c
    (¬ Serves s → StandsInLine (exec (.dcons 0 a b sc) s) s ∧ StandsInLine (exec (.dins a b sc) s) s ∧
      StandsInLine (exec (.dlook a b sc) s) s ∧ StandsInLine (exec (.dcomp a b sc) s) s) ∧
    (Serves s →
    let bucket (key : Nat) : Nat := arr.base + 256 *
      (if arr.lgb = 0 then 0 else ((BitVec.ofNat 64 key ^^^ BitVec.ofNat 64 arr.seed) * 0x9e3779b97f4a7c15#64).toNat / 2 ^ (64 - arr.lgb))
    let entries (at_ : Nat) : List DeltaRec := (List.range 8).map fun j => DeltaRec.ofBytes (v.readNear (at_ + 32 * j) 32)
    let inside (o len : Nat) : Prop := Reads v (nearPtr c.cr.tilev.toNat o) len 1 o
    (∀ src, Reads v (v.scalar 2 a) 32 32 src → Reads v (v.scalar 3 b) 64 1 off → arrAt v.readNear off = some arr →
      let r := DeltaRec.ofBytes (v.readNear src 32)
      let ws := (arr.insert v.readNear r).1
      let c1 := Ctx.buffering c [.insert off (v.readNear src 32) ws]
      (r.mult = 0 → Gives (exec (.dins a b sc) s) ((serving s 12).view c) 0 (.scalar 0) sc) ∧
      (r.mult ≠ 0 → inside (bucket r.key) 256 → c1.storeEntries ≤ 256 →
      ∃ x : Nat, Gives (exec (.dins a b sc) s) ((serving s 12).view c1) 0 (.scalar (BitVec.ofNat 64 x)) sc ∧
        (∀ i, r.mult ≠ 0 → i < 8 →
          let e := (entries (bucket r.key)).getD i {}
          e.mult ≠ 0 → e.key = r.key → e.value = r.value → e.time = r.time →
          (∀ j, j < i → let f := (entries (bucket r.key)).getD j {}; ¬ (f.mult ≠ 0 ∧ f.key = r.key ∧ f.value = r.value ∧ f.time = r.time)) →
          let m := clamped (e.mult + r.mult)
          x = (if m = 0 then 2 else 0) + (if m = e.mult + r.mult then 0 else 256) ∧
          ws = if m = 0 then [(bucket r.key + 32 * i, List.replicate 32 0), (off + 8, (List.range 4).map (byteOf ((2 ^ 32 + arr.count - 1) % 2 ^ 32)))]
            else [(bucket r.key + 32 * i + 24, (List.range 4).map (byteOf (BitVec.ofInt 32 m).toNat))]) ∧
        (r.mult ≠ 0 → (∀ e ∈ entries (bucket r.key), ¬ (e.mult ≠ 0 ∧ e.key = r.key ∧ e.value = r.value ∧ e.time = r.time)) →
          ((∀ e ∈ entries (bucket r.key), e.mult ≠ 0) → x = 3) ∧ ((∃ e ∈ entries (bucket r.key), e.mult = 0) → x = 1)))) ∧
    (Reads v (v.scalar 3 b) 64 1 off → arrAt v.readNear off = some arr → inside (bucket (v.scalar 2 a).toNat) 256 →
      let key := (v.scalar 2 a).toNat
      let hits := (entries (bucket key)).filter fun e => decide (e.mult ≠ 0 ∧ e.key = key)
      Gives (exec (.dlook a b sc) s) ((serving s 8).view c) 0 (.vector (rowOfBytes (hits.flatMap DeltaRec.bytes))) sc) ∧
    (Reads v (v.scalar 2 a) 64 1 off → arrAt v.readNear off = some arr → inside arr.base (256 * 2 ^ arr.lgb) →
      let time := (v.scalar 3 b).toNat
      let f := frontierCopy (s.tile s.cur.tile).frontierF c.ctxnum c.task.stage.toNat
      let new (h : Nat) := compactBucket time (entries (arr.base + 256 * h))
      let live := ((List.range (2 ^ arr.lgb)).map fun h => (new h).countP fun e => decide (e.mult ≠ 0)).sum
      (f.toNat < time → Traps (exec (.dcomp a b sc) s) s c Cause.illegal (v.scalar 3 b)) ∧
      (time ≤ f.toNat → ∃ ws, (∀ w ∈ ws, ∃ h i, h < 2 ^ arr.lgb ∧ i < 8 ∧ w = (arr.base + 256 * h + 32 * i, ((new h).getD i {}).bytes)) ∧
        (∀ h i, h < 2 ^ arr.lgb → i < 8 → (new h).getD i {} ≠ (entries (arr.base + 256 * h)).getD i {} →
          (arr.base + 256 * h + 32 * i, ((new h).getD i {}).bytes) ∈ ws) ∧
        let c1 := Ctx.storing c (ws ++ [(off + 8, (List.range 4).map (byteOf live)), (off + 24, (List.range 8).map (byteOf (max arr.lowt time)))])
        (c1.storeEntries ≤ 256 → Gives (exec (.dcomp a b sc) s) ((serving s (8 + 4 * 2 ^ arr.lgb)).view c1) 0 (.scalar (BitVec.ofNat 64 live)) sc))))

/-- R253 to R257, R260: the registers of the expansion unit and the sums over them. The model's choices and readings here: assumption 31. -/
def Obligations.ExpansionRegistersAndSums : Prop :=
  Sys2Proof.Claims.ExpansionRegisters ∧ Sys2Proof.Claims.ExpansionSums

/-- R258, R261, R262: potentials, XADM, XNEAR and XDIRECT. The model's choices and readings here: assumptions 30, 31. -/
def Obligations.ExpansionValuesAndNearField : Prop :=
  Sys2Proof.Claims.ExpansionValues ∧ Sys2Proof.Claims.NearField

/-- R264, R267 to R269: consolidation, and the arrangement instructions. The model's choices and readings here: assumptions 46, 77. -/
def Obligations.ConsolidationAndArrangements : Prop :=
  Sys2Proof.Claims.Consolidation ∧ Sys2Proof.Claims.Arrangements

namespace Sys2Proof.Claims

/-! ## Control registers, traps and the dictionary (R23 to R32, R226 to R232) -/

/-- What a control register of a tile's berth holds, by number (R24 to R31); none for a number that names none. -/
def registerOf (s : State) (c : Ctx) (number : Nat) : Option Word :=
  let n := s.cur.tile
  let t := s.tile n
  match number with
  | 0x000 => some (c.cr.vtype.setWidth 64)
  | 0x001 => some (c.cr.accmode.setWidth 64)
  | 0x002 => some (c.cr.fmta.setWidth 64)
  | 0x003 => some (c.cr.fmtb.setWidth 64)
  | 0x004 => some (c.cr.scla.setWidth 64)
  | 0x005 => some (c.cr.sclb.setWidth 64)
  | 0x008 => some (c.cr.mwb.setWidth 64)
  | 0x009 => some (c.cr.mwl.setWidth 64)
  | 0x100 => some c.task.ts
  | 0x101 => some (BitVec.ofNat 64 (c.task.cls.toNat + (if c.task.poison then 4 else 0) + 2 ^ 16 * c.task.src.toNat))
  | 0x102 => some (c.task.chan.setWidth 64)
  | 0x103 => some (c.task.stage.setWidth 64)
  | 0x104 => some (c.cr.fieldpos.setWidth 64)
  | 0x105 => some (c.cr.fieldext.setWidth 64)
  | 0x106 => some (c.cr.tilev.setWidth 64)
  | 0x107 => some (tilep s.fuses n)
  | 0x108 => some (BitVec.ofNat 64 (dieOf n))
  | 0x109 => some (BitVec.ofNat 64 (quadrantOf (tileX n) (tileY n)))
  | 0x200 => some (BitVec.ofNat 64 (max s.chron c.floor))
  | 0x201 => some (BitVec.ofInt 64 ((lookup (dieOf n) s.reck.accounts).getD 0))
  | 0x202 => some (BitVec.ofNat 64 (t.curbLimit + 2 ^ 8 * t.curbCeil))
  | 0x203 => some t.curbst
  | 0x300 => some (if c.cr.scbchk then 1 else 0)
  | 0x301 => some (c.cr.trapcause.setWidth 64)
  | 0x302 => some c.cr.trapval
  | 0x303 => some (c.cr.replayn.setWidth 64)
  | 0x304 => some c.cr.image
  | 0x400 => some (t.xord.setWidth 64)
  | 0x401 => some (t.xkind.setWidth 64)
  | 0x402 => some (t.xtheta.setWidth 64)
  | 0x403 => some ((s.berth n s.cur.berth).dictbase.setWidth 64)
  | 0x404 => some (if t.issuepol then 1 else 0)
  | 0x405 => some 0
  | _ => none

/-- The values that a register's layout admits; false for one that a tile's berth cannot write (R23 to R30). -/
def Admits (number : Nat) (x : Word) : Prop :=
  match number with
  | 0x000 => x.toNat < 2 ^ 6 ∧ x.toNat % 16 ≤ 8
  | 0x001 => x.toNat < 4
  | 0x002 | 0x003 => x.toNat < 16 ∧ x.toNat % 8 ≤ 5
  | 0x004 | 0x005 => x.toNat < 2 ^ 17
  | 0x008 => x.toNat < 2 ^ 10
  | 0x202 => x.toNat < 2 ^ 15 ∧ x.getLsbD 7 = false
  | 0x203 => x.extractLsb' 32 31 = 0
  | 0x300 | 0x401 | 0x404 => x.toNat < 2
  | 0x301 => x.toNat ≤ 16
  | 0x302 | 0x405 => True
  | 0x303 => x.toNat ≤ 8
  | 0x400 => x.toNat < 2 ^ 7
  | 0x402 => x.toNat < 2 ^ 32
  | _ => False

/-- The registers that a tile's berth can write (R24). -/
def writableRegs : List Nat :=
  [0x000, 0x001, 0x002, 0x003, 0x004, 0x005, 0x008, 0x202, 0x203, 0x300, 0x301, 0x302, 0x303, 0x400, 0x401, 0x402, 0x404, 0x405]

/-- What a register reads after a write of an admitted value (R24, R29). -/
def readsBack (t : Tile) (number : Nat) (x : Word) : Word :=
  match number with
  | 0x202 =>
    let l := x.toNat % 2 ^ 7
    BitVec.ofNat 64 ((if l = 0 ∨ t.curbCeil < l then t.curbCeil else l) + 2 ^ 8 * t.curbCeil)
  | 0x203 => BitVec.ofNat 64 (x.toNat % 2 ^ 32 + if t.curbst.getLsbD 63 = true ∧ x.getLsbD 63 = false then 2 ^ 63 else 0)
  | 0x405 => 0
  | _ => x

/-- Nothing has to be undone or replayed when the berth traps: every result exists or is of an instruction that never replays (R228, R236). -/
def Settled (s : State) (c : Ctx) : Prop := (∀ p ∈ c.pend, p.doneAt ≤ s.now ∨ p.replayable = false) ∧ c.replay = []

/-- The 8-byte field of a trap frame's first row (R229). -/
def frameWord (c : Ctx) (off : Nat) : Word := (rowsGet c.rows (c.cr.mwl.toNat - 16)).extractLsb' (8 * off) 64

/-- What the entry into a trap handler leaves of a settled context (R228, R229). -/
structure Entered (s : State) (n b : Nat) (c : Ctx) (cause : Nat) (value : Word) (tpc rpc : BitVec 48) (entry : BitVec 48) (t : State) (c' : Ctx) : Prop where
  ctx : t.ctx? n b = some c'
  goes : c'.pc = entry ∧ c'.inHandler = true ∧ (t.berth n b).nextIssue = s.now + 16
  registers : c'.cr = { c.cr with trapcause := BitVec.ofNat 8 cause, trapval := value, replayn := 0 }
  kept : c'.g = c.g ∧ c'.k = c.k ∧ c'.buf = c.buf ∧ c'.task = c.task ∧ ∀ r, r + 16 < c.cr.mwl.toNat ∨ c.cr.mwl.toNat ≤ r → rowsGet c'.rows r = rowsGet c.rows r
  queue : c'.savedQ = c.q ∧ c'.q = {}
  frame : frameWord c' 0 = BitVec.ofNat 64 cause ∧ frameWord c' 8 = value ∧ frameWord c' 0x10 = tpc.setWidth 64 ∧
    frameWord c' 0x18 = rpc.setWidth 64 ∧ frameWord c' 0x20 = BitVec.ofNat 64 (max s.chron c.floor) ∧ frameWord c' 0x28 = 0
  others : t.mem = s.mem ∧ (∀ m, m ≠ n → t.tile m = s.tile m) ∧ ∀ k, berthIx k ≠ berthIx b → t.ctx? n k = s.ctx? n k

end Sys2Proof.Claims

/-- R226, R23, R24: CRD gives what the register of its number holds, and traps with ILLEGAL for a number that names none. CWR of an admitted
value changes that register alone; another value is ILLEGAL with the value in TRAPVAL, and a register that cannot be written ILLEGAL with
its number. The model's choices and readings here: assumptions 48, 52. -/
def Obligations.ControlRegisters : Prop :=
  ∀ (d : BitVec 7) (number : BitVec 12) (sc : BitVec 3) (s : State) (c : Ctx), Issues s c → isCore s.cur.tile = false →
    let v := s.view c
    let n := number.toNat
    (Clear v [⟨1, d, .dst false⟩] →
      (∀ x, registerOf s c n = some x → Gives (exec (.crd d number sc) s) v d (.scalar x) sc) ∧
      (registerOf s c n = none → v.specOpen = false → Traps (exec (.crd d number sc) s) s c Cause.illegal (number.setWidth 64))) ∧
    (Clear v [⟨1, d, .src false⟩] → v.specOpen = false →
      let x := v.scalar 1 d
      let other := (n = 0x400 ∨ n = 0x401 ∨ n = 0x402) ∧ ∃ h, (s.tile s.cur.tile).xu.holder = some h ∧ h ≠ s.cur.berth % 4
      (other → Traps (exec (.cwr d number sc) s) s c Cause.regwin (BitVec.ofNat 64 n)) ∧
      (¬ other → n ∈ writableRegs → ¬ Admits n x → Traps (exec (.cwr d number sc) s) s c Cause.illegal x) ∧
      (n ∉ writableRegs → Traps (exec (.cwr d number sc) s) s c Cause.illegal (BitVec.ofNat 64 n)) ∧
      (¬ other → Admits n x → ∃ w, Ends (exec (.cwr d number sc) s) w sc ∧ w.s.cur = s.cur ∧
        (∀ m, registerOf w.s w.ctx m = if m = n then some (readsBack (s.tile s.cur.tile) n x) else registerOf s c m) ∧
        w.ctx = { c with cr := w.ctx.cr } ∧ (n = 0x405 → (w.s.tile s.cur.tile).mcapkey = x) ∧
        (n ≠ 0x405 → (w.s.tile s.cur.tile).mcapkey = (s.tile s.cur.tile).mcapkey) ∧ w.s = { s with tiles := w.s.tiles } ∧
        (∀ m, m ≠ s.cur.tile → w.s.tile m = s.tile m) ∧
        w.s.tile s.cur.tile = { s.tile s.cur.tile with
          curbLimit := (w.s.tile s.cur.tile).curbLimit, curbst := (w.s.tile s.cur.tile).curbst, xord := (w.s.tile s.cur.tile).xord,
          xkind := (w.s.tile s.cur.tile).xkind, xtheta := (w.s.tile s.cur.tile).xtheta, issuepol := (w.s.tile s.cur.tile).issuepol,
          mcapkey := (w.s.tile s.cur.tile).mcapkey, berths := (w.s.tile s.cur.tile).berths }))

/-- R227: TRAP traps with SOFT and BRK with BREAK, with their number in TRAPVAL and the next instruction as the resume PC; a BRK of a launch that
the debugger has claimed leaves its berth frozen behind it. -/
def Sys2Proof.Claims.SoftwareTraps : Prop :=
  ∀ (imm : BitVec 14) (sc : BitVec 3) (s : State) (c : Ctx), Issues s c → (s.view c).specOpen = false →
    let next := c.pc + BitVec.ofNat 48 s.cur.len
    let claimed := ∃ l, s.launch? c.ctxnum = some l ∧ l.debugger = true
    exec (.trap imm sc) s = .next (takeTrap s s.cur.tile s.cur.berth 15 (imm.setWidth 64) c.pc next (issueSigma s)) ∧
    (¬ claimed → exec (.brk imm sc) s = .next (takeTrap s s.cur.tile s.cur.berth 14 (imm.setWidth 64) c.pc next (issueSigma s))) ∧
    (claimed → Ends (exec (.brk imm sc) s) (s.view c) sc ∧
      ∀ t, exec (.brk imm sc) s = .next t → (t.berth s.cur.tile s.cur.berth).frozen = true)

/-- R228, R229, R436: taking a trap writes the frame, saves the queue, sets the trap registers and enters the launch's handler 16 cycles on, with g, k
and every other row as they stand; inside the handler, with no handler, or on a memory core (R336) the context ends instead, and a report with its frame
goes to the steward. -/
def Sys2Proof.Claims.TrapEntry : Prop :=
  ∀ (s : State) (n b cause : Nat) (value : Word) (tpc rpc : BitVec 48) (sigma : Nat) (c : Ctx) (l : Launch), s.ctx? n b = some c →
    s.launch? c.ctxnum = some l →
    (isCore n = false → c.inHandler = false → l.trapEntry ≠ 0 → Settled s c → 16 ≤ c.cr.mwl.toNat → c.cr.mwl.toNat ≤ 896 →
      ∃ c', Entered s n b c cause value tpc rpc l.trapEntry (takeTrap s n b cause value tpc rpc sigma) c') ∧
    (c.inHandler = true ∨ l.trapEntry = 0 ∨ isCore n = true →
      let t := takeTrap s n b cause value tpc rpc sigma
      t.ctx? n b = none ∧ t.mem = s.mem ∧
      (cause ≠ Cause.translate → ∃ frame : List Byte,
        t.reports = s.reports ++ [.ended c.ctxnum c.task.launch.toNat c.task.src.toNat c.task.ts cause value frame] ∧
        (c.inHandler = true → frame = (List.range 16).flatMap fun i => rowBytes (rowsGet c.rows (c.cr.mwl.toNat - 16 + i))) ∧
        (c.inHandler = false → 16 ≤ c.cr.mwl.toNat → c.cr.mwl.toNat ≤ 896 → frame.length = 4096 ∧
          BitVec.ofNat 64 (leNat (frame.take 8)) = BitVec.ofNat 64 cause ∧ BitVec.ofNat 64 (leNat ((frame.drop 8).take 8)) = value)) ∧
      (∀ k, berthIx k ≠ berthIx b → t.ctx? n k = s.ctx? n k))

/-- R231, R437: TRET leaves the handler, brings the saved queue back with its lives, re-injects the frame's first REPLAYN entries, and goes to
RPC with bit 0 cleared; outside the handler it is ILLEGAL. The model's choices and readings here: assumptions 9, 48, 59. -/
def Obligations.TrapReturn : Prop :=
  ∀ (sc : BitVec 3) (s : State) (c : Ctx), Issues s c → (s.view c).specOpen = false →
    (c.inHandler = false → Traps (exec (.tret sc) s) s c Cause.illegal s.cur.illegalValue) ∧
    (c.inHandler = true → ∃ t c', exec (.tret sc) s = .next t ∧ Completed s t c' (max (spacing sc) 3) ∧ c'.inHandler = false ∧
      c'.pc = BitVec.ofNat 48 ((frameWord c 0x18).toNat / 2 * 2) ∧ c'.q = c.savedQ.shift (s.now - c.trapAt) ∧
      c'.replay.length = min c.cr.replayn.toNat 8 ∧
      (∀ i, i < c'.replay.length → ∃ r, c'.replay[i]? = some r ∧ r.word = (frameWord c (0x40 + 24 * i)).setWidth 32 ∧
        r.epc = (frameWord c (0x44 + 24 * i)).setWidth 48 ∧ r.vt = (frameWord c (0x4a + 24 * i)).setWidth 6 ∧
        r.am = (frameWord c (0x4b + 24 * i)).setWidth 2 ∧ r.dstNum = (frameWord c (0x4c + 24 * i)).toNat % 2 ^ 10 ∧
        r.dstKind = (frameWord c (0x4c + 24 * i)).toNat / 2 ^ 12 % 2 ^ 3 ∧ r.qpos = (frameWord c (0x4e + 24 * i)).toNat % 2 ^ 8) ∧
      c'.g = c.g ∧ c'.k = c.k ∧ c'.cr = c.cr ∧ c'.rows = c.rows ∧ c'.buf = c.buf)

/-- R232, R68: DICTLD replaces all 1,024 entries and DICTBASE together; a dictionary parcel makes its entry's word the berth's next, and an entry that is
itself a marker is ILLEGAL. A pointer outside window 0x4 or off 64-byte alignment is WINDOW. -/
def Obligations.Dictionary : Prop :=
  ∀ (a : BitVec 7) (sc : BitVec 3) (index : BitVec 10) (s : State) (c : Ctx), Issues s c →
    let v := s.view c
    let n := s.cur.tile
    let b := s.cur.berth
    let p := v.scalar 2 a
    let va := p.toNat % 2 ^ 48
    let w := (lookup index.toNat (s.berth n b).dict).getD 0xffffffff
    (v.specOpen = false → Clear v [⟨2, a, .src false⟩] →
      (winOf p ≠ 4 ∨ p.extractLsb' 48 12 ≠ 0 ∨ va % 64 ≠ 0 ∨ 2 ^ 48 < va + 4096 → Traps (exec (.dictld a sc) s) s c Cause.window p) ∧
      (winOf p = 4 → p.extractLsb' 48 12 = 0 → va % 64 = 0 → va + 4096 ≤ 2 ^ 48 →
        (s.extPas (s.partOf c.ctxnum) .read (granules va 4096) = none → Traps (exec (.dictld a sc) s) s c Cause.translate p) ∧
        (∀ s1 pas, s.extPas (s.partOf c.ctxnum) .read (granules va 4096) = some (s1, pas) →
          let bs := pas.flatMap fun x => Mem.readBytes s1.mem x.1 x.2
          ∃ w, Ends (exec (.dictld a sc) s) w sc ∧ w.ctx = c ∧ w.s = { s1 with tiles := w.s.tiles } ∧ (∀ m, m ≠ n → w.s.tile m = s1.tile m) ∧
            w.s.tile n = { s1.tile n with berths := (w.s.tile n).berths } ∧ (∀ k, berthIx k ≠ berthIx b → (w.s.tile n).berth k = (s1.tile n).berth k) ∧
            w.s.berth n b = { s1.berth n b with dict := (w.s.berth n b).dict, dictbase := BitVec.ofNat 48 va } ∧
            ∀ i, i < 1024 → lookup i (w.s.berth n b).dict = some (BitVec.ofNat 32 (leNat ((bs.drop (4 * i)).take 4)))))) ∧
    ((isDictParcel (w.extractLsb' 16 16) = false → ∃ t, exec (.dictionaryParcel index) s = .next t ∧ BerthOnly s t n b ∧
        t.berth n b = { s.berth n b with latch := some (index.toNat, w) }) ∧
      (isDictParcel (w.extractLsb' 16 16) = true → v.specOpen = false →
        Traps (exec (.dictionaryParcel index) s) s c Cause.illegal (1#1 ++ 0#21 ++ index ++ w)))

/-- R227 to R229, R436: TRAP and BRK, and the entry into a handler. -/
def Obligations.TrapsTaken : Prop :=
  Sys2Proof.Claims.SoftwareTraps ∧ Sys2Proof.Claims.TrapEntry

namespace Sys2Proof.Claims

/-! ## Writes from outside an issue: registers, tables of the steward, memory -/

/-- R29, R339, R363: CURB keeps the limit asked for, or CEIL; CURBST takes the count and drops WRAP; ISSUEPOL and BKCONF take the value. A value that
the layout does not admit changes nothing. -/
def TileRegisterWrites : Prop :=
  ∀ (n : Nat) (x : Word) (s : State),
    let t := s.tile n
    let l := x.toNat % 2 ^ 7
    exec (.curbWrite n x) s = .next (if x.toNat < 2 ^ 15 ∧ x.getLsbD 7 = false
      then s.setTile n { t with curbLimit := if l = 0 ∨ t.curbCeil < l then t.curbCeil else l } else s) ∧
    exec (.curbstWrite n x) s = .next (if x.extractLsb' 32 31 = 0
      then s.setTile n { t with curbst := BitVec.ofNat 64 (x.toNat % 2 ^ 32 + if t.curbst.getLsbD 63 = true ∧ x.getLsbD 63 = false then 2 ^ 63 else 0) }
      else s) ∧
    exec (.issuepolWrite n x) s = .next (if x.toNat < 2 then s.setTile n { t with issuepol := x.getLsbD 0 } else s) ∧
    exec (.bkconfWrite n x) s = .next (if x.toNat < 2 ^ 32 then s.setTile n { t with core := { t.core with bkconf := x.setWidth 32 } } else s)

/-- R23, R24: a write of a control register outside an issue has CWR's effect on its berth's registers, or raises CWR's trap in its berth. -/
def RegisterWriteEvent : Prop :=
  ∀ (n b : Nat) (number : BitVec 12) (x : Word) (s : State) (c : Ctx), s.ctx? n b = some c → isCore n = false →
    let u : State := { s with cur := { s.cur with tile := n, berth := b, replay := none } }
    let k := number.toNat
    let o := exec (.controlRegisterWrite n b number x) s
    let other := (k = 0x400 ∨ k = 0x401 ∨ k = 0x402) ∧ ∃ h, (s.tile n).xu.holder = some h ∧ h ≠ b % 4
    (other → o = .next (takeTrap u n b Cause.regwin (BitVec.ofNat 64 k) c.pc c.pc)) ∧
    (¬ other → k ∈ writableRegs → ¬ Admits k x → o = .next (takeTrap u n b Cause.illegal x c.pc c.pc)) ∧
    (k ∉ writableRegs → o = .next (takeTrap u n b Cause.illegal (BitVec.ofNat 64 k) c.pc c.pc)) ∧
    (¬ other → Admits k x → ∃ t c', o = .next t ∧ t.ctx? n b = some c' ∧ TileOnly u t n ∧ c' = { c with cr := c'.cr } ∧
      ∀ m, registerOf t c' m = if m = k then some (readsBack (s.tile n) k x) else registerOf u c m)

/-- R227: the debugger claims a launch, and lets a frozen berth go on from the next cycle. -/
def DebuggerEvents : Prop :=
  ∀ (n b k : Nat) (s : State),
    (∀ l, s.launch? k = some l → exec (.debuggerClaim k) s = .next (s.setLaunch k { l with debugger := true })) ∧
    exec (.debuggerResume n b) s = .next (s.setBerth n b { s.berth n b with
      frozen := false, nextIssue := max (s.berth n b).nextIssue (s.now + 1), readySince := s.now + 1 })

/-- R344, R412, R450, R455, R459: the steward's tables and the reckoner's registers take what is written to them, within their limits. -/
def StewardTableWrites : Prop :=
  ∀ (p i m : Nat) (v : BitVec 8) (x : Word) (s : State),
    exec (.shareTableWrite p v) s = .next { s with stew := { s.stew with share := insertAt p (min (v.toNat % 2 ^ 7) 100) s.stew.share } } ∧
    exec (.chartUpdate i x) s = .next { s with chart := insertAt (i % 8) x s.chart } ∧
    exec (.reckonerRegisterWrite 0 x) s = .next { s with reck := { s.reck with pkgw := max 2000 (min 12000 (x.toNat % 2 ^ 14)) } } ∧
    exec (.reckonerRegisterWrite 1 x) s = .next { s with reck := { s.reck with fixw := x.toNat % 2 ^ 14 } } ∧
    exec (.reckonerRegisterWrite 2 x) s = .next { s with reck := { s.reck with dcap := x.toNat % 2 ^ 32 } } ∧
    exec (.reckonerRegisterWrite (3 + i) x) s = .next s ∧
    exec (.clockSet m) s = .next (if (m = 1500 ∨ m = 1200 ∨ m = 900) ∧ ∀ e ∈ s.launches, e.2.state = .saved
      then { s with clock := m, chronFrac := 0 } else s) ∧
    exec (.managementMailbox i x) s = .next (if i % 8 = 0 ∧ i + 8 ≤ 65536
      then { s with stew := { s.stew with mailbox := insertAt i x s.stew.mailbox } } else s) ∧
    exec .fatalDumpClear s = .next { s with stew := { s.stew with dumpKept := false, dumpTiles := [], dumpMem := [] } }

/-- R453, R461: an attestation signs the measurement, the nonce, the serial number and the time; a partition marks at most 16 precious regions of
whole 64 KiB frames, and the package 200 GiB of them. -/
def StewardRequests : Prop :=
  ∀ (nonce : BitVec 512) (p : Nat) (base : BitVec 48) (len : Nat) (x : Partition) (s : State),
    (∃ body : List Byte, body.length = 144 ∧ body.take 64 = leBytes 64 s.stew.measurement.toNat ∧ (body.drop 64).take 64 = leBytes 64 nonce.toNat ∧
      body.drop 128 = leBytes 8 Config.serial.toNat ++ leBytes 8 s.chron ∧
      exec (.attestationRequest nonce) s = .next (s.report (.attest (body ++ Config.attest body)))) ∧
    (s.part? p = some x →
      let fits := base.toNat % 65536 = 0 ∧ len % 65536 = 0 ∧ 0 < len ∧ base.toNat + len ≤ 2 ^ 48 ∧ x.precious.length < 16 ∧
        (s.parts.flatMap fun e => e.2.precious.map Prod.snd).sum + len ≤ 200 * 2 ^ 30
      (fits → exec (.preciousRegionMark p base len) s =
        .next { s with parts := insertAt p { x with precious := x.precious ++ [(base.toNat, len)] } s.parts }) ∧
      (¬ fits → exec (.preciousRegionMark p base len) s = .next s))

/-- R304, R463, R39: the steward writes HBM and slices, and a device a mapped run of its partition's memory; no other byte changes, and the saved
contexts of launches only where the steward's run meets the image of a context. -/
def OutsideWrites : Prop :=
  ∀ (a p : Nat) (va : BitVec 48) (data : List Byte) (s : State),
    ((a < hbmSize ∧ a + data.length ≤ hbmSize) ∨ (∃ n off, n < 4096 ∧ off < 2 ^ 17 ∧ off + data.length ≤ 2 ^ 17 ∧ a = slicePa n off) →
      ∃ t, exec (.stewardMemoryWrite a data) s = .next t ∧
        t = { s with mem := t.mem, memPoison := t.memPoison, tiles := t.tiles, launches := t.launches } ∧
        ((∀ i, a < 256 * (i + 1) → 256 * i < a + data.length → ({ s with mem := t.mem } : State).rowAt (256 * i) = none) → t.launches = s.launches) ∧
        ∀ x, Mem.read t.mem x = if a ≤ x ∧ x < a + data.length then data.getD (x - a) 0 else Mem.read s.mem x) ∧
    exec (.deviceMemoryAccess p va false data) s = .next s ∧
    (data ≠ [] → va.toNat / 65536 = (va.toNat + data.length - 1) / 65536 →
      (s.physOf p va.toNat = none → exec (.deviceMemoryAccess p va true data) s = .next s) ∧
      ∀ pa, s.physOf p va.toNat = some pa → exec (.deviceMemoryAccess p va true data) s = .next (s.writePa pa data))

end Sys2Proof.Claims

/-- R23, R29, R227, R339, R363: registers that are written outside an issue, and what the debugger does to a launch and a berth. -/
def Obligations.RegisterWriteEvents : Prop :=
  Sys2Proof.Claims.TileRegisterWrites ∧ Sys2Proof.Claims.RegisterWriteEvent ∧ Sys2Proof.Claims.DebuggerEvents

/-- R304, R344, R412, R450, R453, R455, R459, R461, R463: what the steward, the management bus and devices write. The model's choices and
readings here: assumptions 38, 39, 70. -/
def Obligations.StewardWrites : Prop :=
  Sys2Proof.Claims.StewardTableWrites ∧ Sys2Proof.Claims.StewardRequests ∧ Sys2Proof.Claims.OutsideWrites

namespace Sys2Proof.Claims

/-! ## What befalls a berth -/

/-- R71, R12: INTERLOCKED_RESULT completes in every berth that runs a context: values that exist are no longer waited for, from the oldest on, none
still outstanding is forgotten, and nothing else changes; the value of an entry past its life is gone. -/
def QueueEvents : Prop :=
  ∀ (n b p : Nat) (s : State) (c : Ctx), s.ctx? n b = some c →
    (∃ t c', exec (.interlockedResult n b) s = .next t ∧ BerthOnly s t n b ∧ t.ctx? n b = some c' ∧ c' = { c with pend := c'.pend } ∧
      (∀ x ∈ c'.pend, x ∈ c.pend) ∧ (∀ x ∈ c.pend, s.now < x.doneAt ∨ c.dist < x.due → x ∈ c'.pend) ∧
      ∀ x, c'.pend.getLast? = some x → s.now < x.doneAt ∨ c.dist < x.due) ∧
    ∃ t c', exec (.resultQueueExpiry n b p) s = .next t ∧ BerthOnly s t n b ∧ t.ctx? n b = some c' ∧ c' = { c with q := c'.q } ∧ c'.q.head = c.q.head ∧
      (∀ i, i ≠ c.q.slotOf p → c'.q.slots[i] = c.q.slots[i]) ∧
      ((c.q.entry p).dead s.now = false → c'.q = c.q) ∧
      ((c.q.entry p).dead s.now = true → (c'.q.entry p).dead s.now = true ∧ ((c'.q.entry p).val = .scalar 0 ∨ (c'.q.entry p).val = .vector 0))

/-- A berth that has been ready for 256 cycles without issuing (R363). -/
def Starved (s : State) (n b : Nat) : Prop :=
  b < (if isCore n then 2 else 4) ∧ (∃ c, s.ctx? n b = some c ∧ c.stopped = false) ∧ (s.berth n b).frozen = false ∧
    (s.berth n b).nextIssue ≤ s.now ∧ (s.berth n b).readySince + 256 ≤ s.now

/-- R363: the berth that has starved longest is the tile's next choice. -/
def StarvationEvent : Prop :=
  ∀ (n : Nat) (s : State), ∃ t, exec (.issueStarvation n) s = .next t ∧ TileOnly s t n ∧
    t.tile n = { s.tile n with cur := (t.tile n).cur, last := (t.tile n).last } ∧
    ((∀ b, ¬ Starved s n b) → t = s) ∧
    ((∃ b, Starved s n b) → ∃ b, Starved s n b ∧ (t.tile n).cur = some (berthIx b) ∧ (t.tile n).last = berthIx (b + 3) ∧
      ∀ k, Starved s n k → (s.berth n b).readySince ≤ (s.berth n k).readySince)

/-- R79, R80, R143: a word that no encoding admits and a fetch that fails are ILLEGAL, with the word or 2^62 and the address in TRAPVAL. -/
def FetchTraps : Prop :=
  ∀ (w : BitVec 32) (a : BitVec 48) (s : State) (c : Ctx), Issues s c → (s.view c).specOpen = false →
    (s.cur.dict = none → Traps (exec (.reservedEncoding w) s) s c Cause.illegal (w.setWidth 64)) ∧
    (∀ i, s.cur.dict = some i → Traps (exec (.reservedEncoding w) s) s c Cause.illegal (BitVec.ofNat 64 (2 ^ 63 + i % 1024 * 2 ^ 32 + w.toNat))) ∧
    Traps (exec (.fetchFailure a) s) s c Cause.illegal (BitVec.ofNat 64 (2 ^ 62 + a.toNat))

/-- R433: an overrun raises ENERGY in the lowest-numbered berth that runs a task of the field's launch, at most once in a millisecond. -/
def EnergyEvent : Prop :=
  ∀ (n b amount : Nat) (s : State) (c : Ctx) (l : Launch), b < 4 → s.ctx? n b = some c → c.ctxnum = (s.tile n).owner →
    (∀ k, k < b → ∀ d, s.ctx? n k = some d → d.ctxnum ≠ (s.tile n).owner) → s.launch? (s.tile n).owner = some l → l.trapEntry ≠ 0 →
    (s.chron < (s.tile n).energyNoticeAt → exec (.energyOverrunNotice n amount) s = .next s) ∧
    ((s.tile n).energyNoticeAt ≤ s.chron → ∃ t, exec (.energyOverrunNotice n amount) s = .next t ∧ TileOnly s t n ∧
      (t.tile n).energyNoticeAt = s.chron + 1000000 ∧ t.berth n b = { s.berth n b with energyReq := some amount } ∧
      ∀ k, berthIx k ≠ berthIx b → t.berth n k = s.berth n k)

/-- R438, R326: a memory core's task is never pre-empted; a request for a tile's berth that may not stop waits for its next boundary; at one, the context is saved as by a trap of cause PREEMPT with the
requester in TRAPVAL, and the berth is free in the next cycle. -/
def PreemptEvent : Prop :=
  ∀ (n b r : Nat) (s : State) (c : Ctx) (l : Launch), s.ctx? n b = some c → s.launch? c.ctxnum = some l → c.stopped = false → r ≠ stopAgain →
    (isCore n = true → exec (.preempt n b r) s = .next s) ∧
    (isCore n = false → s.mayStop n b c = false → exec (.preempt n b r) s = .next (s.setBerth n b { s.berth n b with preemptReq := some r })) ∧
    (isCore n = false → s.mayStop n b c = true → l.state ≠ .down → s.unitsDrained n b = true → ∃ t l' x, exec (.preempt n b r) s = .next t ∧
      t.ctx? n b = none ∧ (t.berth n b).nextIssue = s.now + 1 ∧ t.launch? c.ctxnum = some l' ∧ l'.saved = l.saved ++ [x] ∧ x.tile = n ∧
      x.ctx.pc = c.pc ∧ x.ctx.task = c.task ∧ x.ctx.image = c.image ∧ x.ctx.stopped = true ∧ x.ctx.cr.trapcause = BitVec.ofNat 8 Cause.preempt ∧
      x.ctx.cr.trapval = BitVec.ofNat 64 r ∧ (Settled s c → x.ctx.g = c.g ∧ x.ctx.k = c.k ∧ x.ctx.savedQ = c.q) ∧
      t.mem = s.mem ∧ (∀ k, berthIx k ≠ berthIx b → t.ctx? n k = s.ctx? n k) ∧ ∀ m k, m ≠ n → t.ctx? m k = s.ctx? m k)

/-- R439: a saved context whose units are free resumes in a free berth as TRET would leave it. -/
def ResumeEvent : Prop :=
  ∀ (n b i k : Nat) (s : State) (l : Launch) (x : Saved), s.savedOn n i = some (k, l, x) → s.launch? k = some l → (s.berth n b).free = true → b < 4 →
    x.unitsFree (s.tile n) = true → ∃ t l', exec (.contextResume n b i) s = .next t ∧
      t.ctx? n b = some { x.ctx.leaveHandler s.now with stopped := false } ∧ (t.berth n b).nextIssue = s.now + 1 ∧ t.launch? k = some l' ∧
      l'.saved = l.saved.filter (fun y => !(y.tile == n && y.ctx.image == i)) ∧ t.mem = s.mem

/-! ## Tasks that start (R34, R351, R353, R354) -/

/-- What the start of a record in a berth leaves (R34, R208, R353). -/
structure Starts (s t : State) (n b : Nat) (l : Launch) (r : TaskRec) (c : Ctx) : Prop where
  there : t.ctx? n b = some c ∧ (t.berth n b).nextIssue = s.now + 4
  task : c.task = r ∧ c.ctxnum = r.ctxnum ∧ c.inHandler = false ∧ c.buf = [] ∧ c.pend = [] ∧ c.q = {}
  pc : c.pc = if r.inline then 0xffffffffff00 else BitVec.ofNat 48 (r.hpc.toNat / 2 * 2)
  carried : ∀ i : Fin 32, c.g[i] = if r.inline = true ∨ 24 ≤ i.val ∨ (i.val < 16 ∧ r.cmask.getLsbD i.val = false) then 0
    else r.body.extractLsb' (64 * i.val) 64
  masks : c.k = (Vector.replicate 8 0).set 0 (BitVec.allOnes 256)
  settings : isCore n = false → r.amsg = false → ∀ h, l.handler? r.stage.toNat = some h →
    c.cr.vtype = h.vtype ∧ c.cr.accmode = h.accmode ∧ c.cr.mwl = h.mwl ∧ c.cr.fmta = h.fmta ∧ c.cr.fmtb = h.fmtb ∧ c.cr.scbchk = h.scbchk ∧
      c.resident = h.resident
  message : isCore n = false → r.amsg = true → c.cr.mwl = 64 ∧ c.resident = 0 ∧ c.cr.vtype = 0 ∧ c.cr.scbchk = false
  memory : t.mem = s.mem

/-- R351 to R353: a free berth that a context waits to resume in takes nothing; another takes the waiting record of its inbox, or else the bottom-most record of its deque, and starts it 4 cycles on; a memory
core's takes the first of its service inbox. -/
def TakeWorkEvent : Prop :=
  ∀ (n b : Nat) (s : State) (r : TaskRec) (l : Launch), s.launch? r.ctxnum = some l → r.cls ≠ 3 →
    ((s.berth n b).free = false → exec (.takeWork n b) s = .next s) ∧
    ((s.berth n b).free = true → isCore n = false → s.resumes n b = true → exec (.takeWork n b) s = .next s) ∧
    ((s.berth n b).free = true → isCore n = false → s.resumes n b = false → s.exhausted n = false → s.mayStart (s.tile n) r = true → r.marked = false →
      (∀ x ∈ (s.tile n).deque, x.marked = false) →
      ((s.tile n).inbox = [r] → r.chan.toNat < 15 → servesChannel n b r.chan.toNat = true → (s.tile n).armedOn r.chan.toNat = false →
        ∃ t c, exec (.takeWork n b) s = .next t ∧ Starts s t n b l r c ∧ (t.tile n).inbox = [] ∧ (t.tile n).deque = (s.tile n).deque) ∧
      ((s.tile n).inbox = [] → (handlerIndex n = none ∨ b ≠ 3) → (∃ rest, (s.tile n).deque = r :: rest) →
        ∃ t c, exec (.takeWork n b) s = .next t ∧ Starts s t n b l r c ∧ (t.tile n).deque = (s.tile n).deque.tail)) ∧
    ((s.berth n b).free = true → isCore n = true → ∀ rest, (s.tile n).core.inbox = r :: rest →
      ∃ t c, exec (.takeWork n b) s = .next t ∧ Starts s t n b l r c ∧ c.cr.mwl = 64 ∧ (t.tile n).core.inbox = rest)

/-- R354, R398: a berth's request for a block leaves for its tile's home depot; the depot answers it with the block it has for the tile; the block's
first record starts in the berth that asked, and the rest join the deque. A memory core stands beside the depots and has its block at once. -/
def DepotEvent : Prop :=
  ∀ (n b : Nat) (s : State) (f : Flight) (r : TaskRec) (rest : List TaskRec) (l : Launch), s.launch? r.ctxnum = some l →
    let from_ (m k : Nat) := insertAt m (((lookup m s.depots).getD []).filter fun x => x.1 != k) s.depots
    let may := r.cls ≠ 3 ∧ (s.berth n b).free = true ∧ s.exhausted n = false ∧ s.mayStart (s.tile n) r = true ∧ (s.tile n).deque = [] ∧ rest.length ≤ 15
    (isCore n = true → may → ∀ m k, s.blockFor n = some (m, k, r :: rest) →
      ∃ t c, exec (.depotFetch n b) s = .next t ∧ Starts s t n b l r c ∧ (t.tile n).deque.length = rest.length ∧ t.depots = from_ m k) ∧
    (isCore n = false → s.fetchOf n b = none → ∃ t g, exec (.depotFetch n b) s = .next t ∧ t.flights = s.flights ++ [g] ∧
      g.kind = .block n b [] ∧ t.depots = s.depots ∧ t.tiles = s.tiles ∧ t.mem = s.mem) ∧
    (isCore n = false → s.fetchOf n b = some f → f.performed = true →
      (f.kind = .block n b [] → ∀ m k, s.blockFor n = some (m, k, r :: rest) → ∃ t, exec (.depotFetch n b) s = .next t ∧
        t.depots = from_ m k ∧ t.tiles = s.tiles ∧ t.mem = s.mem ∧
        ∀ g ∈ s.flights, g.id = f.id → ∃ h ∈ t.flights, h.id = g.id ∧ h.kind = .block n b (r :: rest) ∧ h.performed = false) ∧
      (f.kind = .block n b (r :: rest) → may → ∃ t c, exec (.depotFetch n b) s = .next t ∧ Starts s t n b l r c ∧
        (t.tile n).deque.length = rest.length ∧ t.depots = s.depots ∧ t.flight? f.id = none))

/-! ## Messages and inboxes (R204, R207, R352, R353) -/

/-- The record that a delivered message makes (R204). -/
structure Makes (l : Launch) (m : Message) (r : TaskRec) : Prop where
  head : r.ts = m.ts ∧ r.stage = m.stage ∧ r.src = BitVec.ofNat 13 m.src ∧ r.poison = m.poison ∧ r.ctxnum = m.ctxnum
  handler : m.kind < 3 → ∀ h, l.handler? m.stage.toNat = some h → r.hpc = h.entry ∧ r.cls = h.cls
  amsg : m.kind = 3 → r.hpc = BitVec.ofNat 48 ((payloadWord m.payload 0).toNat / 2 * 2 % 2 ^ 48) ∧ r.cls = 0 ∧ r.chan = 14 ∧
    ∀ i, i < 16 → r.carry i = if i < m.count then payloadWord m.payload (1 + i) else 0
  send : m.kind = 0 → m.count ≤ 8 → r.cmask = 0 ∧ ∀ i, i < 8 → r.payload i = if i < m.count then payloadWord m.payload i else 0
  sendv : m.kind = 1 → r.cmask = 0xffff ∧ (∀ i, i < 16 → r.carry i = payloadWord m.payload i) ∧ ∀ i, i < 8 → r.payload i = payloadWord m.payload (16 + i)
  sendi : m.kind = 2 → r.inline = true ∧ r.inlineWords = m.count ∧ r.body = BitVec.ofNat 1536 (leNat m.payload)

/-- R207, R353: a message whose turn has come makes its record at its inbox, or at its channel's overflow list behind those there. -/
def DeliveryEvent : Prop :=
  ∀ (id : Nat) (s : State) (f : Flight) (m : Message) (l : Launch), s.flight? id = some f → f.kind = .message m → f.left = 0 →
    s.messageBefore f m = false → s.launch? m.ctxnum = some l → m.kind < 4 →
    ∃ t r, exec (.messageDelivery id) s = .next t ∧ Makes l m r ∧ t.flight? id = none ∧ t.mem = s.mem ∧ r.arrived = s.now ∧
      let ch := chanIx r.chan.toNat
      (r.chan ≠ 15 → (s.tile m.destTile).channels[ch].overflow ≠ [] ∨ 30 ≤ (s.tile m.destTile).inboxUsed →
        (t.tile m.destTile).channels[ch].overflow = (s.tile m.destTile).channels[ch].overflow ++ [r] ∧
        (t.tile m.destTile).inbox = (s.tile m.destTile).inbox) ∧
      (r.chan = 15 ∨ ((s.tile m.destTile).channels[ch].overflow = [] ∧ (s.tile m.destTile).inboxUsed < 30) →
        (t.tile m.destTile).inbox = (s.tile m.destTile).inbox ++ [r])

/-- R352, R353: a channel that has had a record and no take for 4,096 cycles is raised by one; a free place of an inbox goes to the record that has
waited longest in the depot. -/
def InboxEvents : Prop :=
  ∀ (n c : Nat) (s : State), c < 16 →
    let t := s.tile n
    let x := t.channels[chanIx c]
    (∃ u, exec (.channelAging n c) s = .next u ∧
      if (∃ r ∈ t.inbox, r.chan.toNat = c) ∧ x.since < s.now ∧ (s.now - x.since) % 4096 = 0
      then u = (s.setTile n { t with channels := t.channels.set (chanIx c) { x with raise := x.raise + 1 } }).atCycle (s.now + 4096) (.channelAging n c)
      else u = s) ∧
    (∀ r rest, t.inboxUsed < 30 → t.oldestOverflow = some c → x.overflow = r :: rest → ∃ u, exec (.inboxOverflowRefill n c) s = .next u ∧
      (u.tile n).inbox = t.inbox ++ [r] ∧ (u.tile n).channels[chanIx c].overflow = rest ∧ u.mem = s.mem ∧ ∀ m, m ≠ n → u.tile m = s.tile m)

/-! ## Steals and regrouping (R355, R356) -/

/-- R355: a thief asks one victim at a time, whose answer comes 64 + 2h cycles on (R355 gives that as the bound; the model takes it); a victim with two records inside its window gives the top-most of them, and another refuses, after which
the thief waits 16 cycles, or 1,024 after a whole pass. -/
def StealEvents : Prop :=
  ∀ (n v : Nat) (s : State),
    let t := s.tile n
    let inside := (s.tile v).deque.filter (s.mayStart (s.tile v))
    (t.stealAsked = none → (s.victims n)[t.stealTried]? = some v → t.stealWait ≤ s.now →
      exec (.stealRequest n) s = .next ((s.setTile n { t with stealAsked := some v }).atCycle (s.now + 64 + 2 * torusHops n v) (.stealAnswer n))) ∧
    (t.stealAsked = some v → v ≠ n →
      (∀ r, inside.getLast? = some r → 2 ≤ inside.length → ∃ u f, exec (.stealAnswer n) s = .next u ∧ u.flights = s.flights ++ [f] ∧
        f.kind = .record r n ∧ (u.tile v).deque = ((s.tile v).deque.reverse.erase r).reverse ∧ (u.tile n).stealAsked = none ∧
        (u.tile n).deque = t.deque ∧ u.mem = s.mem) ∧
      (inside.length < 2 →
        let last := decide ((s.victims n).length ≤ t.stealTried + 1)
        let due := s.now + if last then 1024 else 16
        exec (.stealAnswer n) s = .next ((s.setTile n { t with stealAsked := none, stealTried := if last then 0 else t.stealTried + 1, stealWait := due }).atCycle
          due (.stealRetryWait n)))) ∧
    (isCore n = false → ∃ u, exec (.stealRetryWait n) s = .next u ∧ u = { s with timed := u.timed } ∧
      (t.stealWait ≤ s.now → ∀ b, b < 4 → (s.berth n b).free = true → (s.now, Event.takeWork n b) ∈ u.timed) ∧ (s.now < t.stealWait → u = s))

/-- R356: REGROUPING completes in every state: it moves unmarked records of its launch out of deques to other deques and changes nothing else that a
program sees. Of a field of two tiles on neighbouring dies whose counts differ by d, more than BALANCE, the top-most records that may move go from
the fuller tile to the other, d / 2 of them, at most 256. -/
def RegroupingEvent : Prop :=
  ∀ (k : Nat) (s : State), ∃ t, exec (.regrouping k) s = .next t ∧ t.mem = s.mem ∧ t.launches = s.launches ∧
    (∀ n, (t.tile n).deque.Sublist (s.tile n).deque ∧ t.tile n = { s.tile n with deque := (t.tile n).deque }) ∧
    (∀ f ∈ t.flights, f ∈ s.flights ∨ ∃ r d n x, f.kind = .record r d ∧ x ∈ (s.tile n).deque ∧ r = { x with migrated := true } ∧ x.marked = false ∧
      x.ctxnum = k) ∧
    ∀ l, s.launch? k = some l →
      ((∀ a ∈ l.field, ∀ b ∈ l.field, dieOf a = dieOf b) → t = s) ∧
      ∀ a b, l.field = [a, b] → a < 4096 → b < 4096 → neighbourDies (dieOf a) (dieOf b) = true →
        let limit := ((s.part? l.part).map Partition.balance).getD 512
        let d := s.queuedOn k (dieOf a) - s.queuedOn k (dieOf b)
        let tops := (s.tile a).deque.reverse.filter fun r => decide (r.ctxnum = k ∧ s.mayStart (s.tile a) r = true ∧ r.marked = false)
        limit < d →
          (t.flights.drop s.flights.length).map Flight.kind =
            (tops.take (min (d / 2) 256)).map (fun r => FlightKind.record { r with migrated := true } b) ∧
          (t.tile a).deque.length + min (min (d / 2) 256) tops.length = (s.tile a).deque.length ∧ (t.tile b).deque = (s.tile b).deque

/-! ## Continuations (R211) -/

/-- R211: a fired continuation leaves the table for the bottom of its tile's deque, a ring's as it was armed, a channel's with the words of the record
that feeds it, which leaves the inbox. -/
def ContinuationEvents : Prop :=
  ∀ (n i : Nat) (s : State) (a : Armed), (s.tile n).armed.find? (fun a => a.order == i) = some a →
    (s.triggered n a = false → exec (.continuationFire n i) s = .next s) ∧
    (s.triggered n a = true → (s.tile n).deque.length < 55 → ∃ t r, exec (.continuationFire n i) s = .next t ∧
      (t.tile n).armed = (s.tile n).armed.filter (fun x => x.order != i) ∧ (t.tile n).deque = r :: (s.tile n).deque ∧
      r.hpc = a.task.hpc ∧ r.ts = a.task.ts ∧ r.stage = a.task.stage ∧ r.ctxnum = a.task.ctxnum ∧
      (a.kind < 2 → r.body = a.task.body ∧ r.cmask = a.task.cmask ∧ (t.tile n).inbox = (s.tile n).inbox) ∧
      (2 ≤ a.kind → ∀ x, (s.tile n).headOf a.num = some x → (t.tile n).inbox = (s.tile n).inbox.erase x ∧ r.cmask = a.task.cmask ||| x.cmask ∧
        (∀ j, j < 16 → r.carry j = if a.task.cmask.getLsbD j then a.task.carry j else x.carry j) ∧ ∀ j, j < 8 → r.payload j = x.payload j)) ∧
    ∃ t, exec (.triggerTableTest n) s = .next t ∧ t = { s with agenda := t.agenda, timed := t.timed } ∧
      (∀ x ∈ (s.tile n).armed, x.inDepot = true → s.triggered n x = true → Event.continuationFire n x.order ∈ t.agenda) ∧
      ((∃ x ∈ (s.tile n).armed, x.inDepot = true) → (s.now + 1024, Event.triggerTableTest n) ∈ t.timed)

end Sys2Proof.Claims

/-- R12, R71, R79, R143, R363, R433, R438, R439: what befalls a berth beside its own instructions. The model's choices and readings here:
assumptions 11, 18. -/
def Obligations.BerthEvents : Prop :=
  Sys2Proof.Claims.QueueEvents ∧ Sys2Proof.Claims.StarvationEvent ∧ Sys2Proof.Claims.FetchTraps ∧ Sys2Proof.Claims.EnergyEvent ∧
  Sys2Proof.Claims.PreemptEvent ∧ Sys2Proof.Claims.ResumeEvent

/-- R34, R204, R207, R211, R351 to R356: how records start, arrive, wait, move and fire. The model's choices and readings here: assumptions
49, 76. -/
def Obligations.SchedulerEvents : Prop :=
  Sys2Proof.Claims.TakeWorkEvent ∧ Sys2Proof.Claims.DepotEvent ∧ Sys2Proof.Claims.DeliveryEvent ∧ Sys2Proof.Claims.InboxEvents ∧
  Sys2Proof.Claims.StealEvents ∧ Sys2Proof.Claims.RegroupingEvent ∧ Sys2Proof.Claims.ContinuationEvents

namespace Sys2Proof.Claims

/-! ## Retirement and the commit sequencer (R209, R296 to R299, R309, R357, R358, R387 to R389) -/

/-- R209, R299: a retirement entry is free once its task has committed and its work is performed; an aborted task's record runs again from the bottom
of its tile's deque, once its GETs have delivered. -/
def RetirementEvents : Prop :=
  ∀ (n i : Nat) (s : State) (x : Tracker), (s.tile n).trackers.find? (fun x => x.id == i) = some x →
    let gone := (s.tile n).trackers.filter fun y => y.id != i
    (x.aborted = false → x.committed = true → s.outstanding x.issuer = false →
      exec (.retirementDrain n i) s = .next (s.setTile n { s.tile n with trackers := gone })) ∧
    (x.aborted = false → x.committed = false ∨ s.outstanding x.issuer = true → exec (.retirementDrain n i) s = .next s) ∧
    (x.aborted = true → s.getsOut x.issuer = true → exec (.retirementDrain n i) s = .next s) ∧
    (x.aborted = true → s.getsOut x.issuer = false → (s.tile n).deque.length < 55 → ∃ t r, exec (.retirementDrain n i) s = .next t ∧
      (t.tile n).trackers = gone ∧ (t.tile n).deque = r :: (s.tile n).deque ∧
      r = { x.task with arrived := r.arrived, key := r.key, entry := r.entry } ∧ (x.kept = [] → t.mem = s.mem))

/-- A tracker entry's task is uncommitted and holds a key of a launch. -/
def Turn (k : Nat) (key : (Nat × Nat) × Nat) (x : Tracker) : Prop := x.committed = false ∧ x.aborted = false ∧ x.task.orderKey k = some key

/-- R296, R297, R436: the ended task that holds the lowest key commits, once the previous commit has been performed; the commit of a task that has
left nothing only takes its place in the order. -/
def GrantEvent : Prop :=
  ∀ (k : Nat) (s : State) (l : Launch), s.launch? k = some l → l.state ≠ .saved →
    (s.commitOpen l = true → exec (.commitGrant k) s = .next s) ∧
    (leastKey (s.orderKeys k) = none → exec (.commitGrant k) s = .next s) ∧
    ∀ key, s.commitOpen l = false → leastKey (s.orderKeys k) = some key →
      ((∀ e ∈ s.tiles, ∀ y ∈ e.2.trackers, ¬ Turn k key y) → exec (.commitGrant k) s = .next s) ∧
      ∀ n x, x ∈ (s.tile n).trackers → Turn k key x → (∀ e ∈ s.tiles, ∀ y ∈ e.2.trackers, Turn k key y → e.1 = n ∧ y = x) →
        (∀ o ∈ (s.tile n).mx.queue, o.ownView = true → o.issuer.same x.issuer = true → ∀ a b c, o.kind ≠ .rqt a b c) →
        exec (.commitGrant k) s = .next ((s.grant l k n x key.1).sequence k) ∧
        (x.emptyCommit = true → ∃ t l', exec (.commitGrant k) s = .next t ∧ t.launch? k = some l' ∧ l'.lastKey = some key.1 ∧
          (t.tile n).trackers = (s.tile n).trackers.filter (fun y => y.id != x.id) ∧ t.mem = s.mem ∧ ∀ m, m ≠ n → t.tile m = s.tile m)

/-- R296, R357: the frontier that every tile of the field hears is the time of the lowest pending key, or of the last commit; no tile's copy falls. -/
def OrderedFrontierEvent : Prop :=
  ∀ (k : Nat) (s : State) (l : Launch), s.launch? k = some l → l.state ≠ .saved →
    let phi := max ((leastKey (s.orderKeys k)).elim ((l.lastKey.map Prod.fst).getD 0) fun x => x.1.1) l.pubPhi.toNat
    phi < 2 ^ 64 → ∃ t, exec (.orderedFrontierPublish k) s = .next t ∧ t.mem = s.mem ∧
      (∀ n ∈ l.field, (t.tile n).phiCopy k = max phi ((s.tile n).phiCopy k)) ∧ ∀ n, n ∉ l.field → t.tile n = s.tile n

/-- R358: the record of the lowest key is marked where it waits in an inbox or a deque; with no key there is nothing to mark. -/
def MarkEvent : Prop :=
  ∀ (k : Nat) (s : State),
    (leastKey (s.orderKeys k) = none → exec (.markOldestRecord k) s = .next s) ∧
    ∀ key n t0, leastKey (s.orderKeys k) = some key → s.tiles = [(n, t0)] → (∃ r ∈ t0.inbox ++ t0.deque, r.orderKey k = some key) →
      let mark (r : TaskRec) : TaskRec := if r.orderKey k = some key then { r with marked := true } else r
      ∃ t, exec (.markOldestRecord k) s = .next t ∧ t.tile n = { t0 with inbox := t0.inbox.map mark, deque := t0.deque.map mark } ∧ t.mem = s.mem

/-- R295, R309: what a release holds back leaves when the chronometer passes its reading, and not before; nor before the writes of earlier units of its
berth whose scope its destination is in. -/
def HoldEvent : Prop :=
  ∀ (n : Nat) (s : State),
    ((∀ h ∈ (s.tile n).held, s.chron < h.release) → ∃ t, exec (.releaseHoldEnd n) s = .next t ∧ t.mem = s.mem ∧ (t.tile n).held = (s.tile n).held ∧
      t.flights = s.flights) ∧
    ∀ h off d, (s.tile n).held = [h] → h.release ≤ s.chron → h.items = [.store off d] → h.issuer.tile = n → h.issuer.key = none →
      ((∀ f ∈ s.flights, f.issuer.tile = n → f.issuer.berth ≠ h.issuer.berth) → ∃ t, exec (.releaseHoldEnd n) s = .next t ∧ (t.tile n).held = [] ∧
        ∀ a, Mem.read t.mem a = if slicePa n off ≤ a ∧ a < slicePa n off + d.length then d.getD (a - slicePa n off) 0 else Mem.read s.mem a) ∧
      ∀ f ∈ s.flights, f.issuer.tile = n → f.issuer.berth = h.issuer.berth → f.issuer.unit < h.issuer.unit → s.unperformed f = true →
        inScope f.issuer.scope n (.slice n off) = true → ∃ t, exec (.releaseHoldEnd n) s = .next t ∧ (t.tile n).held = [h] ∧ t.mem = s.mem ∧
          t.flights = s.flights

/-- R386 to R389: publication raises each tile's copies of F and G to the frontiers of the work set; a delta record that arrives joins the intake and
opens its point; a release takes the least open point that the input frontier has passed, with its groups. -/
def DeltaEvents : Prop :=
  (∀ (k : Nat) (s : State) (l : Launch), s.launch? k = some l → l.state ≠ .saved → ∃ t, exec (.frontierPublish k) s = .next t ∧ t.mem = s.mem ∧
    ∀ n ∈ l.field, ∀ st, st < 16 →
      (frontierCopy (t.tile n).frontierF k st).toNat = max (frontierCopy (s.tile n).frontierF k st).toNat
        (max ((lookup st l.pubF).getD 0).toNat (frontierOf (s.workPoints k) st)) ∧
      (frontierCopy (t.tile n).frontierG k st).toNat = max (frontierCopy (s.tile n).frontierG k st).toNat
        (max ((lookup st l.pubG).getD 0).toNat (inputFrontierOf (s.workPoints k) st))) ∧
  (∀ (id : Nat) (s : State) (f : Flight) (m : Message), s.flight? id = some f → f.kind = .message m → m.kind = 4 → f.left = 0 →
    s.messageBefore f m = false → ∃ t, exec (.deltaIntakeArrival id) s = .next t ∧ t.flight? id = none ∧ t.mem = s.mem ∧
      t.tile m.destTile = (deltaRecs m.payload).foldl (fun x r => x.takeDelta m.ctxnum m.stage.toNat m.poison r) (s.tile m.destTile) ∧
      (∀ n, n ≠ m.destTile → t.tile n = s.tile n) ∧ Event.frontierPublish m.ctxnum ∈ t.agenda) ∧
  ∀ (n st : Nat) (time : Word) (s : State) (p : OpenPoint), (s.tile n).releasable = some p → p.time = time → p.stage = st →
    s.consBusy n = false → ∃ t, exec (.pointRelease n time st) s = .next t ∧ (t.tile n).points = (s.tile n).points.erase p ∧
      (t.tile n).intake = (s.tile n).intake.filter (fun g => !(g.ctxnum == p.ctxnum && g.stage == st && g.time == time)) ∧
      Event.frontierPublish p.ctxnum ∈ t.agenda ∧ s.now + 8 ≤ (t.tile n).consolidatorFree ∧ t.mem = s.mem

/-! ## Split-phase accesses complete (R185 to R193, R299) -/

/-- A barrier object has counted an arrival of `b` bytes (R197). -/
def Counted (s t : State) (n off b : Nat) : Prop := t.readSlice n off 16 = ((s.bar n off).arrive b).bytes

/-- Byte `j` of a row. -/
def rowByte (rs : Rows) (row j : Nat) : Byte := (rowsGet rs row).extractLsb' (8 * j) 8

/-- The context that holds the rows of an issuer's image. -/
def Holder (s : State) (i : Issuer) (n b : Nat) (c : Ctx) : Prop :=
  ∃ l im, s.launch? i.ctxnum = some l ∧ lookup i.image l.images = some im ∧ im.agent = n ∧ im.berth = b ∧ s.ctx? n b = some c ∧ c.ctxnum = i.ctxnum ∧
    c.image = i.image

/-- No row of a run is gated, so that a delivery to it writes no image (R284). -/
def NoneGated (s : State) (i : Issuer) (n first count : Nat) : Prop :=
  ∀ r, first ≤ r → r < first + count → (s.tile n).rowGated (i.ctxnum, i.image, r) = false

/-- R185, R188: a GET of a FREE task that has been read and whose parts have arrived puts its bytes into its rows and counts them into its barrier; the
answer to its checks is the task's fault where they failed. -/
def GetEvents : Prop :=
  ∀ (id : Nat) (s : State) (f : Flight) (p ctl : Word) (row n b : Nat) (c : Ctx), s.flight? id = some f → f.kind = .get p ctl row →
    (Holder s f.issuer n b c → f.performed = true → f.left = 0 → f.poison = [] → f.issuer.ordered = false → f.data.length = ctlLen ctl →
      ∃ t c', exec (.getDelivery id) s = .next t ∧ t.flight? id = none ∧ t.ctx? n b = some c' ∧
        (NoneGated s f.issuer n row ((ctlLen ctl + 255) / 256) → Counted s t f.issuer.tile (ctlBar ctl) (ctlLen ctl)) ∧
        (∀ j, j < ctlLen ctl → rowByte c'.rows (row + j / 256) (j % 256) = f.data.getD j 0) ∧
        (∀ r, r < row ∨ row + (ctlLen ctl + 255) / 256 ≤ r → rowsGet c'.rows r = rowsGet c.rows r) ∧
        c' = { c with rows := c'.rows, rowPoison := c'.rowPoison, pend := c'.pend }) ∧
    (f.performed = false ∨ f.left ≠ 0 → exec (.getDelivery id) s = .next s) ∧
    (s.running? f.issuer = some c → (s.berth f.issuer.tile f.issuer.berth).spec = none →
      let c1 := { c with unchecked := c.unchecked.filter fun x => x != id }
      (f.failure = none → ∃ t g, exec (.getCheckResult id) s = .next t ∧ t.ctx? f.issuer.tile f.issuer.berth = some c1 ∧ t.flight? id = some g ∧
        g = { f with checked := true } ∧ Event.getDelivery id ∈ t.agenda) ∧
      (∀ cause q, f.failure = some (cause, q) → ∃ t, exec (.getCheckResult id) s = .next t ∧ t.flight? id = none ∧
        t.ctx? f.issuer.tile f.issuer.berth = some (c1.withFault id cause q)))

/-- R186, R191, R193: a performed PUT and a performed remote ACAS count their bytes into their barriers, the ACAS with the old value in its row, or, of a
poisoned word, with the row's mark; a posted atomic acts on its word once the writes before it there are done, and leaves a poisoned one (R288). -/
def WriteEvents : Prop :=
  ∀ (id : Nat) (s : State) (f : Flight), s.flight? id = some f →
    (∀ p ctl d, f.kind = .put p ctl d →
      (f.performed = false → exec (.putCompletion id) s = .next s) ∧
      (f.performed = true → ∃ t, exec (.putCompletion id) s = .next t ∧ t.flight? id = none ∧ Counted s t f.issuer.tile (ctlBar ctl) d.length)) ∧
    (∀ p e w bar row, f.kind = .acas p e w bar row →
      (f.performed = false → exec (.remoteAcasReply id) s = .next s) ∧
      (∀ n b c, f.performed = true → Holder s f.issuer n b c → ∃ t c', exec (.remoteAcasReply id) s = .next t ∧ t.flight? id = none ∧
        t.ctx? n b = some c' ∧ (∀ r, r ≠ row → rowsGet c'.rows r = rowsGet c.rows r) ∧
        (f.poison = [] → rowsGet c'.rows row = Row.withLow (rowsGet c.rows row) f.old) ∧
        (f.poison ≠ [] → rowsGet c'.rows row = rowsGet c.rows row ∧ (row, 0) ∈ c'.rowPoison) ∧
        (NoneGated s f.issuer n row 1 → Counted s t f.issuer.tile bar 8))) ∧
    (∀ op p x a off, f.kind = .atomic op p x → f.performed = false → s.flights = [f] → s.flightSlice f = some (a, off) → f.left = 0 →
      f.issuer.key = none → ∃ t, exec (.postedAtomicCompletion id) s = .next t ∧ t.flight? id = none ∧
        (s.poisoned (slicePa a off) 8 = false →
          sliceWord t a off = atomicNew op (sliceWord s a off) x ∧ OnlyBytes s.mem t.mem (slicePa a off) 8) ∧
        (s.poisoned (slicePa a off) 8 = true → t.mem = s.mem))

/-! ## Memory cores (R328 to R345) -/

/-- R328, R329, R333: a request waits in its channel's queue of 256; the head of a queue reads or writes the memory that its translation names, or has
its page walked first. -/
def RequestEvents : Prop :=
  ∀ (id core ch : Nat) (s : State) (r : ExtReq), s.req? id = some r →
    (let q := (s.tile (servingCore r.va)).core.queues[chanOf r.va]
     (id ∈ q → exec (.externalRequestArrival id) s = .next s) ∧
     (id ∉ q → 256 ≤ q.length → exec (.externalRequestArrival id) s = .next (s.soon (.externalRequestArrival id))) ∧
     (id ∉ q → q.length < 256 → ∃ t, exec (.externalRequestArrival id) s = .next t ∧
       (t.tile (servingCore r.va)).core.queues[chanOf r.va] = q ++ [id] ∧ t.mem = s.mem)) ∧
    (ch < 2 → ∀ rest, (s.tile core).core.queues[Fin.ofNat 2 ch] = id :: rest →
      ((s.tile core).core.tlb.find? (fun e => e.hits r.part r.va) = none →
        exec (.externalRequestPerform core ch) s = .next (s.once (.pageTableWalk core r.part (BitVec.ofNat 48 r.va)))) ∧
      ∀ e, (s.tile core).core.tlb.find? (fun e => e.hits r.part r.va) = some e →
        (e.admits (s.useOf r) = true → pteType e.pte ≠ 2 → ∃ t, exec (.externalRequestPerform core ch) s = .next t ∧
          (t.tile core).core.queues[Fin.ofNat 2 ch] = rest ∧
          (∀ d, r.kind = .write d [] → t.mem = Mem.writeBytes s.mem (e.pa r.va) d) ∧
          (∀ op x, r.kind = .atomic op x → s.poisoned (e.pa r.va) 8 = false → t.mem = Mem.writeBytes s.mem (e.pa r.va)
            (Machine.wordBytes (atomicNew op (bytesWord (Mem.readBytes s.mem (e.pa r.va) 8)) x))) ∧
          (∀ old new, r.kind = .acas old new → s.poisoned (e.pa r.va) 8 = false → t.mem = if bytesWord (Mem.readBytes s.mem (e.pa r.va) 8) = old
            then Mem.writeBytes s.mem (e.pa r.va) (Machine.wordBytes new) else s.mem) ∧
          (∀ len, r.kind = .read len → t.mem = s.mem) ∧ (∀ ps, r.kind = .gather ps → t.mem = s.mem)) ∧
        (e.admits (s.useOf r) = false → ∃ t, exec (.externalRequestPerform core ch) s = .next t ∧
          (t.tile core).core.queues[Fin.ofNat 2 ch] = rest ∧ t.mem = s.mem ∧
          Report.translate r.part r.va (if pteType e.pte = 2 then 2 else 1) ∈ t.reports))

/-- R330, R332, R334: a walk that succeeds puts its page into the TLB; a shootdown drops every entry of its range that nothing pins, and goes on while
a pinned one is left. -/
def TranslationEvents : Prop :=
  (∀ (core p size : Nat) (va : BitVec 48) (s s1 : State) (e : Word), (∀ x ∈ (s.tile core).core.tlb, x.hits p va.toNat = false) →
    s.walk core p va.toNat = (s1, some (e, size)) → ∃ t, exec (.pageTableWalk core p va) s = .next t ∧
      (t.tile core).core.tlb = tlbInsert { part := p, base := va.toNat / size * size, size := size, pte := e } (s1.tile core).core.tlb ∧ t.mem = s.mem) ∧
  ∀ (p len : Nat) (va : BitVec 48) (s : State), ∃ t, exec (.shootdown p va len) s = .next t ∧ t = { s with tiles := t.tiles, agenda := t.agenda } ∧
    let hit (e : TlbEntry) : Bool := e.part == p && meets e.base e.size va.toNat len
    (∀ n, isCore n = true → (t.tile n).core.tlb = (s.tile n).core.tlb.filter fun e => !(hit e && e.pins == 0)) ∧
    (∀ n, isCore n = false → t.tile n = s.tile n) ∧
    ((∃ e ∈ t.tiles, isCore e.1 = true ∧ ∃ x ∈ e.2.core.tlb, hit x = true) → Event.shootdown p va len ∈ t.agenda)

/-- R335: a service request makes a record of its 64 bytes in the core's inbox, and waits while that holds 64. -/
def ServiceEvent : Prop :=
  ∀ (id : Nat) (s : State) (r : ExtReq) (e : TlbEntry) (d : List Byte), s.req? id = some r → r.kind = .write d [] → d.length = 64 →
    let core := servingCore r.va
    let u := (s.tile core).core
    u.tlb.find? (fun e => e.hits r.part r.va) = some e → u.waitingService = [] →
    (u.inbox.length < 64 → ∃ t x, exec (.serviceRequest id) s = .next t ∧ (t.tile core).core.inbox = u.inbox ++ [x] ∧ x.ctxnum = r.ctxnum ∧
      x.ts = r.issuer.ts ∧ x.src = r.issuer.src ∧ x.poison = r.issuer.poison ∧ (∀ j, j < 8 → x.payload j = payloadWord d j) ∧
      (∀ p h, s.part? r.part = some p → p.services.find? (fun y => y.1 == pteSvc e.pte) = some h → x.hpc = h.2.entry)) ∧
    (64 ≤ u.inbox.length → ∃ t, exec (.serviceRequest id) s = .next t ∧ (t.tile core).core.inbox = u.inbox ∧ (t.tile core).core.waitingService = [id])

/-- R341: one line's contribution of the slice that comes next is added to memory, and the next slice is then awaited; another is held for its turn. -/
def AccumulationEvent : Prop :=
  ∀ (id slice axis nsl : Nat) (s : State) (r : ExtReq) (e : TlbEntry) (d : List Byte), s.req? id = some r →
    r.kind = .acc d slice axis nsl [] → r.accepted = false → r.poison = [] → d.length = 64 → r.va % 64 = 0 →
    let core := servingCore r.va
    let u := (s.tile core).core
    let line := r.va / 64
    u.tlb.find? (fun e => e.hits r.part r.va) = some e → u.held = [] → u.spill = [] → u.spillNext = [] → u.next.length < 4096 →
    (slice = nextOfLine u (r.ctxnum, axis, line) → ∃ t, exec (.accumulatingContribution id) s = .next t ∧
      t.mem = Mem.writeBytes s.mem (e.pa r.va) (foldWords (Mem.readBytes s.mem (e.pa r.va) 64) d) ∧
      nextOfLine (t.tile core).core (r.ctxnum, axis, line) = (if slice + 1 = nsl then 0 else slice + 1) ∧ (t.tile core).core.held = []) ∧
    (slice ≠ nextOfLine u (r.ctxnum, axis, line) → ∃ t, exec (.accumulatingContribution id) s = .next t ∧ t.mem = s.mem ∧
      (t.tile core).core.held = [(r.ctxnum, axis, line, slice, id)])

/-- R345: at a window's boundary the tokens that the active partitions of a port get add up to the 4,096 flits of the window. -/
def TokenEvent : Prop :=
  ∀ (s : State), ∃ t, exec .tokenRefill s = .next t ∧ t = { s with tiles := t.tiles } ∧
    (∀ p ∈ s.packets, tileZ p.at_ = 0 → ∀ q up, (q, up) ∈ [(s.activeAt p.at_ false, 0), (s.activeAt p.at_ true, 1)] → ∀ g ∈ s.grants q,
      (2 * g.1 + up, g.2, g.2) ∈ (t.tile p.at_).router.buckets) ∧
    ∀ n up, s.activeAt n up ≠ [] → ((s.activeAt n up).map (shareOf s)).sum ≤ 100 → ((s.grants (s.activeAt n up)).map Prod.snd).sum = 4096

end Sys2Proof.Claims

/-- R209, R296 to R299, R309, R357, R358, R386 to R389: retirement, the order of commits, releases and frontiers. The model's choices and
readings here: assumptions 13, 33, 73. -/
def Obligations.SequencerEvents : Prop :=
  Sys2Proof.Claims.RetirementEvents ∧ Sys2Proof.Claims.GrantEvent ∧ Sys2Proof.Claims.OrderedFrontierEvent ∧ Sys2Proof.Claims.MarkEvent ∧
  Sys2Proof.Claims.HoldEvent ∧ Sys2Proof.Claims.DeltaEvents

/-- R185, R186, R188, R191, R193: how split-phase accesses complete. The model's choices and readings here: assumption 8. -/
def Obligations.AccessEvents : Prop := Sys2Proof.Claims.GetEvents ∧ Sys2Proof.Claims.WriteEvents

/-- R328 to R335, R341, R345: what the memory cores and the ports of the root tier do. The model's choices and readings here: assumptions 7,
8, 50. -/
def Obligations.MemoryCoreEvents : Prop :=
  Sys2Proof.Claims.RequestEvents ∧ Sys2Proof.Claims.TranslationEvents ∧ Sys2Proof.Claims.ServiceEvent ∧ Sys2Proof.Claims.AccumulationEvent ∧
  Sys2Proof.Claims.TokenEvent

namespace Sys2Proof.Claims

/-! ## The copy engine and the layout engine (R218, R225, R338, R369) -/

/-- An operation has moved its bytes, and ends after its cycles (R216, R218). -/
def Moved (s t : State) (n id len : Nat) : Prop :=
  (∃ o, t.op? n id = some o ∧ o.stage = .running len (s.now + moveCycles len) ∧ o.counts = len) ∧
    (s.now + moveCycles len, Event.engineOperationComplete n id) ∈ t.timed

/-- An operation has not begun to move its bytes, and its engine may reach the slice (R182). -/
def Begins (s : State) (n : Nat) (o : EngineOp) : Prop :=
  o.issuer.key = none ∧ o.issuer.tile = n ∧ o.put = 0 ∧ o.asked = 0 ∧ s.opFlights n o.id = [] ∧ (s.tile n).sliceHeld ≤ s.now

/-- An operation has sent one request and waits for its answer: what it has asked for and sent on so far, and the new flight (R218, R328). -/
def Waits (s t : State) (n id asked put : Nat) (kind : FlightKind) : Prop :=
  (∃ o, t.op? n id = some o ∧ o.stage = .running 0 1 ∧ o.asked = asked ∧ o.put = put) ∧
    (∃ f, t.flights = s.flights ++ [f] ∧ f.kind = kind ∧ f.performed = false) ∧ t.mem = s.mem

/-- The request of an operation that has landed, with all the bytes of its run. -/
def Landed (s : State) (n : Nat) (o : EngineOp) (f : Flight) (p : Place) (len : Nat) : Prop :=
  o.issuer.key = none ∧ o.put = 0 ∧ o.asked = len ∧ s.opFlights n o.id = [f] ∧ f.kind = .fetch o.id 0 p len ∧ f.performed = true ∧ f.poison = [] ∧
    f.data.length = len ∧ len ≤ 1024 ∧ 0 < len ∧ (s.tile n).sliceHeld ≤ s.now

/-- The copy commands by their operation. -/
def CopyCode (n id code : Nat) (e : Instr) : Prop :=
  code = 0 ∧ e = .copyCommandCopy n id ∨ code = 1 ∧ e = .copyCommandSlotFill n id ∨ code = 2 ∧ e = .copyCommandAccumulatingStore n id ∨
    code = 3 ∧ e = .copyCommandFill n id

/-- R218: within its own slice a copy command moves the bytes of its source, a fill command writes its pattern, a slot fill writes operand memory,
and an accumulating store sends its contributions. -/
def LocalCopies : Prop :=
  ∀ (n id x : Nat) (s : State) (o : EngineOp) (c : Copy), o.id = id → Begins s n o → s.poisonIn (slicePa n x) c.len = [] →
    (∀ y, s.takenCopy n id 0 = some (o, c) → s.sourceOf n o.issuer.ctxnum c.src c.len = .here (.at_ x) →
      s.sinkOf n o.issuer.ctxnum c.dst c.len = .here (.at_ y) → x + c.len ≤ y ∨ y + c.len ≤ x →
      ∃ t, exec (.copyCommandCopy n id) s = .next t ∧ Moved s t n id c.len ∧ OnlyBytes s.mem t.mem (slicePa n y) c.len ∧
        ∀ j, j < c.len → Mem.read t.mem (slicePa n y + j) = Mem.read s.mem (slicePa n x + j)) ∧
    (∀ y, s.takenCopy n id 3 = some (o, c) → s.sinkOf n o.issuer.ctxnum c.dst c.len = .here (.at_ y) →
      ∃ t, exec (.copyCommandFill n id) s = .next t ∧ Moved s t n id c.len ∧ OnlyBytes s.mem t.mem (slicePa n y) c.len ∧
        ∀ j, j < c.len → Mem.read t.mem (slicePa n y + j) = (Machine.wordBytes c.src).getD (j % 8) 0) ∧
    (s.takenCopy n id 1 = some (o, c) → s.sourceOf n o.issuer.ctxnum c.src c.len = .here (.at_ x) →
      ∃ t, exec (.copyCommandSlotFill n id) s = .next t ∧ Moved s t n id c.len ∧ t.mem = s.mem ∧
        ∀ j, j < c.len → Mem.read (t.tile n).mx.slots (4096 * slotOf c.dst + slotOff c.dst + j) = Mem.read s.mem (slicePa n x + j)) ∧
    (s.takenCopy n id 2 = some (o, c) → s.sourceOf n o.issuer.ctxnum c.src c.len = .here (.at_ x) → c.len % 16 = 0 → 0 < c.len →
      let parts := (granules (c.dst.extractLsb' 0 48).toNat c.len).length
      (s.engineReqs n).length + parts ≤ 256 →
      ∃ t o', exec (.copyCommandAccumulatingStore n id) s = .next t ∧ t.mem = s.mem ∧ t.op? n id = some o' ∧ o'.stage = .running 0 1 ∧ o'.put = c.len ∧
        t.reqs.length = s.reqs.length + parts)

/-- R218, R328, R398: a copy command whose source stands elsewhere asks for it; what has landed goes to its destination; a destination elsewhere is
sent its bytes; and a command that has moved everything, with nothing under way, ends after its cycles. -/
def RemoteCopies : Prop :=
  ∀ (n id : Nat) (s : State) (o : EngineOp) (c : Copy), o.id = id →
    (∀ code e p, CopyCode n id code e → code < 3 → s.takenCopy n id code = some (o, c) → s.sourceOf n o.issuer.ctxnum c.src c.len = .remote p →
      Begins s n o → 0 < c.len → c.len ≤ p.room → s.mayAsk n p c.len = true → (s.copyHaul n o.issuer.ctxnum c).chases = none →
      ∃ t, exec e s = .next t ∧ Waits s t n id c.len 0 (.fetch id 0 p c.len)) ∧
    (∀ f p y, s.takenCopy n id 0 = some (o, c) → s.sourceOf n o.issuer.ctxnum c.src c.len = .remote p →
      s.sinkOf n o.issuer.ctxnum c.dst c.len = .here (.at_ y) → Landed s n o f p c.len →
      ∃ t, exec (.copyCommandCopy n id) s = .next t ∧ Moved s t n id c.len ∧ OnlyBytes s.mem t.mem (slicePa n y) c.len ∧
        ∀ j, j < c.len → Mem.read t.mem (slicePa n y + j) = f.data.getD j 0) ∧
    (∀ x q, s.takenCopy n id 0 = some (o, c) → s.sourceOf n o.issuer.ctxnum c.src c.len = .here (.at_ x) →
      s.sinkOf n o.issuer.ctxnum c.dst c.len = .remote q → Begins s n o → s.poisonIn (slicePa n x) c.len = [] → 0 < c.len → c.len ≤ q.room →
      s.mayAsk n q c.len = true →
      ∃ t, exec (.copyCommandCopy n id) s = .next t ∧ Waits s t n id 0 c.len (.store id 0 q (s.readSlice n x c.len) [])) ∧
    ∀ code e, CopyCode n id code e → s.takenCopy n id code = some (o, c) → c.len ≤ o.put → c.len ≤ o.asked → s.opFlights n id = [] →
      (s.tile n).sliceHeld ≤ s.now → ∃ t, exec e s = .next t ∧ Moved s t n id c.len ∧ t.mem = s.mem

/-- R218, R328: the copy commands. -/
def CopyEvents : Prop := LocalCopies ∧ RemoteCopies

/-- R338: a gather asks for the element of external memory that it moves, and what has landed goes into the dense run; a scatter sends an element of
the dense run out; and a command that has moved everything ends after its cycles. -/
def LayoutEvents : Prop :=
  ∀ (n id x : Nat) (s : State) (o : EngineOp) (y : Layout), o.id = id → y.count = 1 → 0 < y.size →
    let va := (y.affine 0).toNat
    let near (src : Bool) : Prop := if src then s.sourceOf n o.issuer.ctxnum y.dense y.size = .here (.at_ x)
      else s.sinkOf n o.issuer.ctxnum y.dense y.size = .here (.at_ x)
    (s.takenLayout n id 0 = some (o, y) → near false → Begins s n o → y.affine 0 % 256 + y.size ≤ 256 → (s.engineReqs n).length < 256 →
      ∃ t r, exec (.gather n id) s = .next t ∧ Waits s t n id y.size 0 (.fetch id 0 (.ext va) y.size) ∧ r ∈ t.reqs ∧
        r.kind = .gather [(va, y.size)] ∧ r.va = va) ∧
    (∀ f p, s.takenLayout n id 0 = some (o, y) → near false → Landed s n o f p y.size →
      ∃ t, exec (.gather n id) s = .next t ∧ Moved s t n id y.size ∧ OnlyBytes s.mem t.mem (slicePa n x) y.size ∧
        ∀ j, j < y.size → Mem.read t.mem (slicePa n x + j) = f.data.getD j 0) ∧
    (s.takenLayout n id 1 = some (o, y) → near true → Begins s n o → y.affine 0 % 256 + y.size ≤ 256 → (s.engineReqs n).length < 256 →
      s.poisonIn (slicePa n x) y.size = [] → s.storeOut n id va = false →
      ∃ t r, exec (.scatter n id) s = .next t ∧ Waits s t n id 0 y.size (.store id 0 (.ext va) [] []) ∧ r ∈ t.reqs ∧
        r.kind = .scatter [(va, s.readSlice n x y.size, false)] ∧ r.va = va) ∧
    ∀ code e, (code, e) ∈ [(0, Instr.gather n id), (1, .scatter n id)] → s.takenLayout n id code = some (o, y) → near (code == 1) → y.size ≤ o.put →
      y.size ≤ o.asked → s.opFlights n id = [] → (s.tile n).sliceHeld ≤ s.now → ∃ t, exec e s = .next t ∧ Moved s t n id y.size ∧ t.mem = s.mem

/-- R215 to R217, R223: an engine takes the first of its queue: a record runs once its checks pass, and is dropped where they fail; a move of a ring moves
PROD or CONS, or passes the other end and moves nothing. -/
def TakeCommandEvent : Prop :=
  ∀ (n e : Nat) (s : State),
    ((s.tile n).nextOpOf e = none → exec (.engineTakeCommand n e) s = .next (s.kick n)) ∧
    ∀ o, (s.tile n).nextOpOf e = some o → s.op? n o.id = some o → (∀ l, s.launch? o.issuer.ctxnum = some l → l.state ≠ .down) →
      (∀ bs, o.kind = .record bs → e ≠ 2 →
        (∀ s1, s.checkTaken n o = .ok s1 → ∃ t o', exec (.engineTakeCommand n e) s = .next t ∧ t.op? n o.id = some o' ∧ o'.stage = .running 0 0 ∧
          recordEvent n o bs ∈ t.agenda ∧ t.mem = s.mem) ∧
        (∀ s1, s.checkTaken n o = .error s1 → ∃ t, exec (.engineTakeCommand n e) s = .next t ∧ t.op? n o.id = none ∧ t.mem = s.mem)) ∧
      (∀ k count produce, o.kind = .ringMove k count produce → ∃ t, exec (.engineTakeCommand n e) s = .next t ∧ t.op? n o.id = none ∧ t.mem = s.mem ∧
        let r := (s.tile n).ring k
        (t.tile n).ring k = if (if produce then r.size < r.occ + count.toNat else r.occ < count.toNat) then r
          else if produce then { r with prod := r.prod + count } else { r with cons := r.cons + count })

/-- R216, R218, R225: an operation whose time has come leaves its engine and counts its bytes into its barriers. -/
def OperationEndEvent : Prop :=
  ∀ (n id done ready : Nat) (s : State) (o : EngineOp), s.op? n id = some o → o.stage = .running done ready →
    (done = 0 ∨ s.now < ready ∨ s.opFlights n id ≠ [] → exec (.engineOperationComplete n id) s = .next s) ∧
    (done ≠ 0 → ready ≤ s.now → s.opFlights n id = [] → ∃ t, exec (.engineOperationComplete n id) s = .next t ∧
      t.op? n id = none ∧ (s.countsOf n o = [] → t.mem = s.mem) ∧ ∀ a off b, s.countsOf n o = [(a, off, b)] → Counted s t a off b)

/-- None of the words of a ring's next elements is poisoned. -/
def CleanRing (s : State) (n : Nat) (r : Ring) (count : Nat) : Prop :=
  3 ≤ r.esl ∧ ∀ i j, i < count → j < 2 ^ r.esl → s.memPoison.contains ((slicePa n (r.elem (r.cons.toNat + i)) + j) / 8) = false

/-- R225, R250, R369: a ring operation fires once its rings allow it: elements leave the ring for their destination, an accumulator drain enters the matrix
queue, and a trace stream's elements join the neighbour's ring, a stream that goes first making another wait. -/
def FiringEvents : Prop :=
  ∀ (n id : Nat) (s : State),
    (s.fires n id = none → exec (.traceStreamFiring n id) s = .next s) ∧ (s.goesOn n id = none → exec (.ringOperationFiring n id) s = .next s) ∧
    ∀ o fn p w map cr rec_, s.fires n id = some o → o.kind = .eop fn p w map cr rec_ → o.id = id → s.op? n id = some o →
      (∀ k c y, o.eng = 0 → fn = 0 → s.streamOf n o = none → (RingMap.of map).in0 = some (k, c) → (RingMap.of map).out = none →
        let r := (s.tile n).ring k
        let size := 2 ^ r.esl
        s.sinkOf n o.issuer.ctxnum p (c * size) = .here (.at_ y) → Begins s n o → CleanRing s n r c → c ≤ r.size →
        (∀ i, i < c → r.elem (r.cons.toNat + i) + size ≤ y ∨ y + c * size ≤ r.elem (r.cons.toNat + i)) →
        ∃ t, exec (.ringOperationFiring n id) s = .next t ∧ Moved s t n id (c * size) ∧
          (t.tile n).ring k = { r with cons := r.cons + BitVec.ofNat 32 c } ∧ OnlyBytes s.mem t.mem (slicePa n y) (c * size) ∧
          ∀ i j, i < c → j < size → Mem.read t.mem (slicePa n y + i * size + j) = Mem.read s.mem (slicePa n (r.elem (r.cons.toNat + i)) + j)) ∧
      (o.eng = 1 → fn = 1 → (s.tile n).mxLate s.now = true → s.firesLater n o = false → ∃ t x, exec (.ringOperationFiring n id) s = .next t ∧
        (t.tile n).mx.queue = (s.tile n).mx.queue ++ [x] ∧ x.kind = .drain (p.toNat % 2) id ∧ x.parent = some id) ∧
      (∀ d k j c, s.streamOf n o = some (d, k) → (RingMap.of map).in0 = some (j, c) → d ≠ n →
        let r := (s.tile n).ring j
        let q := (s.tile d).ring k
        (s.streamAhead n d k = true → exec (.traceStreamFiring n id) s = .next (s.soon (.traceStreamFiring n id))) ∧
        (s.streamAhead n d k = false → o.issuer.key = none → c ≤ q.size → CleanRing s n r c → q.esl = r.esl →
          ∃ t, exec (.traceStreamFiring n id) s = .next t ∧
          (t.tile n).ring j = { r with cons := r.cons + BitVec.ofNat 32 c } ∧ (t.tile d).ring k = { q with prod := q.prod + BitVec.ofNat 32 c } ∧
          ∀ i b, i < c → b < 2 ^ r.esl → Mem.read t.mem (slicePa d (q.elem (q.prod.toNat + i)) + b) =
            Mem.read s.mem (slicePa n (r.elem (r.cons.toNat + i)) + b)))

/-- R221, R264, R272: a consolidator command that finds the consolidator free leaves the number of records it wrote, or of entries it changed, in its
result word, and occupies the consolidator for 8 + 2n cycles; it waits for one that runs, for the berths that
stand in its line, and for a VSCT. -/
def ConsolidatorEvents : Prop :=
  ∀ (n id op : Nat) (s : State) (o : EngineOp) (c : Cons), s.takenCons n id op = some (o, c) → o.issuer.key = none → op < 3 →
    let e : Instr := if op = 0 then .consolidate n id else if op = 1 then .consolidateActiveSet n id else .insertArrangement n id
    (s.consBusy n = true → ∃ t, exec e s = .next t ∧ t = { s with timed := t.timed } ∧ (s.consNext n, if op = 0 then Event.consolidate n id
      else if op = 1 then .consolidateActiveSet n id else .insertArrangement n id) ∈ t.timed) ∧
    (s.consBusy n = false → ∃ t written movf covf, exec e s = .next t ∧
      t.readSlice n c.res 8 = leBytes 8 (written + (if movf then 2 ^ 62 else 0) + if covf then 2 ^ 63 else 0) ∧
      (t.tile n).consolidatorFree = s.now + 8 + 2 * c.nrec ∧ (∃ o', t.op? n id = some o' ∧ o'.stage = .running (32 * c.nrec) (s.now + 8 + 2 * c.nrec)) ∧
      (op < 2 →
        let out := consolidated (op == 1) (deltaRecs (s.readSlice n c.src (32 * c.nrec)))
        written = min out.1.length c.cap ∧ movf = out.2 ∧ covf = decide (c.cap < out.1.length)))

/-! ## The matrix and expansion units (R242, R248, R249, R263, R372) -/

/-- R242, R263, R372: a window's boundary gives the tile a new curb window; the unit begins the next entry of its queue, which ends after its occupancy;
an expansion unit that has come free lets what waits fire. -/
def UnitEvents : Prop :=
  ∀ (n : Nat) (s : State),
    (let l := min (s.tile n).curbLimit (s.tile n).curbCeil
     exec (.curbWindowBoundary n) s = .next (s.setTile n { s.tile n with curbLimit := l, curbWindow := l, curbUsed := 0 })) ∧
    exec (.expansionInstructionComplete n) s = .next (if s.now < (s.tile n).xu.busyUntil then s else s.kick n) ∧
    (nextEntry (s.tile n).mx.queue = none → exec (.matrixQueueExecute n) s = .next s) ∧
    ∀ o, nextEntry (s.tile n).mx.queue = some o → (s.tile n).mx.freeAt ≤ s.now →
      (o.ownView = true ∧ o.scaleSources ≠ ([], []) ∧ s.now < (s.tile n).sliceHeld →
        exec (.matrixQueueExecute n) s = .next (s.atCycle (s.tile n).sliceHeld (.matrixQueueExecute n))) ∧
      (o.ownView = false ∨ (s.tile n).sliceHeld ≤ s.now → ∃ t x, exec (.matrixQueueExecute n) s = .next t ∧
      x ∈ (t.tile n).mx.queue ∧ x.id = o.id ∧ x.kind = o.kind ∧ x.doneAt = some (s.now + o.cycles + o.tail) ∧
      (t.tile n).mx.freeAt = s.now + o.cycles ∧ (s.now + o.cycles + o.tail, Event.tileOperationComplete n) ∈ t.timed ∧ t.mem = s.mem)

/-- R248, R249: a remote command is refused at once, with its reason in the reply, or enters the target's queue as its holder's own would; the reply counts
64 bytes into the sender's barrier, and a refusal is kept for who observes it. -/
def RemoteEvents : Prop :=
  (∀ (id : Nat) (s : State) (f : Flight) (m : Message) (e : Instr), e = .remoteMma id ∨ e = .remoteMmaz id ∨ e = .remoteMacc id →
    s.flight? id = some f → f.kind = .message m → f.left = 0 → s.messageBefore f m = false →
    let d := m.destTile
    let x := s.tile d
    let cr := remoteRegs m.payload (((x.mx.holder.bind fun b => (x.berth b).ctx).map fun c => c.cr.accmode).getD 0)
    let reason := x.remoteReason m.payload cr
    let bar := fieldAt m.payload 4 4 % 2 ^ 17
    (reason ≠ 0 → ∃ t g, exec e s = .next t ∧ t.flight? id = some g ∧ g.kind = .mxReply (s.nearTag d m.ctxnum) bar reason ∧ g.performed = true ∧
      (t.tile d).mx.queue = x.mx.queue ∧ t.mem = s.mem) ∧
    (reason = 0 → x.mxLate s.now = true → (fieldAt m.payload 0 1 < 2 → x.curbRoom = true) → ∃ t g o, exec e s = .next t ∧
      t.flight? id = some g ∧ g.kind = .mxReply (s.nearTag d m.ctxnum) bar 0 ∧ (t.tile d).mx.queue = x.mx.queue ++ [o] ∧ o.reply = some id ∧
      o.kind = (match fieldAt m.payload 0 1 with
        | 0 => .mma false (fieldAt m.payload 1 1) (wordAt m.payload 0x10) (wordAt m.payload 0x18)
        | 1 => .mma true (fieldAt m.payload 1 1) (wordAt m.payload 0x10) (wordAt m.payload 0x18)
        | _ => .macc (fieldAt m.payload 1 1)) ∧ t.mem = s.mem)) ∧
  ∀ (id tile bar reason : Nat) (s : State) (f : Flight), s.flight? id = some f → f.kind = .mxReply tile bar reason →
    (f.performed = false → exec (.remoteCommandReply id) s = .next s) ∧
    (f.performed = true → ∃ t, exec (.remoteCommandReply id) s = .next t ∧ t.flight? id = none ∧ Counted s t f.issuer.tile bar 64 ∧
      (t.tile f.issuer.tile).mx.refusals = (s.tile f.issuer.tile).mx.refusals ++ if reason = 0 then [] else [(bar, tile, reason)])

/-! ## The collective engine (R374 to R377) -/

/-- R375: a collective command that has been taken copies its source into the partial store, counts it into LBAR, and is announced next; of the accumulators
it copies the rows into a shadow, whether or not the command has reached its engine. -/
def SourceEvents : Prop :=
  ∀ (n id code : Nat) (s : State) (o : EngineOp) (c : Coll) (e : Instr), s.op? n id = some o → o.coll? = some c →
    (code, e) ∈ [(0, Instr.collectiveAdd n id), (1, .collectiveMaximum n id), (2, .collectiveMinimum n id), (3, .collectiveBroadcast n id)] →
    (c.op ≠ code ∨ o.stage ≠ .running 0 0 → exec e s = .next s) ∧
    (c.op = code → o.stage = .running 0 0 → (s.tile n).coll.partialOf id = none → (s.tile n).sliceHeld ≤ s.now → ∃ t p, exec e s = .next t ∧
      (t.tile n).coll.partials = (s.tile n).coll.partials ++ [p] ∧ p.op = id ∧ p.bytes = s.readSlice n c.src c.len ∧
      Event.sliceAnnounce n id ∈ t.agenda ∧ (c.lb = true → Counted s t n c.lbar c.len) ∧ (c.lb = false → t.mem = s.mem)) ∧
    (1 ≤ c.srck → c.srck ≤ 2 → o.waiting = true → (s.tile n).coll.shadow[Fin.ofNat 2 (c.srck - 1)] = none →
      (∀ x ∈ (s.tile n).mx.queue, x.id < o.left → x.onTile (c.srck - 1) = false) → ∃ t p, exec (.accumulatorShadowCopy n id) s = .next t ∧
      (t.tile n).coll.shadow[Fin.ofNat 2 (c.srck - 1)] = some p ∧ p.op = id ∧ p.bytes = accBytes (s.tile n).mx.acc (c.srck - 1) (c.len / 256) ∧
      (o.stage = .queued → o.counts = 0 → Event.engineTakeCommand n 2 ∈ t.agenda))

/-- R374, R375, R398, R430: a command is announced at its root, over the fabric where that is another tile; there it is a part of a round. -/
def AnnounceEvents : Prop :=
  ∀ (n id root : Nat) (s : State),
    (∀ o c, s.announcement n id = none → s.op? n id = some o → o.issuer.away = none → o.coll? = some c → o.stage = .running 0 0 →
      (s.hitchLine o.issuer.ctxnum c.axis).filter (fun h => h != 0) = none → s.rootOf o.issuer.ctxnum n c.axis c.root = some root →
      ((s.tile n).coll.partialOf id).isSome = true → s.announceBlocked n o c = false →
      (root = n → ∃ t o', exec (.sliceAnnounce n id) s = .next t ∧ t.op? n id = some o' ∧ o'.stage = .running 1 0 ∧ t.mem = s.mem ∧
        ∃ r ∈ (t.tile root).coll.rounds, ∃ bs, (c.slice, n, id, bs, o.issuer) ∈ r.parts) ∧
      (root ≠ n → ∃ t f bs, exec (.sliceAnnounce n id) s = .next t ∧ t.flights = s.flights ++ [f] ∧ f.kind = .announce id root bs ∧
        Coll.ofBytes bs = c ∧ t.tiles = s.tiles ∧ t.mem = s.mem)) ∧
    ∀ f bs, s.announcement n id = some f → f.kind = .announce id root bs →
      (f.left ≠ 0 → exec (.sliceAnnounce n id) s = .next s) ∧
      (f.left = 0 → ∃ t, exec (.sliceAnnounce n id) s = .next t ∧ t.flight? f.id = none ∧ t.mem = s.mem ∧
        ∃ r ∈ (t.tile root).coll.rounds, ((Coll.ofBytes bs).slice, n, id, bs, f.issuer) ∈ r.parts)

/-- A round with one more partial folded into its sum. -/
def folds (r : Round) (c : Coll) (bytes : List Byte) (poison : List Nat) : Round :=
  { r with acc := if r.nextSlice = 0 then bytes else foldBytes c.op c.etype r.acc bytes, poison := r.poison ++ poison, nextSlice := r.nextSlice + 1 }

/-- R374, R376: the root takes the partials of slices 0, 1, … in turn, asks another tile for its own, and folds each into the sum; then the receivers
are known. A failed round ends once every slice has been announced. -/
def PullEvents : Prop :=
  ∀ (root : Nat) (s : State) (r : Round) (rest : List Round) (c : Coll), (s.tile root).coll.rounds = r :: rest → r.lead = some c → r.folded = false →
    r.hasSlice 0 = true →
    (r.failed = true → c.nsl ≤ r.parts.length → ∃ t, exec (.collectivePull root r.id) s = .next t ∧
      (t.tile root).coll.rounds = rest.filter (fun x => x.id != r.id) ∧ t.mem = s.mem) ∧
    (r.failed = true → r.parts.length < c.nsl → exec (.collectivePull root r.id) s = .next s) ∧
    (r.failed = false → r.started = false →
      ((s.tile root).storeFits c.len = false → exec (.collectivePull root r.id) s = .next s) ∧
      ((s.tile root).storeFits c.len = true → ∃ t, exec (.collectivePull root r.id) s = .next t ∧ t.mem = s.mem ∧
        (t.tile root).coll.rounds.head? = some { r with started := true } ∧ Event.collectivePull root r.id ∈ t.agenda)) ∧
    (r.failed = false → r.started = true → r.nextSlice < c.nsl → ∀ k n op bs iss, r.parts.find? (fun p => p.1 == r.nextSlice) = some (k, n, op, bs, iss) →
      (n = root → iss.away = none → ∀ p, (s.tile root).coll.partialOf op = some p → ∃ t, exec (.collectivePull root r.id) s = .next t ∧ t.mem = s.mem ∧
        (t.tile root).coll.rounds.head? = some (folds r c p.bytes p.poison)) ∧
      (n ≠ root ∨ iss.away ≠ none →
        (s.pullOf root r.id n op = none → ∃ t f, exec (.collectivePull root r.id) s = .next t ∧ t.flights = s.flights ++ [f] ∧
          f.kind = .pull r.id n op iss.away ∧ t.tiles = s.tiles ∧ t.mem = s.mem) ∧
        ∀ f, s.pullOf root r.id n op = some f →
          (f.performed = false → exec (.collectivePull root r.id) s = .next s) ∧
          (f.performed = true → ∃ t, exec (.collectivePull root r.id) s = .next t ∧ t.mem = s.mem ∧
            (t.tile root).coll.rounds.head? = some (folds r c f.data f.poison)))) ∧
    (r.failed = false → r.started = true → c.nsl ≤ r.nextSlice → ∃ t, exec (.collectivePull root r.id) s = .next t ∧ t.mem = s.mem ∧
      let dests := if (s.hitchLine r.ctxnum r.axis).isSome = true ∧ c.all = true then List.range 4 else s.receivers r.ctxnum root r.axis c.all c.root
      (t.tile root).coll.rounds.head? = some { r with folded := true, deliver := dests } ∧
      ∀ d, dests.head? = some d → Event.collectiveDelivery root r.id d ∈ t.agenda)

/-- A result has been written at a receiver, whose barrier counts it (R376). -/
def Received (s t : State) (d dst rbar : Nat) (data : List Byte) : Prop :=
  Counted s t d rbar data.length ∧ ∀ j, j < data.length → Mem.read t.mem (slicePa d dst + j) = data.getD j 0

/-- R376, R398: a result is written at the root's own tile, or leaves for its receiver, in the order of the receivers; what has arrived is written there
and counted. -/
def ResultEvents : Prop :=
  ∀ (root d rid : Nat) (s : State),
    (∀ r rest c p ps, s.deliveryTo root rid d = none → (s.tile root).coll.rounds.find? (fun x => x.id == rid) = some r → r.deliver = d :: rest →
      r.lead = some c → r.parts = p :: ps → p.2.2.2.2.key = none → (s.hitchLine r.ctxnum r.axis = none ∨ c.all = false) →
      slicePa d c.rbar + 16 ≤ slicePa d c.dst ∨ slicePa d c.dst + r.acc.length ≤ slicePa d c.rbar → ∃ t, exec (.collectiveDelivery root rid d) s = .next t ∧
      (d = root → Received s t d c.dst c.rbar r.acc) ∧
      (d ≠ root → t.mem = s.mem ∧ ∃ f, t.flights = s.flights ++ [f] ∧ f.kind = .deliver rid d c.dst c.rbar r.acc) ∧
      (∀ x, rest.head? = some x → Event.collectiveDelivery root rid x ∈ t.agenda)) ∧
    ∀ f dst rbar data, s.deliveryTo root rid d = some f → f.kind = .deliver rid d dst rbar data →
      slicePa d rbar + 16 ≤ slicePa d dst ∨ slicePa d dst + data.length ≤ slicePa d rbar → f.issuer.key = none →
      (f.performed = false → exec (.collectiveDelivery root rid d) s = .next s) ∧
      (f.performed = true → ∃ t, exec (.collectiveDelivery root rid d) s = .next t ∧ t.flight? f.id = none ∧ Received s t d dst rbar data)

/-- R374 to R376: a round from its first announcement to its last delivery. -/
def RoundEvents : Prop := AnnounceEvents ∧ PullEvents ∧ ResultEvents

end Sys2Proof.Claims

/-- R215 to R218, R223, R225, R250, R338, R369: how engines take, perform and end their operations. The model's choices and readings here:
assumptions 20, 24, 26, 32, 74. -/
def Obligations.EngineEvents : Prop :=
  Sys2Proof.Claims.CopyEvents ∧ Sys2Proof.Claims.LayoutEvents ∧ Sys2Proof.Claims.TakeCommandEvent ∧ Sys2Proof.Claims.OperationEndEvent ∧
  Sys2Proof.Claims.FiringEvents ∧ Sys2Proof.Claims.ConsolidatorEvents

/-- R242, R248, R249, R263, R372, R374 to R377: the steps of the matrix and expansion units and of the collective engine. The model's choices
and readings here: assumptions 25, 27, 40. -/
def Obligations.UnitAndCollectiveEvents : Prop :=
  Sys2Proof.Claims.UnitEvents ∧ Sys2Proof.Claims.RemoteEvents ∧ Sys2Proof.Claims.SourceEvents ∧ Sys2Proof.Claims.RoundEvents

namespace Sys2Proof.Claims

/-! ## The fabric (R401 to R412, R429) -/

/-- R401, R404: a sounding gives a router its neighbours' occupancies; the turn of a tile makes its oldest packet in flight the lodestar; a notice frees
its entry. -/
def RoundTheFabric : Prop :=
  ∀ (s : State),
    (∃ t, exec .sounding s = .next t ∧ t = { s with tiles := t.tiles } ∧ ∀ p ∈ s.packets, ∀ q : Fin 6, ∀ k : Fin 6,
      let n := neighbour p.at_ q.val
      (t.tile n).router.soundings[k] = s.soundingOf (neighbour n k.val) (opposite k.val)) ∧
    (∃ t, exec .lodestarTurn s = .next t ∧ t = { s with lodestar := t.lodestar } ∧
      let mine (p : Packet) : Prop := p.stile = s.chron / 1024 % 4096 ∧ p.stag ≠ none
      ((∀ p ∈ s.packets, ¬ mine p) → t.lodestar = 0) ∧
      ((∃ p ∈ s.packets, mine p) → ∃ p ∈ s.packets, mine p ∧ t.lodestar = p.id ∧ ∀ q ∈ s.packets, mine q → p.born ≤ q.born)) ∧
    ∀ n tag, exec (.deliveryNotice n tag) s = .next (s.setTile n { s.tile n with
      router := { (s.tile n).router with notices := (s.tile n).router.notices.erase tag } })

/-- A packet's first entry in the fabric has become another; the rest of the machine holds its values. -/
def BecomesPacket (s t : State) (id : Nat) (q : Packet) : Prop :=
  t.packets.find? (fun x => x.id == id) = some q ∧ t.mem = s.mem ∧ t.flights = s.flights ∧ t.launches = s.launches

/-- R396, R398, R402, R404, R407, R410: a packet whose time has not come waits for it; one whose header names what does not exist is lost; one without an
entry of its source's table takes a free one; one that wins its output moves to the neighbour, or leaves the router of its destination, for the
ejection queue or through the root port; one that is not its buffer's head, has no output or loses it waits; one that has arrived leaves the fabric. -/
def HopEvent : Prop :=
  ∀ (id : Nat) (s : State) (p : Packet), s.packets.find? (fun q => q.id == id) = some p →
    let waits := exec (.packetHop id) s = .next (s.atCycle (s.now + 1) (.packetHop id))
    let corrupt := 10 < p.cls ∨ 2 < p.dkind ∨ 4096 ≤ p.dtile
    let own := p.inPort = 7 ∧ p.at_ = p.dtile ∧ p.dkind = 0
    let moves (q : Packet) : Prop := ∃ t, exec (.packetHop id) s = .next t ∧ BecomesPacket s t id q
    (s.now < p.since → exec (.packetHop id) s = .next (s.atCycle p.since (.packetHop id))) ∧
    (p.since ≤ s.now → corrupt → ∃ t, exec (.packetHop id) s = .next t ∧ t.packets = s.packets.filter (fun q => q.id != id) ∧
      Event.bringDown p.part ∈ t.agenda) ∧
    (p.since ≤ s.now → ¬ corrupt →
      (own ∨ p.inPort = 10 → exec (.packetHop id) s = .next (s.eject p)) ∧
      (p.stag = none → ¬ own → p.inPort < 10 →
        (∀ g, s.freeTag p.stile = some g → moves { p with stag := some g }) ∧
        (s.freeTag p.stile = none → waits)) ∧
      (p.stag ≠ none → ¬ own → p.inPort < 7 ∨ (p.inPort = 7 ∧ s.heldForPort p = false ∧ (p.dkind = 2 → p.rein ≠ none)) →
        (s.isHead p = false ∨ s.choice p = none → waits) ∧
        ∀ c, s.isHead p = true → s.choice p = some c →
          (s.beaten p c.port = true → waits) ∧
          (s.beaten p c.port = false →
            (c.port < 6 → ∃ t q, exec (.packetHop id) s = .next t ∧ BecomesPacket s t id q ∧ q.at_ = neighbour p.at_ c.port ∧
              q.inPort = opposite c.port ∧ q.since = s.now + hopLatency p.at_ c.port ∧ q.hops = min 15 (p.hops + 1) ∧ q.cargo = p.cargo) ∧
            (10 ≤ c.port → p.dkind = 0 → moves { p with inPort := 10, since := s.now + p.tailClocks }) ∧
            (10 ≤ c.port → p.dkind = 1 → p.charged = 0 → moves { p with inPort := 10, since := s.now + rootLatency + p.tailClocks }))))

/-- R408 to R412: a flit that is right again is counted; words that fail again are poisoned and reported; a header that fails again loses the packet and
brings its partition down, or the owners of the dies at both ends of the link where PART is lost. -/
def ReplayEvents : Prop :=
  ∀ (id flit : Nat) (s : State) (p : Packet), s.packets.find? (fun q => q.id == id) = some p →
    let u := s.setTile p.at_ { s.tile p.at_ with router := { (s.tile p.at_).router with linkErrors := (s.tile p.at_).router.linkErrors + 1 } }
    (∀ lost, exec (.linkReplay id flit [] lost) s = .next u) ∧
    (∀ w ∈ [0, 1, 2, 3, 8], ∀ lost, ∃ t, exec (.linkReplay id 0 [w] lost) s = .next t ∧ t.packets = s.packets.filter (fun q => q.id != p.id) ∧
      (lost = false → Event.bringDown p.part ∈ t.agenda) ∧
      (lost = true → ∀ x ∈ s.parts, x.2.dies.getLsbD (dieOf p.at_) = true ∨ (p.inPort < 6 ∧ x.2.dies.getLsbD (dieOf (neighbour p.at_ p.inPort)) = true) →
        Event.bringDown x.1 ∈ t.agenda)) ∧
    ∀ w, w < 8 → 4 ≤ 8 * flit + w → ∀ lost, ∃ t, exec (.linkReplay id flit [w] lost) s = .next t ∧
      t.packets.find? (fun q => q.id == id) = some { p with poison := p.poison ++ [8 * flit + w - 4] } ∧
      Report.poison p.ctxnum p.at_ 10 flit ∈ t.reports

/-- R411, R417, R418: the fourth replay within a millisecond that does not help makes its link fail. A failed link is used from neither end and reported
with its design edge and lane, and the packets that an end still held for it stand again in that end's router. -/
def FailureEvents : Prop :=
  (∀ (id flit : Nat) (struck : List Nat) (lost : Bool) (s : State) (p : Packet), s.packets.find? (fun q => q.id == id) = some p → p.inPort < 6 →
    struck ≠ [] → ((s.tile p.at_).router.replays.filter fun x => decide (s.chron < x.2 + 1000000) && x.1 == p.inPort).length = 3 →
    ∃ t, exec (.linkReplay id flit struck lost) s = .next t ∧ Event.linkFailure p.at_ p.inPort ∈ t.agenda) ∧
  ∀ (n port : Nat) (s : State),
    ∃ t, exec (.linkFailure n port) s = .next t ∧ port ∈ (t.tile n).router.failedPorts ∧
      opposite port ∈ (t.tile (neighbour n port)).router.failedPorts ∧
      Report.link n port (designOf n port).1 (designOf n port).2 ∈ t.reports ∧ t.mem = s.mem ∧ t.packets.map (fun p => p.id) = s.packets.map (fun p => p.id) ∧
      ((∀ p ∈ s.packets, s.now < p.since → p.inPort ≠ port ∧ p.inPort ≠ opposite port) → t.packets = s.packets) ∧
      ∀ p, port < 6 → s.packets = [p] → p.at_ = neighbour n port → p.at_ ≠ n → p.inPort = opposite port → s.now < p.since →
        ∃ q, t.packets = [q] ∧ q.at_ = n ∧ q.since = s.now ∧ q.cargo = p.cargo ∧ (s.now, Event.packetHop p.id) ∈ t.timed

/-- R429: a failed rein is reported once, and every packet that was to take it is to take the next of its pair that works; where none is left the hitch
partitions split. -/
def ReinEvents : Prop :=
  ∀ (rein : Nat) (s : State),
    (reinCount ≤ rein ∨ rein ∈ s.stew.reinsDown → exec (.reinFailure rein) s = .next s) ∧
    (rein < reinCount → rein ∉ s.stew.reinsDown → ∃ t, exec (.reinFailure rein) s = .next t ∧ t.stew.reinsDown = s.stew.reinsDown ++ [rein] ∧
      Report.note 429 (BitVec.ofNat 64 rein) ∈ t.reports ∧ t.tiles = s.tiles ∧ t.mem = s.mem ∧
      ∀ h, s.hitchPos = some h → rein < 24 →
        (∀ p r, s.packets = [p] → p.rein = some rein → p.dkind = 2 → p.device = hitchPeer h (rein / 8) →
          ({ s with stew := t.stew } : State).reinFor p.device rein = some r → ∃ q, t.packets = [q] ∧ q.rein = some r ∧ q.cargo = p.cargo) ∧
        ((∀ k, k < 8 → 8 * (rein / 8) + k ∈ t.stew.reinsDown) → ∀ x ∈ s.parts, x.2.valid = true → x.2.hpos ≠ none →
          ∃ near far, Event.partitionSplit x.1 [near, far] [true, true] ∈ t.agenda ∧ ∀ d, d < 64 → x.2.dies.getLsbD d = true →
            64 * hitchPeer h (rein / 8) + d ∈ far))

/-- R408 to R412, R429: what links and reins do when they fail. -/
def LinkEvents : Prop := ReplayEvents ∧ FailureEvents ∧ ReinEvents

/-! ## The main file and errors (R280 to R289) -/

/-- R280 to R284: entries that nothing touches grow drowsy and are then gated, a dirty one once its write has reached the image, for which it needs a
place of the write-back buffer; a fill gives a gated row an entry; a refresh changes nothing; and none of these changes a row's value. -/
def RowEvents : Prop :=
  ∀ (n i b row bank : Nat) (s : State),
    exec (.refreshBurst n bank) s = .next s ∧
    (∀ e, (s.tile n).mainFile[i]? = some e →
      (exec (.rowDrowsy n i) s = .next (if e.state = .awake ∧ e.lastTouch + 65536 ≤ s.now
        then s.setTile n { s.tile n with mainFile := (s.tile n).mainFile.set i { e with state := .drowsy } } else s)) ∧
      ∃ t, exec (.rowGated n i) s = .next t ∧ (∀ k, t.ctx? n k = s.ctx? n k) ∧ t.mem = s.mem ∧
        if e.state = .drowsy ∧ e.lastTouch + 65536 + 2 ^ 20 ≤ s.now ∧ (e.dirty = true → (s.tile n).writingBack < 4)
        then (t.tile n).mainFile = (s.tile n).mainFile.eraseIdx i ∧ ∃ w : WriteBack, (t.tile n).writeBack = (s.tile n).writeBack ++ [w] ∧
          w.ctxnum = e.ctxnum ∧ w.image = e.image ∧ w.row = e.row ∧ w.dirty = e.dirty ∧ (w.due, Event.writeBackDrain n) ∈ t.timed ∧
          (e.dirty = false → w.due = s.now) ∧
          ∀ l im, s.launch? e.ctxnum = some l → lookup e.image l.images = some im → winOf im.locator = 0xe → e.dirty = true → w.due = s.now + 40
        else t = s) ∧
    (∃ t, exec (.writeBackDrain n) s = .next t ∧ (t.tile n).writeBack = (s.tile n).writeBack.filter (fun w => !decide (w.due ≤ s.now)) ∧
      (∀ k, (t.ctx? n k).map Ctx.rows = (s.ctx? n k).map Ctx.rows) ∧
      ∀ w, (s.tile n).writeBack = [w] → w.due ≤ s.now → w.dirty = true → w.row < 896 →
        ∀ l im pa c, s.launch? w.ctxnum = some l → lookup w.image l.images = some im → isCore im.agent = false →
          s.imagePa l.part im.locator (256 * w.row) = some pa → s.ctx? im.agent im.berth = some c → c.ctxnum = w.ctxnum → c.image = w.image →
          ∀ j, j < 256 → Mem.read t.mem (pa + j) = rowByte c.rows w.row j) ∧
    ∀ c, s.ctx? n b = some c → isCore n = false → row < c.cr.mwl.toNat →
      (∃ t, exec (.rowFill n b row) s = .next t ∧ t.ctx? n b = some c ∧ t.mem = s.mem ∧
        ((s.tile n).mainFile.any (fun e => e.is (c.ctxnum, c.image, row)) = true ∨ 4 ≤ (s.tile n).writingBack → t = s) ∧
        ((s.tile n).writingBack < 4 → (t.tile n).mainFile.any (fun e => e.is (c.ctxnum, c.image, row)) = true)) ∧
      (∀ l im data, s.launch? c.ctxnum = some l → lookup c.image l.images = some im → im.agent = n → im.berth = b →
        ∃ t c', exec (.debuggerRowWrite n b row data) s = .next t ∧ t.ctx? n b = some c' ∧ rowsGet c'.rows row = data ∧
          (∀ r, r ≠ row → rowsGet c'.rows r = rowsGet c.rows r) ∧ ∀ w, (row, w) ∉ c'.rowPoison)

/-- R286 to R289: a scrubbed word with one wrong bit is corrected and counted and changes no value; a lost one is poisoned and reported with its array,
to the launch that owns its line, or to the steward where the line's tag word is lost. In bank-rebuild mode a first loss of a stripe is rebuilt; one
in a stripe that already relies on reconstruction is lost, with the word that was rebuilt from it; a first failed bank is rebuilt and reported, and a
second one loses the lines of both. -/
def ErrorEvents : Prop :=
  ∀ (a n off line bank : Nat) (s : State),
    (siteOf a ≠ .none → exec (.scrubRead a 0) s = .next s ∧ exec (.scrubRead a 1) s = .next (s.soon (.correctedWriteBack a)) ∧
      exec (.scrubRead a (2 + n)) s = .next (s.soon (.uncorrectableError a)) ∧
      exec (.correctedWriteBack a) s = .next (s.setTile (siteOf a).agent
        { s.tile (siteOf a).agent with correctable := (s.tile (siteOf a).agent).correctable + 1 })) ∧
    (a < hbmSize → ∃ t, exec (.uncorrectableError a) s = .next t ∧ a / 8 ∈ t.memPoison ∧ t.mem = s.mem ∧
      Report.poison 0 (servingCore a) 4 a ∈ t.reports) ∧
    (n < 4096 → line < 2048 → ∃ t, exec (.uncorrectableError (2 ^ 45 + 2 ^ 13 * n + 4 * line)) s = .next t ∧ t.mem = s.mem ∧
      (t.tile n).ownerOf line = 0 ∧ Report.poison 0 n 5 line ∈ t.reports) ∧
    (n < 4096 → off < 2 ^ 17 → ∃ t, exec (.uncorrectableError (slicePa n off)) s = .next t ∧ t.mem = s.mem ∧
      ((s.tile n).rebuild = false → slicePa n off / 8 ∈ t.memPoison ∧ Report.poison ((s.tile n).ownerOf (off / 64)) n 0 off ∈ t.reports) ∧
      ((s.tile n).rebuild = true → off < 0x1c000 →
        ((s.tile n).failedBank = none → (s.tile n).lostWords = [] → t.memPoison = s.memPoison ∧ t.reports = s.reports) ∧
        ∀ k, (s.tile n).failedBank = some k → rebuildBank (off / 64) ≠ k → off / 8 ∉ (s.tile n).lostWords → slicePa n off / 8 ∈ t.memPoison ∧
          ∀ m, m < 1792 → m / 7 = off / 64 / 7 → rebuildBank m = k → slicePa n (64 * m + off % 64) / 8 ∈ t.memPoison)) ∧
    (n < 4096 → bank < 8 → (s.tile n).rebuild = true →
      ((s.tile n).failedBank = none → (∃ t, exec (.bankFailure n bank) s = .next t ∧ (t.tile n).failedBank = some bank ∧ t.mem = s.mem ∧
          Report.bank n bank ∈ t.reports) ∧
        ((s.tile n).lostWords = [] →
          exec (.bankFailure n bank) s = .next ((s.setTile n { s.tile n with failedBank := some bank }).report (.bank n bank)))) ∧
      ∀ k, (s.tile n).failedBank = some k → (k = bank → exec (.bankFailure n bank) s = .next s) ∧
        (k ≠ bank → ∃ t, exec (.bankFailure n bank) s = .next t ∧ Report.bank n bank ∈ t.reports ∧
          ∀ m w, m < 1792 → rebuildBank m = k ∨ rebuildBank m = bank → w < 8 → slicePa n (64 * m + 8 * w) / 8 ∈ t.memPoison)) ∧
    ((s.tile n).rebuild = false → exec (.bankFailure n bank) s = .next s)

/-! ## Objects and launches (R121 to R124, R213, R348 to R350, R427, R457) -/

/-- R121: a broken object is refused with BADOBJ, an unsigned one with BADSIG, one that overlaps with OVERLAP, and one whose external sections,
dictionary copy or code find no memory with NOSPACE; another is loaded, with its code. An object with a launch placed or queued is not unloaded;
another's mappings are withdrawn and its frames given back. -/
def ObjectEvents : Prop :=
  ∀ (p : Nat) (obj : List Byte) (s : State) (x : Partition), s.part? p = some x →
    let y := loadedOf x.nextObject obj
    let clash := ∃ z ∈ x.objects, ∃ a ∈ z.ext, ∃ b ∈ y.ext, meets a.1 a.2 b.1 b.2 = true
    let fails (st : Nat) : Prop := exec (.loadObject p obj) s = .next (s.report (.load p x.nextObject st))
    let dict := dictPlace (x.objects.flatMap LoadedObject.ext ++ y.ext)
    let mapped := (y.ext.foldl (fun u r => u.bind fun u => u.mapRun p r.1 r.2) (some s)).bind fun u =>
      if y.dict = [] then some u else u.mapRun p dict 4096 false
    let granted := mapped.bind fun u => u.storeFrames ((y.regions.map Prod.snd).sum)
    (objectOk obj = false → fails LoadStatus.badobj) ∧
    (objectOk obj = true → signatureOk x obj = false → fails LoadStatus.badsig) ∧
    (objectOk obj = true → signatureOk x obj = true → clash → fails LoadStatus.overlap) ∧
    (objectOk obj = true → signatureOk x obj = true → ¬ clash →
      (granted = none → fails LoadStatus.nospace) ∧
      ∀ u fs, granted = some (u, fs) → ∃ t x' z, exec (.loadObject p obj) s = .next t ∧ t.part? p = some x' ∧
        x'.objects = x.objects ++ [z] ∧ z = { y with code := z.code, ext := y.ext ++ [(dict, 4096)], store := fs, dictAt := dict } ∧
        x'.nextObject = x.nextObject + 1 ∧ (y.memcore = false → x'.services = x.services) ∧ t.stew.frames = u.stew.frames ∧
        (y.ext = [] → y.dict = [] → t.mem = u.mem) ∧ Report.load p x.nextObject LoadStatus.ok ∈ t.reports ∧
        ∀ c, (sectionsOf obj).filter (fun k => k.kind == 1) = [c] → ∀ i, 2 * i + 1 < c.size →
          lookup (c.addr / 2 + i) z.code = some (BitVec.ofNat 16 (num (c.bytes obj) (2 * i) 2))) ∧
    (∀ i z, x.objects.find? (fun o => o.id == i) = some z →
      let queued := ∃ q ∈ x.queue, (q.status = none ∨ q.status = some .held) ∧
        ∃ r ∈ z.launches, meets r.1 r.2 (q.record.extractLsb' 0 48).toNat 320 = true
      let placed := ∃ l ∈ s.launches, l.2.part = p ∧ l.2.object = i
      (queued ∨ placed → exec (.unloadObject p i) s = .next (s.report (.load p i LoadStatus.busy))) ∧
      (¬ queued → ¬ placed → ∃ t x', exec (.unloadObject p i) s = .next t ∧
        t.part? p = some x' ∧ x'.objects = x.objects.filter (fun o => o.id != i) ∧ (z.ext = [] → t.mem = s.mem) ∧
        (∀ r ∈ z.ext, Event.shootdown p (BitVec.ofNat 48 r.1) r.2 ∈ t.agenda) ∧ (∀ f ∈ z.store, f ∉ t.stew.frames) ∧
        Report.load p i LoadStatus.ok ∈ t.reports))

/-- R348, R349, R427, R457: a queue takes at most 64 entries; the first undecided entry is checked, refused with its status, or handed to admission,
which places it, holds it while the pool lacks its energy, or refuses it where no tiles fit. -/
def QueueingEvents : Prop :=
  ∀ (p : Nat) (record : Word) (s : State) (x : Partition), s.part? p = some x →
    (64 ≤ x.waiting ∨ x.valid = false → exec (.launchQueueAppend p record) s = .next s) ∧
    (x.waiting < 64 → x.valid = true → exec (.launchQueueAppend p record) s =
      .next ({ s with parts := insertAt p (x.append record none) s.parts }.once (.launchQueueTake p))) ∧
    (x.hpos = none → ∀ peers, exec (.hitchMirrorLaunch p record peers) s = .next s) ∧
    (x.head? = none → exec (.launchQueueTake p) s = .next s ∧ exec (.admission p) s = .next s) ∧
    ∀ q, x.head? = some q →
      (x.down = true ∨ (x.hpos ≠ none ∧ q.mirrored = false) → exec (.launchQueueTake p) s = .next s) ∧
      (x.down = true ∨ q.fetched = none → exec (.admission p) s = .next s) ∧
      (x.down = false → x.hpos = none ∨ q.mirrored = true →
        (q.fetched ≠ none → exec (.launchQueueTake p) s = .next (s.once (.admission p))) ∧
        (q.fetched = none → ∀ st, s.fetchRecord p q.record = .error st →
          exec (.launchQueueTake p) s = .next ((s.setStatus p q.id st).once (.launchQueueTake p))) ∧
        (q.fetched = none → ∀ f, s.fetchRecord p q.record = .ok f → ∃ t x', exec (.launchQueueTake p) s = .next t ∧ t.part? p = some x' ∧
          x'.queue = x.queue.map (fun e => if e.id = q.id then { e with fetched := some f } else e) ∧ Event.admission p ∈ t.agenda))

/-- R123, R349, R457: admission of the entry at the head of a queue. It holds while the pool has less than its estimate, and again for no new report;
else the pool grants the estimate and the launch has its number. It is refused with NOFIT where no origin, no frames or no context number are free,
and what was granted returns; else it is placed at the first origin that fits, and each of its tiles is its own. -/
def AdmissionEvent : Prop :=
  ∀ (p : Nat) (s : State) (x : Partition) (q : QueueEntry) (f : Fetched), s.part? p = some x → x.head? = some q → q.fetched = some f → x.down = false →
    (x.pool < f.energy → q.status = none → exec (.admission p) s = .next (s.setStatus p q.id .held)) ∧
    (x.pool < f.energy → q.status = some .held → exec (.admission p) s = .next s) ∧
    (f.energy ≤ x.pool → s.firstFit x f.ext = none ∨ s.freeNumber = none ∨
        (∃ o, s.firstFit x f.ext = some o ∧ s.takeFrames p x (contextsOf (boxAt o f.ext)).length = none) →
      ∃ t x', exec (.admission p) s = .next t ∧ t.part? p = some x' ∧ x'.pool = x.pool ∧ x'.nextNumber = x.nextNumber + 1 ∧ t.tiles = s.tiles ∧
        t.launches = s.launches ∧ t.mem = s.mem ∧ Report.launch p q.id LaunchStatus.nofit.code ∈ t.reports ∧ Event.launchQueueTake p ∈ t.agenda) ∧
    ∀ o k frames obj, f.energy ≤ x.pool → s.firstFit x f.ext = some o → s.freeNumber = some k →
      s.takeFrames p x (contextsOf (boxAt o f.ext)).length = some frames → x.objects.find? (fun y => y.id == f.object) = some obj →
      ∃ t x' l, exec (.admission p) s = .next t ∧ t.part? p = some x' ∧ x'.pool = x.pool - f.energy ∧ x'.nextNumber = x.nextNumber + 1 ∧
        t.launch? k = some l ∧ l.number = x.nextNumber ∧ l.part = p ∧ l.origin = o ∧ l.ext = f.ext ∧ l.estimate = f.energy ∧ l.object = f.object ∧
        (∀ n ∈ boxAt o f.ext, (t.tile n).owner = k) ∧ (∀ j, j ≠ k → (t.launch? j).map Launch.origin = (s.launch? j).map Launch.origin) ∧
        Report.launch p q.id LaunchStatus.placed.code ∈ t.reports ∧ Event.launchQueueTake p ∈ t.agenda

/-- R427: in a hitch partition a record that any of the four packages refuses is refused on all, with NOFIT before BADREC and NOOBJ. -/
def HitchEvent : Prop :=
  ∀ (p : Nat) (record : Word) (peers : List Nat) (s : State) (x : Partition), s.part? p = some x → x.hpos ≠ none →
    let all := s.ownStatus p x record :: peers
    ∃ t, exec (.hitchMirrorLaunch p record peers) s = .next t ∧ t.tiles = s.tiles ∧ t.launches = s.launches ∧
      (1 ∈ all → ∃ i, Report.launch p i 1 ∈ t.reports) ∧ (1 ∉ all → 2 ∈ all → ∃ i, Report.launch p i 2 ∈ t.reports) ∧
      (1 ∉ all → 2 ∉ all → 3 ∈ all → ∃ i, Report.launch p i 3 ∈ t.reports) ∧
      (1 ∉ all → 2 ∉ all → 3 ∉ all → t.reports = s.reports ∧ Event.launchQueueTake p ∈ t.agenda)

/-- R213, R350: a request block hears each status of its entry, and of a final one its barrier counts 8 bytes; a launch with nothing left to do frees its
tiles, and its unused energy returns to the pool. -/
def LaunchEnds : Prop :=
  (∀ (p i n block bar : Nat) (s : State) (x : Partition) (q : QueueEntry) (st : LaunchStatus) (rest : List LaunchStatus), s.part? p = some x →
    x.queue.find? (fun q => q.id == i) = some q → q.tell = st :: rest → q.request = some (n, block, bar) → bar + 16 ≤ block →
    ∃ t, exec (.launchResult p i) s = .next t ∧ sliceWord t n (block + 0x10) = BitVec.ofNat 64 (st.code + q.number.toNat * 2 ^ 16) ∧
      (st = .held → OnlyBytes s.mem t.mem (slicePa n (block + 0x10)) 8) ∧ (st ≠ .held → Counted s t n bar 8)) ∧
  ∀ (k : Nat) (s : State) (l : Launch), s.launch? k = some l →
    let entry := (s.part? l.part).bind fun p => p.queue.find? fun q => q.id == l.entryId
    (l.state ≠ .running ∨ s.working k = true ∨ (∃ q, entry = some q ∧ q.tell ≠ []) → exec (.launchRetire k) s = .next s) ∧
    (l.state = .running → s.working k = false → (∀ q, entry = some q → q.tell = []) →
      ∃ t, exec (.launchRetire k) s = .next t ∧ t.launch? k = none ∧ (∀ n ∈ l.field, (t.tile n).owner = if (s.tile n).owner = k then 0 else (s.tile n).owner) ∧
        ∀ x, s.part? l.part = some x → ∃ x', t.part? l.part = some x' ∧ x'.pool = min (x.pool + (l.estimate - l.used)) (2 ^ 34 - 1))

end Sys2Proof.Claims

/-- R401 to R412, R429: the routers and the links. The model's choices and readings here: assumptions 29, 35, 78. -/
def Obligations.FabricEvents : Prop := Sys2Proof.Claims.RoundTheFabric ∧ Sys2Proof.Claims.HopEvent ∧ Sys2Proof.Claims.LinkEvents

/-- R280 to R289: what the main file does by itself, and errors of the arrays. The model's choices and readings here: assumptions 19, 75. -/
def Obligations.StorageEvents : Prop := Sys2Proof.Claims.RowEvents ∧ Sys2Proof.Claims.ErrorEvents

/-- R121 to R124, R213, R348 to R350, R427, R457: objects are loaded, and launches queued, admitted and retired. The model's choices and
readings here: assumptions 16, 17, 43, 65, 69, 70, 72. -/
def Obligations.LaunchEvents : Prop :=
  Sys2Proof.Claims.ObjectEvents ∧ Sys2Proof.Claims.QueueingEvents ∧ Sys2Proof.Claims.AdmissionEvent ∧ Sys2Proof.Claims.HitchEvent ∧
    Sys2Proof.Claims.LaunchEnds

namespace Sys2Proof.Claims

/-! ## Containment (R441 to R450) -/

/-- R441: a save begins by letting no record of the launch start; with nothing left of it outside its tiles, the field goes to the save area and the tiles
are free; else the save looks again in the next cycle. -/
def SaveEvent : Prop :=
  ∀ (k : Nat) (s : State) (l : Launch), s.launch? k = some l →
    (l.state = .saved → exec (.fieldSave k) s = .next s) ∧
    (l.state ≠ .saved → (s.beginSave k).unsaved k = true → exec (.fieldSave k) s = .next ((s.beginSave k).atCycle (s.now + 1) (.fieldSave k))) ∧
    (l.state ≠ .saved → s.berthsOf k = [] → (s.beginSave k).unsaved k = false → ∃ t l', exec (.fieldSave k) s = .next t ∧ t.launch? k = some l' ∧
      l'.state = .saved ∧ l'.savedTiles.length = l.tileCount ∧ Report.saved k ∈ t.reports ∧
      l'.saveAt = ((s.part? l.part).bind fun x => s.savePlace x l.part l.tileCount) ∧
      ∀ n ∈ l.field, (t.tile n).owner = if (s.tile n).owner = k then 0 else (s.tile n).owner)

/-- R443: a restore finds its origin by first fit, and is refused with NOFIT where none or too few frames are free; a restored launch runs again under
its number. -/
def RestoreEvent : Prop :=
  ∀ (p k : Nat) (s : State) (x : Partition) (l : Launch), s.part? p = some x → s.savedLaunch p k = some l →
    (s.firstFit x l.ext = none → exec (.fieldRestore p k) s = .next (s.report (.restore k 1))) ∧
    ∀ o, s.firstFit x l.ext = some o →
      (s.takeFrames p x (contextsOf (boxAt o l.ext)).length = none → exec (.fieldRestore p k) s = .next (s.report (.restore k 1))) ∧
      ∀ frames, s.takeFrames p x (contextsOf (boxAt o l.ext)).length = some frames → ∃ t l', exec (.fieldRestore p k) s = .next t ∧
        t.launch? k = some l' ∧ l'.state = .running ∧ l'.origin = o ∧ l'.ext = l.ext ∧ l'.saved.length = l.saved.length ∧ Report.restore k 0 ∈ t.reports

/-- R445 to R447: a partition that is brought down starts no record of its launches; a failed die leaves its partition; of a partition that splits, with no
group that reaches a command processor all is brought down, and the dies of every other group than the one that continues are lost. -/
def DownEvents : Prop :=
  ∀ (p die : Nat) (s : State),
    (∀ x, s.part? p = some x → ∃ t x', exec (.bringDown p) s = .next t ∧ t.part? p = some x' ∧ x'.down = true ∧ t.mem = s.mem ∧
      ∀ k l, s.launch? k = some l → l.part = p → l.state ≠ .saved → ∃ l', t.launch? k = some l' ∧ l'.state = .down) ∧
    (64 ≤ die ∨ die ∈ s.stew.deadDies → exec (.dieFailed die) s = .next s) ∧
    (die < 64 → die ∉ s.stew.deadDies → ∃ t, exec (.dieFailed die) s = .next t ∧ t.stew.deadDies = s.stew.deadDies ++ [die] ∧
      ∀ x, s.part? p = some x → ∃ x', t.part? p = some x' ∧ x'.dies.getLsbD die = false ∧ ∀ d, d ≠ die → x'.dies.getLsbD d = x.dies.getLsbD d) ∧
    (∀ groups : List (List Nat), exec (.partitionSplit p groups (groups.map fun _ => false)) s = exec (.bringDown p) s) ∧
    ∀ g h : List Nat, g ≠ h → ∃ t, exec (.partitionSplit p [g, h] [true, false]) s = .next t ∧ Report.split p h ∈ t.reports ∧
      ∀ x, s.part? p = some x → ∃ x', t.part? p = some x' ∧
        let here := if x.hpos = none then 0 else s.hitchPos.getD 0
        ∀ d, d < 64 → x'.dies.getLsbD d = (x.dies.getLsbD d && !(h.contains (64 * here + d)))

/-- R446, R448, R450: the frozen fields of a partition are discarded; a crash of the kernel freezes what runs; a second within 60 s, or a reboot whose checks
fail, leads to the fatal dump, which keeps the tiles and the memory and boots cold. -/
def StewardEvents : Prop :=
  ∀ (p : Nat) (ok : Bool) (s : State),
    (∃ t, exec (.frozenFieldDiscard p) s = .next t ∧ ∀ k l, s.launch? k = some l → l.part = p → l.state = .down → t.launch? k = none) ∧
    (s.stew.kernelUp = true → ∃ t, exec (.stewardWatchdog ok) s = .next t ∧ t.stew.kernelUp = false ∧ t.stew.crashAt = some s.chron ∧
      ((∃ c, s.stew.crashAt = some c ∧ s.chron < c + 60000000000) → Event.fatalDump ∈ t.agenda) ∧
      ∀ k l, s.launch? k = some l → l.state = .running → ∃ l', t.launch? k = some l' ∧ l'.state = .down) ∧
    (s.stew.kernelUp = false → s.stew.bootStatus = 7 →
      exec (.stewardWatchdog false) s = .next (s.soon .fatalDump) ∧
      (s.registryOk = false → exec (.stewardWatchdog true) s = .next (s.soon .fatalDump)) ∧
      (s.registryOk = true → ∃ t, exec (.stewardWatchdog true) s = .next t ∧ t.stew.kernelUp = true ∧
        ∀ k l, s.launch? k = some l → s.onlyFrozen l = true → ∃ l', t.launch? k = some l' ∧ l'.state = .running)) ∧
    ∃ t, exec .fatalDump s = .next t ∧ t.stew.dumpKept = true ∧ t.agenda = [.powerOn s.fuses 0] ∧ t.launches = [] ∧ t.mem = [] ∧
      (s.stew.dumpKept = false → t.stew.dumpTiles = s.tiles ∧ t.stew.dumpMem = s.mem) ∧
      (s.stew.dumpKept = true → t.stew.dumpTiles = s.stew.dumpTiles ∧ t.stew.dumpMem = s.stew.dumpMem)

/-! ## Power, partitions and energy (R449, R452 to R462) -/

/-- R452: power-on ends with boot status 7, or halts with the number of the stage that failed and bit 15 set; nothing runs, and memory lists nothing. -/
def PowerEvent : Prop :=
  ∀ (fuses : List (List Nat)) (s : State),
    (∃ t, exec (.powerOn fuses 0) s = .next t ∧ t.stew.bootStatus = 7 ∧ t.halted = false ∧ t.fuses = fuses ∧ t.mem = [] ∧ t.launches = [] ∧
      t.stew.kernelUp = true ∧ ∀ d, d < 64 → lookup d t.reck.accounts = some 125000) ∧
    ∀ st, st ∈ [1, 4, 5, 6] → ∃ t, exec (.powerOn fuses st) s = .next t ∧ t.halted = true ∧ t.stew.bootStatus = 2 ^ 15 + st ∧ t.launches = []

/-- R399, R449, R454: a set-up that meets a field of the partition, a die of another one, a number outside the registry or a reserved class code changes
nothing; another makes the partition what its registry entry says. -/
def SetupEvent : Prop :=
  ∀ (e : BitVec 2048) (s : State),
    let p := (e.extractLsb' 0 8).toNat
    let dies := e.extractLsb' 64 64
    let balance := (e.extractLsb' 400 16).toNat
    let refused := s.setupRefused p (e.extractLsb' 8 8).toNat (e.extractLsb' 16 8).toNat (dies ||| e.extractLsb' 128 64) (e.extractLsb' 448 32) balance
    (refused = true → exec (.partitionSetup e) s = .next s) ∧
    (refused = false → ∃ t x, exec (.partitionSetup e) s = .next t ∧
      t.part? p = some x ∧ x.valid = true ∧ x.down = false ∧ x.cpn = (e.extractLsb' 8 8).toNat ∧ x.dies = dies ∧ x.imgdies = e.extractLsb' 128 64 ∧
      x.ptroot = e.extractLsb' 192 64 ∧ x.lqueue = e.extractLsb' 256 64 ∧ x.save = e.extractLsb' 320 64 ∧ x.policy = e.extractLsb' 384 64 ∧ x.classes = e.extractLsb' 448 32 ∧
      x.balance = (if balance = 0 then 512 else balance) ∧ lookup p t.stew.registry = some (withDigest e) ∧
      t.stew.generation = s.stew.generation + 1 ∧ t.mem = s.mem ∧ ∀ k, k ≠ p → t.part? k = s.part? k)

/-- R455 to R460: a refill gives each live die its rate, less what it used, up to the cap, and moves its tiles' CEIL by at most 8; a sensor above 105 degrees
halves its die's rate until all are below 95, and one at 115 is reported and fails the die. -/
def EnergyEvents : Prop :=
  (∀ (used : List (Nat × Nat)) (s : State), ∃ t, exec (.reckonerRefill used) s = .next t ∧ t.mem = s.mem ∧ t.reck.activity = [] ∧
    ∀ d n, d < 64 → d ∉ s.stew.deadDies → lookup d used = some n →
      let full : Int := ((s.reck.pkgw : Int) - s.reck.fixw) / 64
      let rate : Int := if d ∈ s.reck.hot then full / 2 else full
      lookup d t.reck.accounts = some (min (((lookup d s.reck.accounts).getD s.reck.dcap) + rate - n) (s.reck.dcap : Int)) ∧
      (lookup d t.reck.ceil).getD 64 ≤ (lookup d s.reck.ceil).getD 64 + 8 ∧ (lookup d s.reck.ceil).getD 64 ≤ (lookup d t.reck.ceil).getD 64 + 8) ∧
  ∀ (die sensor x : Nat) (s : State),
    (64 ≤ die ∨ 16 ≤ sensor → exec (.thermalThreshold die sensor x) s = .next s) ∧
    (die < 64 → sensor < 16 → ∃ t, exec (.thermalThreshold die sensor x) s = .next t ∧
      t.reck.readings = insertAt (16 * die + sensor) x s.reck.readings ∧ (105 < x → die ∈ t.reck.hot) ∧
      (x < 95 → (∀ i, i < 16 → i ≠ sensor → (lookup (16 * die + i) s.reck.readings).getD 0 < 95) → die ∉ t.reck.hot) ∧
      (115 ≤ x → Report.thermal die x ∈ t.reports ∧ Event.dieFailed die ∈ t.agenda) ∧ (∀ d, d ≠ die → (d ∈ t.reck.hot ↔ d ∈ s.reck.hot)))

/-- R462: a holdup of a package with no field placed saves the precious regions that its energy can stream, each whole, and waits for its cold boot. -/
def HoldupEvent : Prop :=
  ∀ (s : State), (∀ e ∈ s.launches, e.2.state = .saved) → ∃ t, exec .holdup s = .next t ∧ t.agenda = [.powerOn s.fuses 0] ∧
    t.stew.savedLaunches = s.launches ∧ (∀ r ∈ t.stew.header, ∃ e ∈ s.parts, e.1 = r.1 ∧ (r.2.1, r.2.2) ∈ e.2.precious) ∧
    (t.stew.header.map fun r => r.2.2).sum ≤ streamable s.reck.holdup ∧ ∀ c ∈ t.stew.checkpoint, c ∈ s.mem

end Sys2Proof.Claims

/-- R441, R443, R445 to R448, R450: fields are saved and restored, partitions brought down, and the steward recovers. The model's choices and
readings here: assumptions 18, 37. -/
def Obligations.ContainmentEvents : Prop :=
  Sys2Proof.Claims.SaveEvent ∧ Sys2Proof.Claims.RestoreEvent ∧ Sys2Proof.Claims.DownEvents ∧ Sys2Proof.Claims.StewardEvents

/-- R449, R452, R454 to R458, R460 to R462: power-on, partitions, energy, heat and holdup. The model's choices and readings here: assumptions
38, 39, 55, 66. -/
def Obligations.PowerEvents : Prop :=
  Sys2Proof.Claims.PowerEvent ∧ Sys2Proof.Claims.SetupEvent ∧ Sys2Proof.Claims.EnergyEvents ∧ Sys2Proof.Claims.HoldupEvent

namespace Sys2Proof.Claims

/-! ## The whole machine (R11, R60 to R62, R64, R73, R80, R452) -/

/-- Words written out from the formats of R62, the opcodes of R81 and the natural values of R84 to R89, and what they stand for. -/
def sampleWords : List (BitVec 32 × Instr) :=
  [(0b00000000_0010001_0010010_0010011_010#32, .add 17 18 19 2), (0b00101001_0010011_0000000_0000101_000#32, .ldi 19 5 0),
   (0b00110110_0010001_1111111_1111100_001#32, .bz 17 (BitVec.ofInt 14 (-4)) 1), (0b01000111_1000000_1000001_1000010_011#32, .vmin 64 65 66 3),
   (0b10000110_0010100_0010101_1111111_011#32, .ldd 20 21 (BitVec.ofInt 7 (-1)) 3), (0b10100011_0010001_0000000_0000000_000#32, .fence 2 1 0),
   (0b11001000_0001000_0010100_0000000_001#32, .sclaim 20 1), (0b11110000_0010001_0001000_0000000_001#32, .crd 17 0x400 1)]

end Sys2Proof.Claims

/-- R64, R80, R12, R14, R73, R71: of a scalar instruction's operands the first that is not admitted traps with ILLOPND, then the first row
that is not valid with REGWIN, then an expired entry of the queue that is covered with EXPIRED, then with SCBCHK a register that is not covered with STALLSHORT; one
whose value is interlocked and missing waits. The fields are taken in the order D, A, B. The model's choices and readings here: assumption
9. -/
def Obligations.OperandTraps : Prop :=
  ∀ (i : Instr) (d a b : BitVec 7) (sc : BitVec 3) (l : Nat) (f : Word → Word → Word), scalarPair i = some (d, a, b, sc, l, f) →
  ∀ (s : State) (c : Ctx), Issues s c → (s.view c).specOpen = false →
    let v := s.view c
    let badSrc (x : BitVec 7) : Prop := 50 ≤ x.toNat ∧ x.toNat < 56
    let badDst : Prop := (1 ≤ d.toNat ∧ d.toNat < 16) ∨ (49 ≤ d.toNat ∧ d.toNat < 56)
    let badRow (x : BitVec 7) (n : Nat) : Prop := v.rowOf (Opnd.of x) = some n ∧ v.rowValid n = false
    let rowsOk (x : BitVec 7) : Prop := ∀ n, ¬ badRow x n
    let old (x : BitVec 7) : Prop :=
      let i := c.q.slotOf (x.toNat + 1)
      x.toNat < 16 ∧ c.shortfall (.slot i) = 0 ∧ (c.q.slots[i]).dead s.now = true
    (badDst → Traps (exec i s) s c Cause.illopnd (BitVec.ofNat 64 (256 + d.toNat))) ∧
    (¬ badDst → badSrc a → Traps (exec i s) s c Cause.illopnd (BitVec.ofNat 64 (512 + a.toNat))) ∧
    (¬ badDst → ¬ badSrc a → badSrc b → Traps (exec i s) s c Cause.illopnd (BitVec.ofNat 64 (768 + b.toNat))) ∧
    (¬ badDst → ¬ badSrc a → ¬ badSrc b →
      (∀ n, badRow d n → Traps (exec i s) s c Cause.regwin (BitVec.ofNat 64 n)) ∧
      (∀ n, rowsOk d → badRow a n → Traps (exec i s) s c Cause.regwin (BitVec.ofNat 64 n)) ∧
      (∀ n, rowsOk d → rowsOk a → badRow b n → Traps (exec i s) s c Cause.regwin (BitVec.ofNat 64 n)) ∧
      (rowsOk d → rowsOk a → rowsOk b →
        (old a → Traps (exec i s) s c Cause.expired (BitVec.ofNat 64 (a.toNat + 1))) ∧
        (¬ old a → old b → Traps (exec i s) s c Cause.expired (BitVec.ofNat 64 (b.toNat + 1))) ∧
        (¬ old a → ¬ old b → 16 ≤ a.toNat → a.toNat < 48 → d.toNat < 56 ∨ 64 ≤ d.toNat →
          let short := c.shortfall (.g (Fin.ofNat 32 (a.toNat - 16)))
          (c.cr.scbchk = true → short ≠ 0 →
            Traps (exec i s) s c Cause.stallshort (BitVec.ofNat 64 (2 ^ 16 * short + 512 + a.toNat))) ∧
          (c.cr.scbchk = false → c.awaits s.now (.g (Fin.ofNat 32 (a.toNat - 16))) = true → exec i s = .next (holdIssue s)))))

/-- R60 to R63, R81 to R89: every well-formed instruction that has an encoding is decoded from its own bytes, whatever follows them. -/
def Obligations.EncodingRoundTrip : Prop :=
  ∀ (i : Instr) (rest : List Byte), i.wellFormed = true → encode i ≠ [] → decode (encode i ++ rest) = .ok (i, rest)

/-- R60, R61, R62: words written out bit by bit decode to what they stand for; so does a dictionary parcel; a marker word, a reserved opcode, a
field that is not used and not zero, and a reserved value do not. -/
def Obligations.WordsDecode : Prop :=
  Sys2Proof.wordBytes 0x0324810a = [0x24, 0x03, 0x0a, 0x81].map (fun n => BitVec.ofNat 8 n) ∧
  (∀ x ∈ sampleWords, decode (Sys2Proof.wordBytes x.1) = .ok (x.2, []) ∧ encodeWord x.2 = some x.1) ∧
  (∀ k : BitVec 10, decode (parcelBytes (0b111111#6 ++ k)) = .ok (.dictionaryParcel k, [])) ∧
  decodeWord 0xfb00fb00 = .error .reservedOpcode ∧ decodeWord (0b00111101_0000001_0000000_0000000_000#32) = .error .unusedField ∧
  decodeWord (0b10111000_1010000_0010000_0000000_000#32) = .error .unassignedValue

/-- R61, R143, R231: with no event before it, a step runs the instruction that stands at the PC of the berth that issues, or the first entry
of its replay queue, with the step counted; where an event comes first it runs that, and where no berth issues the next cycle comes. The
model's choices and readings here: assumption 4. -/
def Obligations.StepRunsDecoded : Prop :=
  ∀ (s : State), s.halted = false →
    let s1 : State := { s with steps := s.steps + 1 }
    (∀ e u, s1.nextEvent = some (e, u) → step s = e.run u) ∧
    (s1.nextEvent = none → s1.pick = none → step s = .next s1.tick) ∧
    (∀ n b c, s1.nextEvent = none → s1.pick = some (n, b) → s.ctx? n b = some c → (s.berth n b).preemptReq = none → s1.boundaryTrap n b c = none →
      (∀ r rs i, c.replay = r :: rs → decodeWord r.word = .ok i →
        ∃ cur : Issue, cur.tile = n ∧ cur.berth = b ∧ cur.replay = some r ∧ step s = exec i { s1 with cur := cur }) ∧
      (c.replay = [] → (s.berth n b).latch = none → ∀ bs, s.fetchAt c c.pc.toNat = .ok bs →
        (∀ i rest, decode bs = .ok (i, rest) → ∃ cur : Issue, cur.tile = n ∧ cur.berth = b ∧ cur.len = bs.length ∧ cur.replay = none ∧
          step s = exec i { s1 with cur := cur }) ∧
        (∀ e, decode bs = .error e → ∃ cur : Issue, cur.tile = n ∧ cur.berth = b ∧ cur.replay = none ∧
          step s = exec (.reservedEncoding cur.word) { s1 with cur := cur })))

/-- R452, R455, R456, R458, R309: after reset nothing is loaded, placed or running, power-on comes next, and the reckoner's registers have their
reset values. That every byte of memory reads zero and that no register of a tile holds another value than its default is the model's choice
(assumptions 2 and 3). -/
def Obligations.ResetState : Prop :=
  let s := State.reset
  s.halted = false ∧ s.agenda = [.powerOn [] 0] ∧ s.launches = [] ∧ s.parts = [] ∧ s.reports = [] ∧ s.tiles = [] ∧ s.now = 0 ∧ s.chron = 0 ∧
  s.reck.pkgw = 10000 ∧ s.reck.fixw = 2000 ∧ s.reck.dcap = 125000 ∧ s.reck.rate = 125 ∧ (∀ d, s.ceilOf d = 64) ∧
  (∀ n b, s.ctx? n b = none) ∧ (∀ a, Mem.read s.mem a = 0) ∧ Mem.wf s.mem = true

/-- The memory's canonical form: every step that answers a next state keeps it. The form is the model's own (assumption 2), and no rule of the
manual. -/
def Obligations.MemoryCanonical : Prop :=
  ∀ (s t : State), Mem.wf s.mem = true → step s = .next t → Mem.wf t.mem = true
end

