-- ==== Sys2Proof/Laws/Codec.lean ====
section
/-! SUPPORT. The bit groups of a word and of its packed fields, read back (R60 to R62). -/
namespace Sys2Proof

/-- Two bit strings joined read back at their places. -/
theorem extract_append_high {m n : Nat} (x : BitVec m) (y : BitVec n) : (x ++ y).extractLsb' n m = x := by
  ext i hi
  simp [BitVec.getLsbD_append, hi]
theorem extract_append_low {m n : Nat} (x : BitVec m) (y : BitVec n) : (x ++ y).extractLsb' 0 n = y := by
  ext i hi
  simp [BitVec.getLsbD_append, hi]

/-- The bit groups of a word are read back. -/
@[simp] theorem fieldsOf_word (f : Fields) : fieldsOf f.word = f := by
  obtain ⟨op, d, a, b, sc⟩ := f
  simp only [fieldsOf, Fields.word, Fields.mk.injEq]
  refine ⟨?_, ?_, ?_, ?_, ?_⟩ <;> ext i hi <;> simp only [BitVec.getElem_extractLsb', BitVec.getLsbD_append] <;>
    grind

/-! ## Packed fields (R62) -/

@[simp] theorem eng_of_fields (x : BitVec 4) (y : BitVec 3) : (x ++ y).extractLsb' 3 4 = x := extract_append_high x y
@[simp] theorem fn_of_fields (x : BitVec 4) (y : BitVec 3) : (x ++ y).extractLsb' 0 3 = y := extract_append_low x y
@[simp] theorem kd_of_fields (x : BitVec 1) (y z : BitVec 3) : (x ++ y ++ z).extractLsb' 3 3 = y := by
  ext i hi
  simp only [BitVec.getElem_extractLsb', BitVec.getLsbD_append]
  grind
@[simp] theorem kg_of_fields (x : BitVec 1) (y z : BitVec 3) : (x ++ y ++ z).extractLsb' 0 3 = z := extract_append_low (x ++ y) z
@[simp] theorem top_of_fields (x : BitVec 1) (y z : BitVec 3) : (x ++ y ++ z).extractLsb' 6 1 = x := by
  ext i hi
  simp only [BitVec.getElem_extractLsb', BitVec.getLsbD_append]
  grind
@[simp] theorem eng_of_masks (y z : BitVec 3) : (0#1 ++ y ++ z).extractLsb' 3 4 = 0#1 ++ y := extract_append_high (0#1 ++ y) z
@[simp] theorem op_of_tile (x : BitVec 6) (y : BitVec 1) : (x ++ y).extractLsb' 1 6 = x := extract_append_high x y
@[simp] theorem tl_of_tile (x : BitVec 6) (y : BitVec 1) : (x ++ y).extractLsb' 0 1 = y := extract_append_low x y
@[simp] theorem imm14_of_fields (x : BitVec 14) : x.extractLsb' 7 7 ++ x.extractLsb' 0 7 = x := by
  ext i hi
  simp only [BitVec.getElem_append, BitVec.getElem_extractLsb']
  grind
@[simp] theorem imm21_of_fields (x : BitVec 21) : x.extractLsb' 14 7 ++ x.extractLsb' 7 7 ++ x.extractLsb' 0 7 = x := by
  ext i hi
  simp only [BitVec.getElem_append, BitVec.getElem_extractLsb']
  grind
@[simp] theorem number_of_fields (x : BitVec 12) : ((0#2 ++ x.extractLsb' 7 5) ++ x.extractLsb' 0 7).extractLsb' 0 12 = x := by
  ext i hi
  simp only [BitVec.getElem_extractLsb', BitVec.getLsbD_append, BitVec.getLsbD_extractLsb']
  grind
@[simp] theorem top_of_number (x : BitVec 5) : (0#2 ++ x).extractLsb' 5 2 = 0 := extract_append_high 0#2 x

/-! ## Bytes (R60, R61) -/

/-- A word's bytes decode as the word, unless its high parcel is a marker. -/
theorem decode_wordBytes (w : BitVec 32) (rest : List Byte) (h : isDictParcel (w.extractLsb' 16 16) = false) :
    decode (wordBytes w ++ rest) = (decodeWord w).map fun i => (i, rest) := by
  have e (p : BitVec 16) : p.extractLsb' 8 8 ++ p.extractLsb' 0 8 = p := by
    ext i hi
    simp only [BitVec.getElem_append, BitVec.getElem_extractLsb']
    grind
  have e2 : w.extractLsb' 16 16 ++ w.extractLsb' 0 16 = w := by
    ext i hi
    simp only [BitVec.getElem_append, BitVec.getElem_extractLsb']
    grind
  simp only [wordBytes, parcelBytes, List.cons_append, List.nil_append, decode, parcelOf, e, h, e2]
  rfl

end Sys2Proof
end

