-- ==== Sys2Proof/Laws/Table.lean ====
section
/-! SUPPORT. What the sparse tables and the memory list give back: reads after writes, and the canonical form. -/
namespace Sys2Proof.Machine

/-! ## Tables -/

@[simp] theorem lookup_nil (k : Nat) : lookup k ([] : List (Nat × α)) = none := rfl

@[simp] theorem lookup_insertAt_same (k : Nat) (a : α) (l : List (Nat × α)) : lookup k (insertAt k a l) = some a := by
  induction l with
  | nil => simp [insertAt, lookup]
  | cons x l ih =>
    obtain ⟨j, b⟩ := x
    by_cases h : j = k
    · simp [insertAt, lookup, h]
    · by_cases h2 : k < j <;> simp [insertAt, lookup, h, h2, ih]

theorem lookup_insertAt_ne {k m : Nat} (h : m ≠ k) (a : α) (l : List (Nat × α)) : lookup m (insertAt k a l) = lookup m l := by
  induction l with
  | nil => simp [insertAt, lookup, Ne.symm h]
  | cons x l ih =>
    obtain ⟨j, b⟩ := x
    by_cases h1 : j = k
    · subst h1; simp [insertAt, lookup, Ne.symm h]
    · by_cases h2 : k < j <;> simp [insertAt, lookup, h1, h2, ih, Ne.symm h]

theorem lookup_removeAt_same (k : Nat) (l : List (Nat × α)) : lookup k (removeAt k l) = none := by
  induction l with
  | nil => rfl
  | cons x l ih =>
    obtain ⟨j, b⟩ := x
    by_cases h : j = k <;> simp [removeAt, lookup, h, ih]

theorem lookup_removeAt_ne {k m : Nat} (h : m ≠ k) (l : List (Nat × α)) : lookup m (removeAt k l) = lookup m l := by
  induction l with
  | nil => rfl
  | cons x l ih =>
    obtain ⟨j, b⟩ := x
    by_cases h1 : j = k
    · subst h1; simp [removeAt, lookup, Ne.symm h, ih]
    · simp [removeAt, lookup, h1, ih]

/-! ## Memory -/

@[simp] theorem Mem.read_write_same (m : List Host.Cell) (a : Nat) (b : Byte) : Mem.read (Mem.write m a b) a = b := by
  by_cases h : b = Mem.default
  · simp [Mem.read, Mem.write, h, lookup_removeAt_same]
  · simp [Mem.read, Mem.write, h]

theorem Mem.read_write_ne {a c : Nat} (h : c ≠ a) (m : List Host.Cell) (b : Byte) : Mem.read (Mem.write m a b) c = Mem.read m c := by
  by_cases hb : b = Mem.default
  · simp [Mem.read, Mem.write, hb, lookup_removeAt_ne h]
  · simp [Mem.read, Mem.write, hb, lookup_insertAt_ne h]

/-- A write of bytes leaves every other byte. -/
theorem Mem.read_writeBytes_outside (bs : List Byte) : ∀ (m : List Host.Cell) (a c : Nat), (c < a ∨ a + bs.length ≤ c) →
    Mem.read (Mem.writeBytes m a bs) c = Mem.read m c := by
  induction bs with
  | nil => intro m a c _; rfl
  | cons b bs ih =>
    intro m a c h
    simp only [List.length_cons] at h
    rw [Mem.writeBytes, ih _ _ _ (by omega), Mem.read_write_ne (by omega)]

/-- A write of bytes is read back. -/
theorem Mem.read_writeBytes_inside (bs : List Byte) : ∀ (m : List Host.Cell) (a i : Nat) (h : i < bs.length),
    Mem.read (Mem.writeBytes m a bs) (a + i) = bs[i] := by
  induction bs with
  | nil => intro m a i h; simp at h
  | cons b bs ih =>
    intro m a i h
    cases i with
    | zero => rw [Mem.writeBytes, Mem.read_writeBytes_outside _ _ _ _ (by omega)]; simp
    | succ i =>
      have e : a + (i + 1) = a + 1 + i := by omega
      simp only [List.length_cons] at h
      rw [Mem.writeBytes, e, ih _ _ _ (by omega)]; simp

/-- The least address of a list that keeps the canonical form bounds every later one. -/
def Mem.above (a : Nat) : List Host.Cell → Prop
  | [] => True
  | (j, _) :: _ => a < j

theorem Mem.wf_cons (a : Nat) (b : Byte) (l : List Host.Cell) :
    Mem.wf ((a, b) :: l) = true ↔ b ≠ Mem.default ∧ Mem.above a l ∧ Mem.wf l = true := by
  cases l with
  | nil => simp [Mem.wf, Mem.above]
  | cons x l => obtain ⟨j, c⟩ := x; simp [Mem.wf, Mem.above, and_assoc]

theorem Mem.above_trans {a b : Nat} (h : a < b) (l : List Host.Cell) (hb : Mem.above b l) : Mem.above a l := by
  cases l with
  | nil => trivial
  | cons x l => exact Nat.lt_trans h hb

theorem Mem.wf_insertAt (a : Nat) (b : Byte) (hb : b ≠ Mem.default) : ∀ (m : List Host.Cell), Mem.wf m = true →
    Mem.wf (insertAt a b m) = true ∧ (∀ c, c < a → Mem.above c m → Mem.above c (insertAt a b m)) := by
  intro m
  induction m with
  | nil => intro _; simp [insertAt, Mem.wf, Mem.above, hb]
  | cons x l ih =>
    obtain ⟨j, d⟩ := x
    intro h
    obtain ⟨hd, ha, hl⟩ := (Mem.wf_cons j d l).mp h
    by_cases h1 : j = a
    · subst h1
      simp only [insertAt, if_pos, Mem.wf_cons]
      exact ⟨⟨hb, ha, hl⟩, fun c hc _ => hc⟩
    · by_cases h2 : a < j
      · simp only [insertAt, h1, h2, if_false, if_true]
        refine ⟨(Mem.wf_cons _ _ _).mpr ⟨hb, h2, h⟩, fun c hc _ => hc⟩
      · simp only [insertAt, h1, h2, if_false]
        obtain ⟨iw, ia⟩ := ih hl
        refine ⟨(Mem.wf_cons _ _ _).mpr ⟨hd, ia j (by omega) ha, iw⟩, fun c _ hc => hc⟩

theorem Mem.wf_removeAt (a : Nat) : ∀ (m : List Host.Cell), Mem.wf m = true →
    Mem.wf (removeAt a m) = true ∧ (∀ c, Mem.above c m → Mem.above c (removeAt a m)) := by
  intro m
  induction m with
  | nil => intro _; simp [removeAt, Mem.wf, Mem.above]
  | cons x l ih =>
    obtain ⟨j, d⟩ := x
    intro h
    obtain ⟨hd, ha, hl⟩ := (Mem.wf_cons j d l).mp h
    obtain ⟨iw, ia⟩ := ih hl
    by_cases h1 : j = a
    · subst h1
      simp only [removeAt, if_pos]
      exact ⟨iw, fun c hc => ia c (Mem.above_trans hc l ha)⟩
    · simp only [removeAt, h1, if_false]
      exact ⟨(Mem.wf_cons _ _ _).mpr ⟨hd, ia j ha, iw⟩, fun c hc => hc⟩

/-- A write keeps the canonical form. -/
theorem Mem.wf_write (m : List Host.Cell) (a : Nat) (b : Byte) (h : Mem.wf m = true) : Mem.wf (Mem.write m a b) = true := by
  by_cases hb : b = Mem.default
  · simp only [Mem.write, hb, if_true]; exact (Mem.wf_removeAt a m h).1
  · simp only [Mem.write, hb, if_false]; exact (Mem.wf_insertAt a b hb m h).1

/-- A write of bytes keeps the canonical form. -/
theorem Mem.wf_writeBytes (bs : List Byte) : ∀ (m : List Host.Cell) (a : Nat), Mem.wf m = true → Mem.wf (Mem.writeBytes m a bs) = true := by
  induction bs with
  | nil => intro m a h; exact h
  | cons b bs ih => intro m a h; exact ih _ _ (Mem.wf_write m a b h)

end Sys2Proof.Machine
end

