-- ==== Sys2Proof/Laws/State.lean ====
section
/-! SUPPORT. What each update of the state leaves in each place: one lemma for an update and an accessor. -/
namespace Sys2Proof.Machine

/-! ## Tiles -/

@[simp] theorem State.tile_setTile_same (s : State) (n : Nat) (t : Tile) : (s.setTile n t).tile n = t := by simp [State.tile, State.setTile]
theorem State.tile_setTile_ne {n m : Nat} (h : m ≠ n) (s : State) (t : Tile) : (s.setTile n t).tile m = s.tile m := by
  simp [State.tile, State.setTile, lookup_insertAt_ne h]
@[simp] theorem State.tile_modTile_same (s : State) (n : Nat) (f : Tile → Tile) : (s.modTile n f).tile n = f (s.tile n) := by simp [State.modTile]
theorem State.tile_modTile_ne {n m : Nat} (h : m ≠ n) (s : State) (f : Tile → Tile) : (s.modTile n f).tile m = s.tile m := by
  simp [State.modTile, State.tile_setTile_ne h]

/-- A change of tiles changes the table of tiles alone. -/
theorem State.modTile_eq (s : State) (n : Nat) (f : Tile → Tile) : s.modTile n f = { s with tiles := (s.modTile n f).tiles } := rfl

@[simp] theorem State.setTile_mem (s : State) (n : Nat) (t : Tile) : (s.setTile n t).mem = s.mem := rfl
@[simp] theorem State.modTile_mem (s : State) (n : Nat) (f : Tile → Tile) : (s.modTile n f).mem = s.mem := rfl
@[simp] theorem State.modTile_memPoison (s : State) (n : Nat) (f : Tile → Tile) : (s.modTile n f).memPoison = s.memPoison := rfl
@[simp] theorem State.modTile_cur (s : State) (n : Nat) (f : Tile → Tile) : (s.modTile n f).cur = s.cur := rfl
@[simp] theorem State.modTile_now (s : State) (n : Nat) (f : Tile → Tile) : (s.modTile n f).now = s.now := rfl
@[simp] theorem State.modTile_chron (s : State) (n : Nat) (f : Tile → Tile) : (s.modTile n f).chron = s.chron := rfl
@[simp] theorem State.modTile_clock (s : State) (n : Nat) (f : Tile → Tile) : (s.modTile n f).clock = s.clock := rfl
@[simp] theorem State.modTile_steps (s : State) (n : Nat) (f : Tile → Tile) : (s.modTile n f).steps = s.steps := rfl
@[simp] theorem State.modTile_launches (s : State) (n : Nat) (f : Tile → Tile) : (s.modTile n f).launches = s.launches := rfl
@[simp] theorem State.modTile_parts (s : State) (n : Nat) (f : Tile → Tile) : (s.modTile n f).parts = s.parts := rfl
@[simp] theorem State.modTile_packets (s : State) (n : Nat) (f : Tile → Tile) : (s.modTile n f).packets = s.packets := rfl
@[simp] theorem State.modTile_flights (s : State) (n : Nat) (f : Tile → Tile) : (s.modTile n f).flights = s.flights := rfl
@[simp] theorem State.modTile_reqs (s : State) (n : Nat) (f : Tile → Tile) : (s.modTile n f).reqs = s.reqs := rfl
@[simp] theorem State.modTile_nextId (s : State) (n : Nat) (f : Tile → Tile) : (s.modTile n f).nextId = s.nextId := rfl
@[simp] theorem State.modTile_timed (s : State) (n : Nat) (f : Tile → Tile) : (s.modTile n f).timed = s.timed := rfl
@[simp] theorem State.modTile_agenda (s : State) (n : Nat) (f : Tile → Tile) : (s.modTile n f).agenda = s.agenda := rfl
@[simp] theorem State.modTile_reports (s : State) (n : Nat) (f : Tile → Tile) : (s.modTile n f).reports = s.reports := rfl
@[simp] theorem State.modTile_reck (s : State) (n : Nat) (f : Tile → Tile) : (s.modTile n f).reck = s.reck := rfl
@[simp] theorem State.modTile_stew (s : State) (n : Nat) (f : Tile → Tile) : (s.modTile n f).stew = s.stew := rfl
@[simp] theorem State.modTile_fuses (s : State) (n : Nat) (f : Tile → Tile) : (s.modTile n f).fuses = s.fuses := rfl
@[simp] theorem State.modTile_depots (s : State) (n : Nat) (f : Tile → Tile) : (s.modTile n f).depots = s.depots := rfl
@[simp] theorem State.modTile_chart (s : State) (n : Nat) (f : Tile → Tile) : (s.modTile n f).chart = s.chart := rfl
@[simp] theorem State.modTile_halted (s : State) (n : Nat) (f : Tile → Tile) : (s.modTile n f).halted = s.halted := rfl
@[simp] theorem State.modTile_hitchPos (s : State) (n : Nat) (f : Tile → Tile) : (s.modTile n f).hitchPos = s.hitchPos := rfl

/-! ## Berths and contexts -/

@[simp] theorem Tile.berth_setBerth_same (t : Tile) (b : Nat) (x : Berth) : (t.setBerth b x).berth b = x := by
  simp [Tile.berth, Tile.setBerth]
theorem Tile.berth_setBerth_ne {b c : Nat} (h : berthIx c ≠ berthIx b) (t : Tile) (x : Berth) : (t.setBerth b x).berth c = t.berth c := by
  have h' : (berthIx b).val ≠ (berthIx c).val := fun e => h (Fin.ext e.symm)
  simp [Tile.berth, Tile.setBerth, Vector.getElem_set, h']

@[simp] theorem State.berth_setBerth_same (s : State) (n b : Nat) (x : Berth) : (s.setBerth n b x).berth n b = x := by
  simp [State.berth, State.setBerth]
theorem State.berth_setBerth_ne {b c : Nat} (h : berthIx c ≠ berthIx b) (s : State) (n : Nat) (x : Berth) :
    (s.setBerth n b x).berth n c = s.berth n c := by
  simp [State.berth, State.setBerth, Tile.berth_setBerth_ne h]
@[simp] theorem State.berth_modBerth_same (s : State) (n b : Nat) (f : Berth → Berth) : (s.modBerth n b f).berth n b = f (s.berth n b) := by
  simp [State.modBerth]
theorem State.berth_modBerth_ne {b c : Nat} (h : berthIx c ≠ berthIx b) (s : State) (n : Nat) (f : Berth → Berth) :
    (s.modBerth n b f).berth n c = s.berth n c := by
  simp [State.modBerth, State.berth_setBerth_ne h]
theorem State.tile_modBerth_ne {n m : Nat} (h : m ≠ n) (s : State) (b : Nat) (f : Berth → Berth) :
    (s.modBerth n b f).tile m = s.tile m := State.tile_modTile_ne h s _

@[simp] theorem State.ctx_setCtx_same (s : State) (n b : Nat) (c : Ctx) : (s.setCtx n b c).ctx? n b = some c := by
  simp [State.ctx?, State.setCtx]
theorem State.ctx_setCtx_ne {b d : Nat} (h : berthIx d ≠ berthIx b) (s : State) (n : Nat) (c : Ctx) :
    (s.setCtx n b c).ctx? n d = s.ctx? n d := by
  simp [State.ctx?, State.setCtx, State.berth_modBerth_ne h]

/-- A change of a berth changes the table of tiles alone. -/
theorem State.modBerth_eq (s : State) (n b : Nat) (f : Berth → Berth) : s.modBerth n b f = { s with tiles := (s.modBerth n b f).tiles } := rfl

@[simp] theorem State.modBerth_mem (s : State) (n b : Nat) (f : Berth → Berth) : (s.modBerth n b f).mem = s.mem := rfl
@[simp] theorem State.modBerth_cur (s : State) (n b : Nat) (f : Berth → Berth) : (s.modBerth n b f).cur = s.cur := rfl
@[simp] theorem State.modBerth_now (s : State) (n b : Nat) (f : Berth → Berth) : (s.modBerth n b f).now = s.now := rfl
@[simp] theorem State.modBerth_launches (s : State) (n b : Nat) (f : Berth → Berth) : (s.modBerth n b f).launches = s.launches := rfl
@[simp] theorem State.modBerth_timed (s : State) (n b : Nat) (f : Berth → Berth) : (s.modBerth n b f).timed = s.timed := rfl
@[simp] theorem State.modBerth_agenda (s : State) (n b : Nat) (f : Berth → Berth) : (s.modBerth n b f).agenda = s.agenda := rfl
@[simp] theorem State.setCtx_mem (s : State) (n b : Nat) (c : Ctx) : (s.setCtx n b c).mem = s.mem := rfl
@[simp] theorem State.setCtx_cur (s : State) (n b : Nat) (c : Ctx) : (s.setCtx n b c).cur = s.cur := rfl
@[simp] theorem State.setCtx_now (s : State) (n b : Nat) (c : Ctx) : (s.setCtx n b c).now = s.now := rfl
@[simp] theorem State.setCtx_timed (s : State) (n b : Nat) (c : Ctx) : (s.setCtx n b c).timed = s.timed := rfl

/-! ## Launches, partitions, and the lists of what comes -/

@[simp] theorem State.launch_setLaunch_same (s : State) (k : Nat) (l : Launch) : (s.setLaunch k l).launch? k = some l := by
  simp [State.launch?, State.setLaunch]
theorem State.launch_setLaunch_ne {k j : Nat} (h : j ≠ k) (s : State) (l : Launch) : (s.setLaunch k l).launch? j = s.launch? j := by
  simp [State.launch?, State.setLaunch, lookup_insertAt_ne h]
theorem State.launch_modLaunch_same {s : State} {k : Nat} {l : Launch} (h : s.launch? k = some l) (f : Launch → Launch) :
    (s.modLaunch k f).launch? k = some (f l) := by simp [State.modLaunch, h]
theorem State.part_modPart_same {s : State} {p : Nat} {x : Partition} (h : s.part? p = some x) (f : Partition → Partition) :
    (s.modPart p f).part? p = some (f x) := by simp [State.modPart, State.part?] at *; simp [h]
@[simp] theorem State.launch_modTile (s : State) (n : Nat) (f : Tile → Tile) (k : Nat) : (s.modTile n f).launch? k = s.launch? k := rfl
@[simp] theorem State.part_modTile (s : State) (n : Nat) (f : Tile → Tile) (p : Nat) : (s.modTile n f).part? p = s.part? p := rfl

@[simp] theorem State.report_reports (s : State) (r : Report) : (s.report r).reports = s.reports ++ [r] := rfl
@[simp] theorem State.report_tile (s : State) (r : Report) (n : Nat) : (s.report r).tile n = s.tile n := rfl
@[simp] theorem State.report_mem (s : State) (r : Report) : (s.report r).mem = s.mem := rfl
@[simp] theorem State.soon_agenda (s : State) (e : Event) : (s.soon e).agenda = s.agenda ++ [e] := rfl
@[simp] theorem State.soon_tile (s : State) (e : Event) (n : Nat) : (s.soon e).tile n = s.tile n := rfl
@[simp] theorem State.atCycle_timed (s : State) (c : Nat) (e : Event) : (s.atCycle c e).timed = s.timed ++ [(c, e)] := rfl
@[simp] theorem State.atCycle_tile (s : State) (c : Nat) (e : Event) (n : Nat) : (s.atCycle c e).tile n = s.tile n := rfl
@[simp] theorem State.atCycle_berth (s : State) (c : Nat) (e : Event) (n b : Nat) : (s.atCycle c e).berth n b = s.berth n b := rfl
@[simp] theorem State.atCycle_mem (s : State) (c : Nat) (e : Event) : (s.atCycle c e).mem = s.mem := rfl
@[simp] theorem State.atCycle_cur (s : State) (c : Nat) (e : Event) : (s.atCycle c e).cur = s.cur := rfl

/-! ## Views -/

@[simp] theorem View.modCtx_ctx (v : View) (f : Ctx → Ctx) : (v.modCtx f).ctx = f v.ctx := rfl
@[simp] theorem View.modCtx_s (v : View) (f : Ctx → Ctx) : (v.modCtx f).s = v.s := rfl
@[simp] theorem View.modCtx_touched (v : View) (f : Ctx → Ctx) : (v.modCtx f).touched = v.touched := rfl
@[simp] theorem View.modTile_ctx (v : View) (f : Tile → Tile) : (v.modTile f).ctx = v.ctx := rfl
@[simp] theorem View.modTile_s (v : View) (f : Tile → Tile) : (v.modTile f).s = v.s.modTile v.s.cur.tile f := rfl
@[simp] theorem View.modTile_touched (v : View) (f : Tile → Tile) : (v.modTile f).touched = v.touched := rfl
@[simp] theorem View.modBerth_ctx (v : View) (f : Berth → Berth) : (v.modBerth f).ctx = v.ctx := rfl
@[simp] theorem View.modBerth_s (v : View) (f : Berth → Berth) : (v.modBerth f).s = v.s.modBerth v.s.cur.tile v.s.cur.berth f := rfl
@[simp] theorem View.modBerth_touched (v : View) (f : Berth → Berth) : (v.modBerth f).touched = v.touched := rfl

end Sys2Proof.Machine
end

