-- ==== Sys2Proof/Laws/Issue.lean ====
section
/-! SUPPORT. What an issue can do: the three ends of `runView`, what a completed issue leaves, and what a result leaves. -/
namespace Sys2Proof.Machine

@[simp] theorem State.view_s (s : State) (c : Ctx) : (s.view c).s = s := rfl
@[simp] theorem State.view_ctx (s : State) (c : Ctx) : (s.view c).ctx = c := rfl
@[simp] theorem State.view_touched (s : State) (c : Ctx) : (s.view c).touched = [] := rfl

/-! ## The ends of an issue -/

theorem runView_ok {s : State} {c : Ctx} {f : View → Ex View} {v : View} (hc : s.ctx? s.cur.tile s.cur.berth = some c)
    (h : f (s.view c) = .ok v) : runView f s = .next v.commit := by
  simp only [State.view] at h
  simp [runView, hc, h]

theorem runView_hold {s : State} {c : Ctx} {f : View → Ex View} (hc : s.ctx? s.cur.tile s.cur.berth = some c)
    (h : f (s.view c) = .error .hold) : runView f s = .next (holdIssue s) := by
  simp only [State.view] at h
  simp [runView, hc, h]

theorem runView_trap {s : State} {c : Ctx} {f : View → Ex View} {cause : Nat} {value : Word}
    (hc : s.ctx? s.cur.tile s.cur.berth = some c) (hs : (s.berth s.cur.tile s.cur.berth).spec = none) (hr : s.cur.replay = none)
    (h : f (s.view c) = .error (.trap cause value)) :
    runView f s = .next (takeTrap s s.cur.tile s.cur.berth cause value (trapPcs s c cause).1 (trapPcs s c cause).2 (issueSigma s)) := by
  simp only [State.view] at h
  simp [runView, hc, h, hs, popReplay, hr]

theorem runEnd_ok {s t : State} {c : Ctx} {f : View → Ex State} {after : State → State} (hc : s.ctx? s.cur.tile s.cur.berth = some c)
    (h : f (s.view c) = .ok t) : runEnd f s after = .next t := by
  simp only [State.view] at h
  simp [runEnd, hc, h]

theorem runTrapView_ok {s : State} {c : Ctx} {f : View → Ex (View × Option (Nat × Word))} {v : View}
    (hc : s.ctx? s.cur.tile s.cur.berth = some c) (h : f (s.view c) = .ok (v, none)) : runTrapView f s = .next v.commit := by
  simp only [State.view] at h
  simp [runTrapView, hc, h]

/-! ## The slot and the rows touched -/

theorem occupySlot_eq (s : State) (n b : Nat) : occupySlot s n b = { s with tiles := (occupySlot s n b).tiles } := rfl
@[simp] theorem occupySlot_cur (s : State) (n b : Nat) : (occupySlot s n b).cur = s.cur := rfl
@[simp] theorem occupySlot_now (s : State) (n b : Nat) : (occupySlot s n b).now = s.now := rfl
@[simp] theorem occupySlot_mem (s : State) (n b : Nat) : (occupySlot s n b).mem = s.mem := rfl
theorem occupySlot_tile_ne {n m : Nat} (h : m ≠ n) (s : State) (b : Nat) : (occupySlot s n b).tile m = s.tile m := State.tile_modTile_ne h s _
theorem occupySlot_tile (s : State) (n b : Nat) : (occupySlot s n b).tile n =
    { s.tile n with cur := some (berthIx b), last := berthIx b, issuedAt := some s.now, deltaWait := (s.tile n).deltaWait.erase b,
                    berths := (s.tile n).berths.map fun x => { x with yielding := false } } := by
  simp [occupySlot]
@[simp] theorem occupySlot_berth (s : State) (n b d : Nat) : (occupySlot s n b).berth n d = { s.berth n d with yielding := false } := by
  simp [State.berth, occupySlot_tile, Tile.berth]
@[simp] theorem occupySlot_ctx (s : State) (n b d : Nat) : (occupySlot s n b).ctx? n d = s.ctx? n d := by
  simp [State.ctx?]

/-- Touching rows changes the main file and the write-back buffer of one tile, and may put one drain on the clock. -/
theorem State.writeBackRows_spec (s : State) (n : Nat) (ks : List (RowKey × Bool)) :
    (s.writeBackRows n ks).tile n = { s.tile n with writeBack := ((s.writeBackRows n ks).tile n).writeBack } ∧
    (∀ m, m ≠ n → (s.writeBackRows n ks).tile m = s.tile m) ∧
    s.writeBackRows n ks = { s with tiles := (s.writeBackRows n ks).tiles, timed := (s.writeBackRows n ks).timed } ∧
    Drains n s.timed (s.writeBackRows n ks).timed := by
  have e (m : Nat) : (s.writeBackRows n ks).tile m = (s.modTile n fun t => { t with
      writeBack := t.writeBack ++ ks.map fun k => ⟨k.1.1, k.1.2.1, k.1.2.2, s.gatedAt k.1 k.2, k.2⟩ }).tile m := rfl
  refine ⟨?_, fun m hm => (e m).trans (State.tile_modTile_ne hm _ _), rfl, _, rfl, fun x hx => ?_⟩
  · rw [e n, State.tile_modTile_same]
  · obtain ⟨k, -, rfl⟩ := List.mem_map.1 hx
    rfl

theorem State.touchRows_spec (s : State) (n k i : Nat) (rows : List (Nat × Bool)) :
    (s.touchRows n k i rows).tile n =
      { s.tile n with mainFile := ((s.touchRows n k i rows).tile n).mainFile, writeBack := ((s.touchRows n k i rows).tile n).writeBack } ∧
    (∀ m, m ≠ n → (s.touchRows n k i rows).tile m = s.tile m) ∧
    s.touchRows n k i rows = { s with tiles := (s.touchRows n k i rows).tiles, timed := (s.touchRows n k i rows).timed } ∧
    Drains n s.timed (s.touchRows n k i rows).timed := by
  unfold State.touchRows
  generalize s.touchedFile n k i rows = x
  obtain ⟨es, out⟩ := x
  obtain ⟨h1, h2, h3, h4⟩ := State.writeBackRows_spec (s.modTile n fun t => { t with mainFile := es }) n out
  rw [State.tile_modTile_same] at h1
  refine ⟨?_, fun m hm => (h2 m hm).trans (State.tile_modTile_ne hm _ _), h3.trans rfl, h4⟩
  simp only
  generalize State.tile (State.writeBackRows _ n out) n = y at h1 ⊢
  rw [h1]

/-- Writing a view back sets the context; rows touched go to the main file. -/
theorem View.commit_spec (v : View) :
    v.commit.ctx? v.s.cur.tile v.s.cur.berth = some v.ctx ∧
    (∀ b, v.commit.berth v.s.cur.tile b = (v.s.setCtx v.s.cur.tile v.s.cur.berth v.ctx).berth v.s.cur.tile b) ∧
    v.commit.tile v.s.cur.tile = { v.s.tile v.s.cur.tile with
      berths := (v.commit.tile v.s.cur.tile).berths, mainFile := (v.commit.tile v.s.cur.tile).mainFile,
      writeBack := (v.commit.tile v.s.cur.tile).writeBack } ∧
    (∀ m, m ≠ v.s.cur.tile → v.commit.tile m = v.s.tile m) ∧
    v.commit = { v.s with tiles := v.commit.tiles, timed := v.commit.timed } ∧
    Drains v.s.cur.tile v.s.timed v.commit.timed := by
  unfold View.commit
  by_cases h : v.touched.isEmpty || isCore v.s.cur.tile
  · simp only [h, if_true]
    refine ⟨by simp, by simp, ?_, fun m hm => State.tile_modTile_ne hm _ _, rfl, [], by simp, by simp⟩
    simp [State.setCtx, State.modBerth, State.setBerth, Tile.setBerth]
  · simp only [h]
    obtain ⟨h1, h2, h3, h4⟩ := State.touchRows_spec (v.s.setCtx v.s.cur.tile v.s.cur.berth v.ctx) v.s.cur.tile v.ctx.ctxnum v.ctx.image v.touched
    have hb : ∀ b, ((v.s.setCtx v.s.cur.tile v.s.cur.berth v.ctx).touchRows v.s.cur.tile v.ctx.ctxnum v.ctx.image v.touched).berth v.s.cur.tile b
        = (v.s.setCtx v.s.cur.tile v.s.cur.berth v.ctx).berth v.s.cur.tile b := by
      intro b; unfold State.berth; rw [h1]; rfl
    refine ⟨?_, hb, ?_, fun m hm => ?_, ?_, h4⟩
    · unfold State.ctx?; simp only [Bool.false_eq_true, if_false]; rw [hb]; exact State.ctx_setCtx_same _ _ _ _
    · simp only [Bool.false_eq_true, if_false]
      rw [h1]; simp [State.setCtx, State.modBerth, State.setBerth, Tile.setBerth]
    · simp only [Bool.false_eq_true, if_false]
      rw [h2 m hm]; exact State.tile_modTile_ne hm _ _
    · simp only [Bool.false_eq_true, if_false]
      rw [h3]; rfl

/-! ## The issue completes -/

theorem View.advance_ctx (v : View) (sc : BitVec 3) (h : v.s.cur.replay = none) : (v.advance sc).ctx = v.ctx.movedOn v.s.cur.len sc v.s.now := by
  simp [View.advance, h, Ctx.movedOn]

theorem View.advance_s (v : View) (sc : BitVec 3) : (v.advance sc).s =
    (occupySlot v.s v.s.cur.tile v.s.cur.berth).modBerth v.s.cur.tile v.s.cur.berth fun x =>
      { x with nextIssue := v.s.now + spacing sc, readySince := v.s.now + spacing sc, latch := none } := by
  unfold View.advance
  cases v.s.cur.replay <;> rfl

@[simp] theorem View.advance_touched (v : View) (sc : BitVec 3) : (v.advance sc).touched = v.touched := by
  unfold View.advance
  cases v.s.cur.replay <;> rfl

@[simp] theorem View.advance_cur (v : View) (sc : BitVec 3) : (v.advance sc).s.cur = v.s.cur := by rw [View.advance_s]; rfl

/-- A view whose issue completes and is written back. -/
theorem View.advance_completed (v : View) (sc : BitVec 3) (h : v.s.cur.replay = none) :
    Completed v.s (v.advance sc).commit (v.ctx.movedOn v.s.cur.len sc v.s.now) (spacing sc) ∧
    ((v.advance sc).commit.tile v.s.cur.tile).mx = v.tile.mx := by
  obtain ⟨h1, h2, h3, h4, h5, h6⟩ := (v.advance sc).commit_spec
  simp only [View.advance_cur, View.advance_ctx v sc h] at h1 h2 h3 h4 h5 h6
  have hs := View.advance_s v sc
  have ht : (v.advance sc).s.tile v.s.cur.tile = { v.s.tile v.s.cur.tile with
      berths := ((v.advance sc).s.tile v.s.cur.tile).berths, cur := some (berthIx v.s.cur.berth), last := berthIx v.s.cur.berth,
      issuedAt := some v.s.now, deltaWait := (v.s.tile v.s.cur.tile).deltaWait.erase v.s.cur.berth } := by
    rw [hs]; simp [State.modBerth, State.setBerth, Tile.setBerth, occupySlot_tile]
  have hm : ∀ m, m ≠ v.s.cur.tile → (v.advance sc).s.tile m = v.s.tile m := by
    intro m hm; rw [hs, State.tile_modBerth_ne hm, occupySlot_tile_ne hm]
  refine ⟨⟨h1, ?_, fun b hb => ?_, fun m hm' => ?_, ?_, ?_, ?_⟩, ?_⟩
  · rw [h2, hs]; simp [State.setCtx]
  · have := h2 b
    unfold State.ctx?; rw [h2, hs]
    simp [State.setCtx, State.berth_modBerth_ne hb]
  · rw [h4 m hm', hm m hm']
  · rw [h3, ht]
  · rw [h5]; rw [hs]; rfl
  · rw [hs] at h6; exact h6
  · rw [h3, ht]; rfl

end Sys2Proof.Machine
end

