-- ==== Sys2Proof/Laws/Result.lean ====
section
/-! SUPPORT. What the delivery of a result leaves: the push, the register or row, and nothing else (R64, R66, R125). -/
namespace Sys2Proof.Machine

@[simp] theorem rowsGet_rowsSet_same (rs : Rows) (n : Nat) (r : Row) : rowsGet (rowsSet rs n r) n = r := by
  by_cases h : r = 0
  · simp [rowsGet, rowsSet, h, lookup_removeAt_same]
  · rw [rowsSet, if_neg h, rowsGet, lookup_insertAt_same]; rfl

theorem rowsGet_rowsSet_ne {n m : Nat} (h : m ≠ n) (rs : Rows) (r : Row) : rowsGet (rowsSet rs n r) m = rowsGet rs m := by
  by_cases hr : r = 0
  · simp [rowsGet, rowsSet, hr, lookup_removeAt_ne h]
  · rw [rowsSet, if_neg hr, rowsGet, rowsGet, lookup_insertAt_ne h]

/-- A written row reads back, whether it is the context's or an accumulator's. -/
@[simp] theorem View.row_setRow_same (v : View) (n : Nat) (r : Row) : (v.setRow n r).row n = r := by
  unfold View.setRow View.row
  by_cases h : n < 896 <;> simp [h, View.tile, View.modTile]

theorem View.row_setRow_ne {n m : Nat} (h : m ≠ n) (v : View) (r : Row) : (v.setRow n r).row m = v.row m := by
  unfold View.setRow View.row
  by_cases hn : n < 896 <;> by_cases hm : m < 896 <;> simp [hn, hm, View.tile, View.modTile, rowsGet_rowsSet_ne h]

theorem View.row_setRow_if (v : View) (n m : Nat) (r : Row) : (v.setRow n r).row m = if m = n then r else v.row m := by
  by_cases h : m = n
  · subst h; simp
  · rw [if_neg h, View.row_setRow_ne h]

/-- What may differ between two views after a result: rows and their poison, kept rows, touches, and accumulator rows. -/
structure RowsOnly (v w : View) : Prop where
  cur : w.s.cur = v.s.cur
  now : w.s.now = v.s.now
  state : w.s = { v.s with tiles := w.s.tiles }
  tiles : ∀ m, m ≠ v.s.cur.tile → w.s.tile m = v.s.tile m
  tile : w.s.tile v.s.cur.tile = { v.s.tile v.s.cur.tile with
    mx := { (v.s.tile v.s.cur.tile).mx with
      acc := (w.s.tile v.s.cur.tile).mx.acc, accPoison := (w.s.tile v.s.cur.tile).mx.accPoison,
      undo := (w.s.tile v.s.cur.tile).mx.undo } }
  ctx : w.ctx = { v.ctx with rows := w.ctx.rows, rowPoison := w.ctx.rowPoison, kept := w.ctx.kept }
  undo : v.specOpen = false → (w.s.tile v.s.cur.tile).mx.undo = (v.s.tile v.s.cur.tile).mx.undo

theorem RowsOnly.refl (v : View) : RowsOnly v v := ⟨rfl, rfl, rfl, fun _ _ => rfl, rfl, rfl, fun _ => rfl⟩

/-- Writing rows leaves the branch of the berth as it is. -/
theorem RowsOnly.specOpen {v w : View} (h : RowsOnly v w) : w.specOpen = v.specOpen := by
  have e := h.tile
  simp only [View.specOpen, View.berth, State.berth, h.cur]
  rw [e]; rfl

theorem RowsOnly.trans {v w x : View} (h : RowsOnly v w) (k : RowsOnly w x) : RowsOnly v x := by
  have hs := h.specOpen
  obtain ⟨h1, h2, h3, h4, h5, h6, h7⟩ := h
  obtain ⟨k1, k2, k3, k4, k5, k6, k7⟩ := k
  refine ⟨k1.trans h1, k2.trans h2, ?_, fun m hm => ?_, ?_, ?_, fun ho => ?_⟩
  · rw [k3, h3]
  · rw [k4 m (by rw [h1]; exact hm), h4 m hm]
  · rw [h1] at k5; rw [k5, h5]
  · rw [k6, h6]
  · rw [h1] at k7; rw [k7 (hs.trans ho), h7 ho]

theorem View.setRow_rowsOnly (v : View) (n : Nat) (r : Row) : RowsOnly v (v.setRow n r) := by
  unfold View.setRow
  by_cases h : n < 896
  · simp only [h, if_true]; exact ⟨rfl, rfl, rfl, fun _ _ => rfl, rfl, rfl, fun _ => rfl⟩
  · simp only [h, if_false]
    refine ⟨rfl, rfl, rfl, fun m hm => ?_, ?_, rfl, fun ho => ?_⟩
    · simp [State.tile_modTile_ne hm]
    · simp
    · simp_all

theorem View.unpoisonRow_rowsOnly (v : View) (n : Nat) : RowsOnly v (v.unpoisonRow n) := by
  unfold View.unpoisonRow
  by_cases h : n < 896
  · simp only [h, if_true]; exact ⟨rfl, rfl, rfl, fun _ _ => rfl, rfl, rfl, fun _ => rfl⟩
  · simp only [h, if_false]
    refine ⟨rfl, rfl, rfl, fun m hm => ?_, ?_, rfl, fun ho => ?_⟩
    · simp [State.tile_modTile_ne hm]
    · simp
    · simp_all

@[simp] theorem View.row_unpoisonRow (v : View) (n m : Nat) : (v.unpoisonRow n).row m = v.row m := by
  unfold View.unpoisonRow View.row
  by_cases hn : n < 896 <;> by_cases hm : m < 896 <;> simp [hn, hm, View.tile, View.modTile]

/-- What a delivery of `x` to the target of `d` leaves in a view, before the issue completes. -/
structure Pushed (v : View) (d : BitVec 7) (x : Val) (w : View) : Prop where
  cur : w.s.cur = v.s.cur
  now : w.s.now = v.s.now
  state : w.s = { v.s with tiles := w.s.tiles }
  tiles : ∀ m, m ≠ v.s.cur.tile → w.s.tile m = v.s.tile m
  tile : w.s.tile v.s.cur.tile = { v.s.tile v.s.cur.tile with
    mx := { (v.s.tile v.s.cur.tile).mx with
      acc := (w.s.tile v.s.cur.tile).mx.acc, accPoison := (w.s.tile v.s.cur.tile).mx.accPoison,
      undo := (w.s.tile v.s.cur.tile).mx.undo } }
  queue : w.ctx.q = if Opnd.of d = .z then v.ctx.q else v.ctx.q.push (.ofVal x v.now)
  regs : ∀ n : Fin 32, w.ctx.g[n] = if Opnd.of d = .g n then x.low else v.ctx.g[n]
  rows : ∀ n, w.row n = if v.rowOf (Opnd.of d) = some n then x.landed (v.row n) else v.row n
  ctx : w.ctx = { v.ctx with
    q := w.ctx.q, g := w.ctx.g, rows := w.ctx.rows, rowPoison := w.ctx.rowPoison, kept := w.ctx.kept, pend := w.ctx.pend,
    savedPend := w.ctx.savedPend }
  undo : v.specOpen = false → (w.s.tile v.s.cur.tile).mx.undo = (v.s.tile v.s.cur.tile).mx.undo

theorem View.row_ctx_irrel (v : View) (c : Ctx) (h : c.rows = v.ctx.rows) (n : Nat) : ({ v with ctx := c } : View).row n = v.row n := by
  simp [View.row, View.tile, h]

theorem View.target_of (v : View) (d : BitVec 7) (h : v.s.cur.replay = none) : v.target d = match Opnd.of d with
    | .g n => .g n
    | .z => .discard
    | o => match v.rowOf o with
      | some n => .row n
      | none => .queue := by
  unfold View.target
  simp only [h] <;> rfl

theorem View.pushVal_of (v : View) (x : Val) (h : v.s.cur.replay = none) :
    (v.pushVal x).1 = { v with ctx := { v.ctx with q := v.ctx.q.push (.ofVal x v.now) } } := by
  simp [View.pushVal, h]

/-- A row written by a result, its push and its pending entry. -/
theorem Pushed.of_row {v w : View} {d : BitVec 7} {x : Val} {n : Nat} {ho : v.rowOf (Opnd.of d) = some n} (p : Pend)
    (hz : Opnd.of d ≠ .z) (hg : ∀ m, Opnd.of d ≠ .g m)
    (hw : RowsOnly { v with ctx := { v.ctx with q := v.ctx.q.push (.ofVal x v.now) } } w)
    (hr : ∀ m, w.row m = if m = n then x.landed (v.row n) else v.row m) :
    Pushed v d x (w.addPend p) := by
  obtain ⟨h1, h2, h3, h4, h5, h6, h7⟩ := hw
  refine ⟨h1, h2, h3, h4, h5, ?_, fun m => ?_, fun m => ?_, ?_, h7⟩
  · show w.ctx.q = _
    rw [h6, if_neg hz]
  · show w.ctx.g[m] = _
    rw [if_neg (hg m), h6]
  · have e : (w.addPend p).row m = w.row m := rfl
    rw [e, hr m, ho]
    by_cases q : m = n
    · subst q; simp
    · simp [q, Ne.symm q]
  · show (w.addPend p).ctx = _
    simp only [View.addPend]
    rw [h6]

theorem View.result_pushed (v : View) (d : BitVec 7) (x : Val) (l : Nat) (ops : Captured) (inter rep : Bool) (h : v.s.cur.replay = none) :
    Pushed v d x (v.result d x l ops inter rep) := by
  unfold View.result
  rw [View.target_of v d h]
  have hq := View.pushVal_of v x h
  rcases hp : v.pushVal x with ⟨v', slot⟩
  rw [hp] at hq
  simp only at hq
  rcases ho : Opnd.of d with n | n | _ | _ | _ | i | n
  · simp only [View.rowOf, View.addPend, hq]
    refine ⟨rfl, rfl, rfl, fun _ _ => rfl, rfl, by simp [ho], fun n => by simp [ho], fun n => ?_, rfl, fun _ => rfl⟩
    simp [ho, View.rowOf, View.row, View.tile]
  · simp only [View.addPend, hq]
    refine ⟨rfl, rfl, rfl, fun _ _ => rfl, rfl, by simp [ho], fun m => ?_, fun n => ?_, rfl, fun _ => rfl⟩
    · by_cases e : n = m
      · subst e; simp [ho]
      · have e' : n.val ≠ m.val := fun q => e (Fin.ext q)
        simp [ho, e, e']
    · simp [ho, View.rowOf, View.row, View.tile]
  · refine ⟨rfl, rfl, rfl, fun _ _ => rfl, rfl, by simp [ho, View.addPend], fun n => by simp [ho, View.addPend], fun n => ?_, rfl, fun _ => rfl⟩
    simp [ho, View.rowOf, View.addPend, View.row, View.tile]
  · simp only [View.rowOf, View.addPend, hq]
    refine ⟨rfl, rfl, rfl, fun _ _ => rfl, rfl, by simp [ho], fun n => by simp [ho], fun n => ?_, rfl, fun _ => rfl⟩
    simp [ho, View.rowOf, View.row, View.tile]
  · simp only [View.rowOf, View.addPend, hq]
    refine ⟨rfl, rfl, rfl, fun _ _ => rfl, rfl, by simp [ho], fun n => by simp [ho], fun n => ?_, rfl, fun _ => rfl⟩
    simp [ho, View.rowOf, View.row, View.tile]
  all_goals
    simp only [View.rowOf]
    cases x with
    | scalar y =>
      simp only [hq]
      exact Pushed.of_row (ho := by rw [ho]; rfl) _ (by rw [ho]; simp) (by rw [ho]; simp) (View.setRow_rowsOnly _ _ _)
        fun m => View.row_setRow_if _ _ _ _
    | vector r =>
      simp only [hq]
      exact Pushed.of_row (ho := by rw [ho]; rfl) _ (by rw [ho]; simp) (by rw [ho]; simp)
        ((View.setRow_rowsOnly _ _ _).trans (View.unpoisonRow_rowsOnly _ _))
        fun m => (View.row_unpoisonRow _ _ _).trans (View.row_setRow_if _ _ _ _)

/-! ## A result issue -/

@[simp] theorem View.touchSources_s (v : View) (us : List Use) (run : Run) : (v.touchSources us run).s = v.s := by
  unfold View.touchSources; cases v.s.cur.replay <;> rfl
@[simp] theorem View.touchSources_ctx (v : View) (us : List Use) (run : Run) : (v.touchSources us run).ctx = v.ctx := by
  unfold View.touchSources; cases v.s.cur.replay <;> rfl

@[simp] theorem View.touchSources_rowOf (v : View) (us : List Use) (run : Run) (o : Opnd) : (v.touchSources us run).rowOf o = v.rowOf o := by
  unfold View.touchSources; cases v.s.cur.replay <;> rfl
@[simp] theorem View.touchSources_row (v : View) (us : List Use) (run : Run) (n : Nat) : (v.touchSources us run).row n = v.row n := by
  unfold View.touchSources; cases v.s.cur.replay <;> rfl

/-- A delivered result whose issue completes: the two predicates of claims, for a view that has touched rows and may have changed its tile. -/
theorem View.result_completed (v : View) (us : List Use) (d : BitVec 7) (x : Val) (l : Nat) (ops : Captured) (inter rep : Bool) (sc : BitVec 3)
    (h : v.s.cur.replay = none) :
    Completed v.s (((v.touchSources us).result d x l ops inter rep).advance sc).commit
      (((v.touchSources us).result d x l ops inter rep).advance sc).ctx (spacing sc) ∧
    Delivered v d x sc (((v.touchSources us).result d x l ops inter rep).advance sc).commit
      (((v.touchSources us).result d x l ops inter rep).advance sc).ctx := by
  have hu : (v.touchSources us).s.cur.replay = none := by rw [View.touchSources_s]; exact h
  obtain ⟨p1, p2, p3, p4, p5, p6, p7, p8, p9, p10⟩ := View.result_pushed (v.touchSources us) d x l ops inter rep hu
  generalize (v.touchSources us).result d x l ops inter rep = w at *
  simp only [View.touchSources_s, View.touchSources_ctx] at p1 p2 p3 p4 p5 p6 p7 p8 p9
  have hr : w.s.cur.replay = none := by rw [p1]; exact h
  obtain ⟨⟨a1, a2, a3, a4, a5, a6, a7⟩, b⟩ := View.advance_completed w sc hr
  have hctx := View.advance_ctx w sc hr
  simp only [p1, p2] at a1 a2 a3 a4 a5 a7 b hctx
  rw [hctx]
  refine ⟨⟨a1, a2, fun k hk => ?_, fun m hm => ?_, ?_, ?_, ?_⟩, ⟨p6.trans (by rw [View.now, View.touchSources_s]; rfl), p7, fun n => ?_, ?_, ?_, fun ho => ?_⟩⟩
  · rw [a3 k hk]; simp only [State.ctx?, State.berth]; rw [p5]; rfl
  · rw [a4 m hm, p4 m hm]
  · rw [a5, p5]
  · rw [a6, p3]
  · rw [p3] at a7; exact a7
  · have hb' : ((w.advance sc).commit.tile v.s.cur.tile).mx.acc = (w.s.tile v.s.cur.tile).mx.acc := by
      rw [b]; simp [View.tile, p1]
    have hcur : (w.advance sc).commit.cur = v.s.cur := by rw [a6]; exact p1
    have e : rowNow (w.advance sc).commit (w.ctx.movedOn v.s.cur.len sc v.s.now) n = w.row n := by
      simp only [rowNow, View.row, State.view_ctx, View.tile, State.view_s, hcur, hb', p1]; rfl
    rw [e, p8 n]
    rw [View.touchSources_rowOf, View.touchSources_row]
  · rw [b]; simp only [View.tile, p1]; rw [p5]
  · simp only [Ctx.movedOn]
    rw [p9]
  · rw [b]; simp only [View.tile, p1]
    simp only [View.touchSources_s] at p10
    refine p10 ?_
    simpa [View.specOpen, View.berth] using ho

/-- The same, run as an instruction. -/
theorem runView_result {s : State} {c : Ctx} {f : View → Ex View} {us : List Use} {d : BitVec 7} {x : Val} {l : Nat} {ops : Captured}
    {inter rep : Bool} {sc : BitVec 3} (hi : Issues s c)
    (h : f (s.view c) = .ok ((((s.view c).touchSources us).result d x l ops inter rep).advance sc)) :
    ∃ t c', runView f s = .next t ∧ Completed s t c' (spacing sc) ∧ Delivered (s.view c) d x sc t c' := by
  obtain ⟨h1, h2⟩ := View.result_completed (s.view c) us d x l ops inter rep sc hi.fresh
  exact ⟨_, _, runView_ok hi.ctx h, h1, h2⟩

end Sys2Proof.Machine
end

