-- ==== Sys2Proof/Laws/Outcome.lean ====
section
/-! SUPPORT. From what an instruction's evaluation answers to what its issue leaves: one lemma for each kind of ending that claims name. -/
namespace Sys2Proof.Machine

/-- An evaluation that ends by delivering a result. `w` is the view with the instruction's other effects; `w'` may have touched rows. -/
theorem runView_gives {s : State} {c : Ctx} {f : View → Ex View} (w w' : View) {d : BitVec 7} {x : Val} {l : Nat} {ops : Captured}
    {inter rep : Bool} {sc : BitVec 3} (hi : Issues s c) (hcur : w.s.cur = s.cur) (hs : w'.s = w.s) (hc : w'.ctx = w.ctx)
    (h : f (s.view c) = .ok ((w'.result d x l ops inter rep).advance sc)) : Gives (runView f s) w d x sc := by
  have e : w'.touchSources [] = w' := by
    unfold View.touchSources; cases w'.s.cur.replay <;> simp [View.rowNames]
  have hr : w'.s.cur.replay = none := by rw [hs, hcur]; exact hi.fresh
  obtain ⟨h1, h2⟩ := View.result_completed w' [] d x l ops inter rep sc hr
  rw [e] at h1 h2
  refine ⟨_, _, runView_ok hi.ctx h, hs ▸ h1, ?_⟩
  obtain ⟨a, b, c', d', e', g'⟩ := h2
  have hrow : ∀ n, w'.row n = w.row n := fun n => by simp [View.row, View.tile, hs, hc]
  have hof : ∀ o, w'.rowOf o = w.rowOf o := fun o => by simp [View.rowOf, hc]
  refine ⟨?_, ?_, fun n => ?_, ?_, ?_, fun ho => ?_⟩
  · rw [a]; simp [hc, View.now, hs]
  · intro n; rw [b n, hc]
  · rw [c' n, hrow, hof]
  · rw [hs] at d'; rw [d']; simp [View.tile, hs]
  · rw [hc, hs] at e'; exact e'
  · rw [hs] at g'; rw [g' (by simpa [View.specOpen, View.berth, hs] using ho)]; simp [View.tile, hs]

/-- An evaluation that ends by completing the issue. -/
theorem runView_ends {s : State} {c : Ctx} {f : View → Ex View} (w w' : View) {sc : BitVec 3} (hi : Issues s c) (hcur : w.s.cur = s.cur)
    (hs : w'.s = w.s) (hc : w'.ctx = w.ctx) (h : f (s.view c) = .ok (w'.advance sc)) : Ends (runView f s) w sc := by
  have hr : w'.s.cur.replay = none := by rw [hs, hcur]; exact hi.fresh
  obtain ⟨h1, h2⟩ := View.advance_completed w' sc hr
  rw [hs, hc] at h1
  exact ⟨_, runView_ok hi.ctx h, h1, by rw [hs] at h2; rw [h2]; simp [View.tile, hs]⟩

/-- The same of the run that may take a trap beside its effect. -/
theorem runTrapView_ends {s : State} {c : Ctx} {f : View → Ex (View × Option (Nat × Word))} (w w' : View) {sc : BitVec 3} (hi : Issues s c)
    (hcur : w.s.cur = s.cur) (hs : w'.s = w.s) (hc : w'.ctx = w.ctx) (h : f (s.view c) = .ok (w'.advance sc, none)) :
    Ends (runTrapView f s) w sc := by
  have hr : w'.s.cur.replay = none := by rw [hs, hcur]; exact hi.fresh
  obtain ⟨h1, h2⟩ := View.advance_completed w' sc hr
  rw [hs, hc] at h1
  exact ⟨_, runTrapView_ok hi.ctx h, h1, by rw [hs] at h2; rw [h2]; simp [View.tile, hs]⟩

/-- An evaluation that ends by writing a mask register. -/
theorem runView_marks {s : State} {c : Ctx} {f : View → Ex View} (w w' : View) {k : Fin 8} {m : Mask} {l : Nat} {ops : Captured}
    {sc : BitVec 3} (hi : Issues s c) (hcur : w.s.cur = s.cur) (hs : w'.s = w.s) (hc : w'.ctx = w.ctx)
    (h : f (s.view c) = .ok ((w'.setMask k m l ops).advance sc)) : Marks (runView f s) w k m sc := by
  have hr : w'.s.cur.replay = none := by rw [hs, hcur]; exact hi.fresh
  have hm : ∃ p, w'.setMask k m l ops = ({ w' with ctx := { w'.ctx with k := w'.ctx.k.set k m } } : View).addPend p := by
    simp only [View.setMask, hr]; exact ⟨_, rfl⟩
  obtain ⟨p, hm⟩ := hm
  rw [hm] at h
  obtain ⟨h1, h2⟩ := View.advance_completed (({ w' with ctx := { w'.ctx with k := w'.ctx.k.set k m } } : View).addPend p) sc hr
  generalize hx : (({ w' with ctx := { w'.ctx with k := w'.ctx.k.set k m } } : View).addPend p) = x at h h1 h2
  have e1 : x.s = w.s := by rw [← hx, ← hs]; rfl
  have e2 : x.ctx = { w.ctx with k := w.ctx.k.set k m, pend := x.ctx.pend, savedPend := x.ctx.savedPend } := by rw [← hx, ← hc]; rfl
  rw [e1] at h1 h2
  refine ⟨_, _, runView_ok hi.ctx h, h1, by rw [h2]; simp [View.tile, e1], ?_⟩
  rw [e2]; rfl

/-! ## Transfers (R70, R144) -/

/-- A view whose slot has been taken, its berth's other fields changed and an event put on the clock, written back. -/
theorem View.commit_completed (s : State) (y : View) (sp : Nat) (hcur : y.s.cur = s.cur)
    (hst : y.s = { s with tiles := y.s.tiles }) (htiles : ∀ m, m ≠ s.cur.tile → y.s.tile m = s.tile m)
    (htile : y.s.tile s.cur.tile = { s.tile s.cur.tile with
      berths := (y.s.tile s.cur.tile).berths, mx := (y.s.tile s.cur.tile).mx, cur := some (berthIx s.cur.berth),
      last := berthIx s.cur.berth, issuedAt := some s.now, deltaWait := (s.tile s.cur.tile).deltaWait.erase s.cur.berth })
    (hberths : ∀ b, berthIx b ≠ berthIx s.cur.berth → y.s.ctx? s.cur.tile b = s.ctx? s.cur.tile b)
    (hnext : (y.s.berth s.cur.tile s.cur.berth).nextIssue = s.now + sp) :
    Completed s y.commit y.ctx sp ∧ (y.commit.tile s.cur.tile).mx = (y.s.tile s.cur.tile).mx ∧
    (y.commit.berth s.cur.tile s.cur.berth).spec = (y.s.berth s.cur.tile s.cur.berth).spec := by
  obtain ⟨h1, h2, h3, h4, h5, h6⟩ := y.commit_spec
  have hnow : y.s.now = s.now := by rw [hst]
  simp only [hcur, hnow] at h1 h2 h3 h4 h5 h6
  refine ⟨⟨h1, ?_, fun b hb => ?_, fun m hm => ?_, ?_, ?_, ?_⟩, ?_, ?_⟩
  · rw [h2]; simp [State.setCtx, hnext]
  · unfold State.ctx?; rw [h2]
    have := hberths b hb
    unfold State.ctx? at this
    rw [State.setCtx, State.berth_modBerth_ne hb, this]
  · rw [h4 m hm, htiles m hm]
  · rw [h3, htile]
  · rw [h5]; rw [hst]
  · rw [hst] at h6; exact h6
  · rw [h3]
  · rw [h2]; simp [State.setCtx]

/-- A transfer from a view whose own effect is done. -/
theorem View.transfer_branches (v w : View) (taken : Bool) (target : BitVec 48) (sc : BitVec 3) (h : w.s.cur.replay = none)
    (hcur : w.s.cur = v.s.cur) (hnow : w.s.now = v.s.now) (hst : w.s = { v.s with tiles := w.s.tiles })
    (htiles : ∀ m, m ≠ v.s.cur.tile → w.s.tile m = v.s.tile m)
    (htile : w.s.tile v.s.cur.tile = { v.s.tile v.s.cur.tile with mx := (w.s.tile v.s.cur.tile).mx }) (k : Nat) (now' : Bool) :
    let y := if now' then (v.transfer (w.advance sc) taken target sc).modBerth fun x => { x with nextIssue := v.s.now + k, readySince := v.s.now + k }
      else v.transfer (w.advance sc) taken target sc
    Completed (v.s.atCycle (v.s.now + 2) (.branchResolve v.s.cur.tile v.s.cur.berth)) y.commit (w.ctx.movedOn v.s.cur.len sc v.s.now)
      (if now' then k else spacing sc) ∧
    (y.commit.tile v.s.cur.tile).mx = (w.s.tile v.s.cur.tile).mx ∧
    (y.commit.berth v.s.cur.tile v.s.cur.berth).spec = some
      { taken := taken, checkpoint := (w.ctx.movedOn v.s.cur.len sc v.s.now).landing target (v.ctx.dist + takenSpacing sc),
        nextIfTaken := v.s.now + takenSpacing sc } := by
  intro y
  have hctx := View.advance_ctx w sc h
  have hs := View.advance_s w sc
  rw [hcur, hnow] at hctx hs
  have hyctx : y.ctx = w.ctx.movedOn v.s.cur.len sc v.s.now := by
    show (if now' = true then _ else _ : View).ctx = _
    cases now' <;> exact hctx
  have hc2 : (w.advance sc).s.cur = v.s.cur := by rw [View.advance_cur, hcur]
  have step1 : ∀ A : State, A = { v.s with tiles := A.tiles } → (∀ m, m ≠ v.s.cur.tile → A.tile m = v.s.tile m) →
      A.tile v.s.cur.tile = { v.s.tile v.s.cur.tile with
        berths := (A.tile v.s.cur.tile).berths, mx := (w.s.tile v.s.cur.tile).mx,
        cur := some (berthIx v.s.cur.berth), last := berthIx v.s.cur.berth, issuedAt := some v.s.now,
        deltaWait := (v.s.tile v.s.cur.tile).deltaWait.erase v.s.cur.berth } →
      (∀ b, berthIx b ≠ berthIx v.s.cur.berth → A.ctx? v.s.cur.tile b = v.s.ctx? v.s.cur.tile b) →
      ∀ sp, (A.berth v.s.cur.tile v.s.cur.berth).nextIssue = v.s.now + sp →
      (A.berth v.s.cur.tile v.s.cur.berth).spec = some
        { taken := taken, checkpoint := (w.ctx.movedOn v.s.cur.len sc v.s.now).landing target (v.ctx.dist + takenSpacing sc),
          nextIfTaken := v.s.now + takenSpacing sc } →
      y.s = A.atCycle (v.s.now + 2) (.branchResolve v.s.cur.tile v.s.cur.berth) →
      Completed (v.s.atCycle (v.s.now + 2) (.branchResolve v.s.cur.tile v.s.cur.berth)) y.commit (w.ctx.movedOn v.s.cur.len sc v.s.now) sp ∧
      (y.commit.tile v.s.cur.tile).mx = (w.s.tile v.s.cur.tile).mx ∧
      (y.commit.berth v.s.cur.tile v.s.cur.berth).spec = some
        { taken := taken, checkpoint := (w.ctx.movedOn v.s.cur.len sc v.s.now).landing target (v.ctx.dist + takenSpacing sc),
          nextIfTaken := v.s.now + takenSpacing sc } := by
    intro A a1 a2 a3 a4 sp a5 a6 hy
    obtain ⟨c1, c2, c3⟩ := View.commit_completed (v.s.atCycle (v.s.now + 2) (.branchResolve v.s.cur.tile v.s.cur.berth)) y sp
      (by rw [hy, a1]; rfl) (by rw [hy, a1]; rfl) (fun m hm => by rw [hy]; exact a2 m hm)
      (by
        have m : (A.tile v.s.cur.tile).mx = (w.s.tile v.s.cur.tile).mx := by rw [a3]
        rw [hy]; simp only [State.atCycle_tile, State.atCycle_cur]; rw [m]; exact a3) (fun b hb => by rw [hy]; exact a4 b hb) (by rw [hy]; exact a5)
    refine ⟨hyctx ▸ c1, c2.trans (by rw [hy]; show (A.tile v.s.cur.tile).mx = _; rw [a3]), c3.trans (by rw [hy]; exact a6)⟩
  let S : Spec := { taken := taken, checkpoint := (w.ctx.movedOn v.s.cur.len sc v.s.now).landing target (v.ctx.dist + takenSpacing sc), nextIfTaken := v.s.now + takenSpacing sc }
  let B : State := ((occupySlot w.s v.s.cur.tile v.s.cur.berth).modBerth v.s.cur.tile v.s.cur.berth fun x =>
    { x with nextIssue := v.s.now + spacing sc, readySince := v.s.now + spacing sc, latch := none }).modBerth v.s.cur.tile v.s.cur.berth fun x =>
    { x with spec := some S }
  have ht : (v.transfer (w.advance sc) taken target sc).s = B.atCycle (v.s.now + 2) (.branchResolve v.s.cur.tile v.s.cur.berth) := by
    show ((w.advance sc).s.modBerth (w.advance sc).s.cur.tile (w.advance sc).s.cur.berth fun x =>
      { x with spec := some (Spec.mk taken ((w.advance sc).ctx.landing target (v.ctx.dist + takenSpacing sc)) (v.s.now + takenSpacing sc)) }).atCycle
      (v.s.now + 2) (.branchResolve v.s.cur.tile v.s.cur.berth) = _
    rw [hctx, hc2, hs]
  have b1 : B = { v.s with tiles := B.tiles } := by
    exact congrArg (fun u : State => { u with tiles := B.tiles }) hst
  have b2 : ∀ m, m ≠ v.s.cur.tile → B.tile m = v.s.tile m := fun m hm => by
    rw [State.tile_modBerth_ne hm, State.tile_modBerth_ne hm, occupySlot_tile_ne hm, htiles m hm]
  have b3 : B.tile v.s.cur.tile = { v.s.tile v.s.cur.tile with
        berths := (B.tile v.s.cur.tile).berths, mx := (w.s.tile v.s.cur.tile).mx,
        cur := some (berthIx v.s.cur.berth), last := berthIx v.s.cur.berth, issuedAt := some v.s.now,
        deltaWait := (v.s.tile v.s.cur.tile).deltaWait.erase v.s.cur.berth } := by
    have q : B.tile v.s.cur.tile = { w.s.tile v.s.cur.tile with
        berths := (B.tile v.s.cur.tile).berths, cur := some (berthIx v.s.cur.berth), last := berthIx v.s.cur.berth,
        issuedAt := some w.s.now, deltaWait := (w.s.tile v.s.cur.tile).deltaWait.erase v.s.cur.berth } := by
      simp [B, State.modBerth, State.setBerth, Tile.setBerth, occupySlot_tile]
    generalize B.tile v.s.cur.tile = z at q ⊢
    rw [q, hnow]
    generalize w.s.tile v.s.cur.tile = x at htile ⊢
    rw [htile]
  have hb0 : ∀ b, (w.s.berth v.s.cur.tile b) = v.s.berth v.s.cur.tile b := fun b => by unfold State.berth; rw [htile]; rfl
  have b4 : ∀ b, berthIx b ≠ berthIx v.s.cur.berth → B.ctx? v.s.cur.tile b = v.s.ctx? v.s.cur.tile b := fun b hb => by
    unfold State.ctx?
    rw [State.berth_modBerth_ne hb, State.berth_modBerth_ne hb, occupySlot_berth, hb0]
  have b5 : (B.berth v.s.cur.tile v.s.cur.berth).nextIssue = v.s.now + spacing sc := by simp [B]
  have b6 : (B.berth v.s.cur.tile v.s.cur.berth).spec = some S := by simp [B]
  cases now'
  · exact step1 B b1 b2 b3 b4 _ b5 b6 ht
  · refine step1 (B.modBerth v.s.cur.tile v.s.cur.berth fun x => { x with nextIssue := v.s.now + k, readySince := v.s.now + k }) ?_
      (fun m hm => (State.tile_modBerth_ne hm _ _ _).trans (b2 m hm)) ?_
      (fun b hb => by unfold State.ctx?; rw [State.berth_modBerth_ne hb]; exact b4 b hb) k (by simp) (by simpa using b6) ?_
    · rw [State.modBerth_eq, b1]
    · have q : ∀ g, (B.modBerth v.s.cur.tile v.s.cur.berth g).tile v.s.cur.tile =
          { B.tile v.s.cur.tile with berths := ((B.modBerth v.s.cur.tile v.s.cur.berth g).tile v.s.cur.tile).berths } := by
        intro g; simp [State.modBerth, State.setBerth, Tile.setBerth]
      rw [q, b3]
    · show ((v.transfer (w.advance sc) taken target sc).modBerth _).s = _
      have qc : (v.transfer (w.advance sc) taken target sc).s.cur = v.s.cur := by rw [ht, b1]; rfl
      simp only [View.modBerth, qc]
      rw [ht]; rfl

/-- A transfer that delivers nothing: its successor issues `spacing sc` on, or `takenSpacing sc` on where `wait`. -/
theorem runView_branching {s : State} {c : Ctx} {f : View → Ex View} (w : View) {taken : Bool} {target : BitVec 48} {sc : BitVec 3}
    {wait : Bool} (hi : Issues s c) (hs : w.s = s) (hc : w.ctx = c)
    (h : f (s.view c) = .ok (if wait then ((s.view c).transfer (w.advance sc) taken target sc).modBerth
        fun x => { x with nextIssue := s.now + takenSpacing sc, readySince := s.now + takenSpacing sc }
      else (s.view c).transfer (w.advance sc) taken target sc)) :
    ∃ t, runView f s = .next t ∧
      Branching (s.view c) taken target sc t (c.movedOn s.cur.len sc s.now) (if wait then takenSpacing sc else spacing sc) ∧
      (t.tile s.cur.tile).mx = (s.tile s.cur.tile).mx := by
  obtain ⟨h1, h2, h3⟩ := View.transfer_branches (s.view c) w taken target sc (by rw [hs]; exact hi.fresh) (by rw [hs]; rfl) (by rw [hs]; rfl)
    (by rw [hs]; rfl) (by rw [hs]; exact fun _ _ => rfl) (by rw [hs]; rfl) (takenSpacing sc) wait
  rw [hc] at h1 h3
  exact ⟨_, runView_ok hi.ctx h, ⟨h1, h3⟩, h2.trans (by rw [hs]; rfl)⟩

/-- A transfer that delivers a result. -/
theorem runView_branching_result {s : State} {c : Ctx} {f : View → Ex View} (us : List Use) {d : BitVec 7} {x : Val} {l : Nat}
    {ops : Captured} {inter rep : Bool} {taken : Bool} {target : BitVec 48} {sc : BitVec 3} {wait : Bool} (hi : Issues s c)
    (h : f (s.view c) = .ok (if wait then ((s.view c).transfer ((((s.view c).touchSources us).result d x l ops inter rep).advance sc) taken target
          sc).modBerth fun x => { x with nextIssue := s.now + takenSpacing sc, readySince := s.now + takenSpacing sc }
      else (s.view c).transfer ((((s.view c).touchSources us).result d x l ops inter rep).advance sc) taken target sc)) :
    ∃ t c', runView f s = .next t ∧ Branching (s.view c) taken target sc t c' (if wait then takenSpacing sc else spacing sc) ∧
      Delivered (s.view c) d x sc t c' := by
  have hu : ((s.view c).touchSources us).s.cur.replay = none := by rw [View.touchSources_s]; exact hi.fresh
  obtain ⟨p1, p2, p3, p4, p5, p6, p7, p8, p9, p10⟩ := View.result_pushed ((s.view c).touchSources us) d x l ops inter rep hu
  generalize ((s.view c).touchSources us).result d x l ops inter rep = w at *
  simp only [View.touchSources_s, View.touchSources_ctx, State.view_s, State.view_ctx] at p1 p2 p3 p4 p5 p6 p7 p8 p9 p10
  obtain ⟨h1, h2, h3⟩ := View.transfer_branches (s.view c) w taken target sc (by rw [p1]; exact hi.fresh) p1 p2 p3 p4
    (by simp only [State.view_s]; rw [p5]) (takenSpacing sc) wait
  simp only [State.view_s, State.view_ctx] at h1 h2 h3
  generalize (if wait = true then _ else _ : View) = z at h h1 h2 h3
  refine ⟨z.commit, w.ctx.movedOn s.cur.len sc s.now, runView_ok hi.ctx h, ⟨h1, h3⟩, ⟨?_, p7, fun n => ?_, ?_, ?_, fun ho => ?_⟩⟩
  · exact p6.trans (by rw [View.now, View.touchSources_s]; rfl)
  · have hcur : z.commit.cur = s.cur := by rw [h1.rest]; rfl
    have e : rowNow z.commit (w.ctx.movedOn s.cur.len sc s.now) n = w.row n := by
      simp only [rowNow, View.row, State.view_ctx, View.tile, State.view_s, hcur, h2, p1]; rfl
    rw [e, p8 n, View.touchSources_rowOf, View.touchSources_row]
  · simp only [State.view_s]
    rw [h2, p5]; rfl
  · rw [p9]; simp [Ctx.movedOn]
  · simp only [State.view_s]
    rw [h2]
    exact p10 (by simpa [View.specOpen, View.berth] using ho)

end Sys2Proof.Machine
end

