-- ==== Sys2Proof/Laws/Scalar.lean ====
section
/-! SUPPORT. What the shared evaluations of scalar instructions do when their operands are clear. -/
namespace Sys2Proof.Machine

theorem scalarResult_gives {us : List Use} {l : Nat} {d : BitVec 7} {f : View → Word} {x : Word} {sc : BitVec 3} {s : State} {c : Ctx}
    (hi : Issues s c) (h : Clear (s.view c) us) (e : f (s.view c) = x) :
    Gives (runView (scalarResult us l d f sc) s) (s.view c) d (.scalar x) sc :=
  runView_gives (s.view c) ((s.view c).touchSources us) hi rfl (by simp) (by simp)
    (by simp only [scalarResult, h.check, h.room, e]; rfl)

theorem scalar1_gives {f : Word → Word} {x : Word} {l : Nat} {d a : BitVec 7} {sc : BitVec 3} {s : State} {c : Ctx} (hi : Issues s c)
    (h : Clear (s.view c) (usesDA d a)) (e : f ((s.view c).scalar 2 a) = x) :
    Gives (runView (scalar1 f l d a sc) s) (s.view c) d (.scalar x) sc := scalarResult_gives hi h e

theorem scalar2_gives {f : Word → Word → Word} {x : Word} {l : Nat} {d a b : BitVec 7} {sc : BitVec 3} {s : State} {c : Ctx}
    (hi : Issues s c) (h : Clear (s.view c) (usesDAB d a b)) (e : f ((s.view c).scalar 2 a) ((s.view c).scalar 3 b) = x) :
    Gives (runView (scalar2 f l d a b sc) s) (s.view c) d (.scalar x) sc := scalarResult_gives hi h e

theorem scalar3_gives {f : Word → Word → Word → Word} {x : Word} {l : Nat} {d a b : BitVec 7} {sc : BitVec 3} {s : State} {c : Ctx}
    (hi : Issues s c) (h : Clear (s.view c) (usesRwAB d a b))
    (e : f ((s.view c).scalar 1 d) ((s.view c).scalar 2 a) ((s.view c).scalar 3 b) = x) :
    Gives (runView (scalar3 f l d a b sc) s) (s.view c) d (.scalar x) sc := scalarResult_gives hi h e

end Sys2Proof.Machine
end

