-- ==== Sys2Proof/Laws/Control.lean ====
section
/-! SUPPORT. What the shared operations of transfers do: waiting for an earlier branch, the addresses, and a jump resolved at issue. -/
namespace Sys2Proof.Machine

theorem View.resolved_ok {v : View} (h : v.specOpen = false) : v.resolved = .ok () := by simp [View.resolved, waitUntil, h]
theorem View.resolved_hold {v : View} (h : v.specOpen = true) : v.resolved = .error .hold := by simp [View.resolved, waitUntil, h]

theorem View.spec_none {s : State} {c : Ctx} (h : (s.view c).specOpen = false) : (s.berth s.cur.tile s.cur.berth).spec = none := by
  simpa [View.specOpen, View.berth] using h

theorem View.ownPc_eq {s : State} {c : Ctx} (hi : Issues s c) : (s.view c).ownPc = c.pc := by simp [View.ownPc, hi.fresh]

theorem View.link_eq {s : State} {c : Ctx} (hi : Issues s c) : (s.view c).link = (c.pc + BitVec.ofNat 48 s.cur.len).zeroExtend 64 := by
  simp [View.link, View.ownPc_eq hi]

theorem View.targetOf_eq {n : Nat} {s : State} {c : Ctx} (hi : Issues s c) (off : BitVec n) :
    (s.view c).targetOf off = c.pc + BitVec.ofInt 48 (2 * off.toInt) := by simp [View.targetOf, View.ownPc_eq hi]

/-- A jump resolved at issue, from a view whose state is `v`'s. -/
theorem View.jumpNow_completed (v w : View) (target : BitVec 48) (sc : BitVec 3) (h : v.s.cur.replay = none) (hs : w.s = v.s) :
    Completed v.s (v.jumpNow w target sc).commit ((w.ctx.movedOn v.s.cur.len sc v.s.now).landing target (v.ctx.dist + takenSpacing sc))
      (takenSpacing sc) ∧
    ((v.jumpNow w target sc).commit.tile v.s.cur.tile).mx = (v.s.tile v.s.cur.tile).mx := by
  have hctx := View.advance_ctx w sc (by rw [hs]; exact h)
  have e := View.advance_s w sc
  rw [hs] at e hctx
  have hc : (v.jumpNow w target sc).ctx = (w.ctx.movedOn v.s.cur.len sc v.s.now).landing target (v.ctx.dist + takenSpacing sc) := by
    simp only [View.jumpNow, View.modBerth_ctx, View.modCtx_ctx, hctx]; rfl
  have hjs : (v.jumpNow w target sc).s = ((occupySlot v.s v.s.cur.tile v.s.cur.berth).modBerth v.s.cur.tile v.s.cur.berth fun x =>
      { x with nextIssue := v.s.now + spacing sc, readySince := v.s.now + spacing sc, latch := none }).modBerth v.s.cur.tile v.s.cur.berth
      fun x => { x with nextIssue := v.s.now + takenSpacing sc, readySince := v.s.now + takenSpacing sc } := by
    simp only [View.jumpNow, View.modBerth_s, View.modCtx_s, e]; rfl
  obtain ⟨c1, c2, -⟩ := View.commit_completed v.s (v.jumpNow w target sc) (takenSpacing sc) (by rw [hjs]; rfl) (by rw [hjs]; rfl)
    (fun m hm => by rw [hjs, State.tile_modBerth_ne hm, State.tile_modBerth_ne hm, occupySlot_tile_ne hm])
    (by rw [hjs]; simp [State.modBerth, State.setBerth, Tile.setBerth, occupySlot_tile])
    (fun b hb => by
      unfold State.ctx?
      rw [hjs, State.berth_modBerth_ne hb, State.berth_modBerth_ne hb, occupySlot_berth])
    (by rw [hjs]; simp)
  rw [hc] at c1
  exact ⟨c1, c2.trans (by rw [hjs]; simp [State.modBerth, State.setBerth, Tile.setBerth, occupySlot_tile])⟩

end Sys2Proof.Machine
end

