-- ==== Sys2Proof/Laws/Memory.lean ====
section
/-! SUPPORT. Every operation that changes memory keeps its canonical form (R452 and the model's own form of memory). -/
namespace Sys2Proof.Machine

/-- A part of a list that keeps the canonical form keeps it. -/
theorem Mem.wf_filter (f : Host.Cell → Bool) : ∀ (m : List Host.Cell), Mem.wf m = true →
    Mem.wf (m.filter f) = true ∧ (∀ c, Mem.above c m → Mem.above c (m.filter f)) := by
  intro m
  induction m with
  | nil => intro _; simp [Mem.wf, Mem.above]
  | cons x l ih =>
    obtain ⟨j, d⟩ := x
    intro h
    obtain ⟨hd, ha, hl⟩ := (Mem.wf_cons j d l).mp h
    obtain ⟨iw, ia⟩ := ih hl
    by_cases h1 : f (j, d) = true
    · rw [List.filter_cons_of_pos h1]
      exact ⟨(Mem.wf_cons _ _ _).mpr ⟨hd, ia j ha, iw⟩, fun c hc => hc⟩
    · rw [List.filter_cons_of_neg h1]
      exact ⟨iw, fun c hc => ia c (Mem.above_trans hc l ha)⟩

/-- Writes one after another keep it. -/
theorem Mem.wf_foldl_write (g : α → Nat × Byte) (xs : List α) : ∀ (m : List Host.Cell), Mem.wf m = true →
    Mem.wf (xs.foldl (fun m x => Mem.write m (g x).1 (g x).2) m) = true := by
  induction xs with
  | nil => intro m h; exact h
  | cons x xs ih => intro m h; exact ih _ (Mem.wf_write m _ _ h)

/-- What each step of a fold keeps, the fold keeps. -/
theorem foldl_keeps {P : β → Prop} {f : β → α → β} (hf : ∀ s x, P s → P (f s x)) (xs : List α) : ∀ s, P s → P (xs.foldl f s) := by
  induction xs with
  | nil => intro s h; exact h
  | cons x xs ih => intro s h; exact ih _ (hf s x h)

/-- The memory of a state is in its canonical form. -/
abbrev State.memWf (s : State) : Prop := Mem.wf s.mem = true

theorem State.memWf_writePa {s : State} (h : s.memWf) (pa : Nat) (bs : List Byte) : (s.writePa pa bs).memWf := Mem.wf_writeBytes bs _ _ h

@[simp] theorem State.writeSlice_mem (s : State) (agent off : Nat) (bs : List Byte) (owner : Nat) :
    (s.writeSlice agent off bs owner).mem = Mem.writeBytes s.mem (slicePa agent off) bs := rfl

theorem State.memWf_writeSlice {s : State} (h : s.memWf) (agent off : Nat) (bs : List Byte) (owner : Nat) :
    (s.writeSlice agent off bs owner).memWf := Mem.wf_writeBytes bs _ _ h

theorem State.memWf_setBar {s : State} (h : s.memWf) (agent off : Nat) (o : Bar) (owner : Nat) : (s.setBar agent off o owner).memWf :=
  s.memWf_writeSlice h agent off o.bytes owner

theorem State.memWf_zeroRuns {s : State} (h : s.memWf) (runs : List (Nat × Nat)) : (s.zeroRuns runs).memWf := by
  refine foldl_keeps (P := State.memWf) (fun s x h => ?_) _ _ (Mem.wf_filter _ _ h).1
  split <;> exact h

theorem State.memWf_grantFrame {s s' : State} {color : Option Nat} {f : Nat} (h : s.memWf) (hg : s.grantFrame color = some (s', f)) : s'.memWf := by
  simp only [State.grantFrame, Option.map_eq_some_iff] at hg
  obtain ⟨g, _, hg⟩ := hg
  have e := congrArg Prod.fst hg
  subst e
  exact (Mem.wf_filter _ _ h).1

theorem State.memWf_mapPage (va : Nat) (w : Bool) (n : Nat) : ∀ {s s' : State} (level table : Nat), s.memWf → s.mapPage va w n level table = some s' → s'.memWf := by
  induction n with
  | zero => intro s s' level table h e; simp only [State.mapPage, Option.some.injEq] at e; exact e ▸ h
  | succ n ih =>
    intro s s' level table h e
    simp only [State.mapPage] at e
    split at e
    · split at e
      · simp only [Option.some.injEq] at e; exact e ▸ h
      · simp only [Option.map_eq_some_iff] at e
        obtain ⟨⟨s1, f⟩, hg, e⟩ := e
        exact e ▸ State.memWf_writePa (State.memWf_grantFrame h hg) _ _
    · split at e
      · split at e
        · exact ih _ _ h e
        · simp only [Option.some.injEq] at e; exact e ▸ h
      · split at e
        · simp at e
        · rename_i s1 f hg
          exact ih _ _ (State.memWf_writePa (State.memWf_grantFrame h hg) _ _) e

theorem State.memWf_writeVa {s : State} (h : s.memWf) (p va : Nat) (bs : List Byte) : (s.writeVa p va bs).memWf := by
  unfold State.writeVa
  refine foldl_keeps (P := State.memWf) (fun s x h => ?_) _ _ h
  obtain ⟨a, n⟩ := x
  dsimp only
  split
  · exact State.memWf_writePa h _ _
  · exact h

theorem State.memWf_mapRun {s s' : State} {p va len : Nat} {w : Bool} (h : s.memWf) (e : s.mapRun p va len w = some s') : s'.memWf := by
  have k : ∀ (root : Nat) (xs : List (Nat × Nat)) (o : Option State), (∀ t, o = some t → t.memWf) →
      ∀ t, xs.foldl (fun s x => s.bind fun s => s.mapPage x.1 w 4 1 root) o = some t → t.memWf := by
    intro root xs
    induction xs with
    | nil => intro o ho t et; exact ho t et
    | cons x xs ih =>
      intro o ho t et
      refine ih _ (fun u hu => ?_) t et
      obtain ⟨v, hv, hu⟩ := Option.bind_eq_some_iff.mp hu
      exact State.memWf_mapPage _ _ _ _ _ (ho v hv) hu
  exact k _ _ (some s) (fun t et => by simp only [Option.some.injEq] at et; exact et ▸ h) s' e

theorem State.memWf_unmapRun {s : State} (h : s.memWf) (p va len : Nat) : (s.unmapRun p va len).memWf := by
  unfold State.unmapRun
  refine foldl_keeps (P := State.memWf) (fun s x h => ?_) _ _ h
  split
  · split
    · exact State.memWf_writePa h _ _
    · exact h
  · exact h

end Sys2Proof.Machine
end

