-- ==== Sys2Proof/Laws/Rows.lean ====
section
/-! SUPPORT. Rows as lists of elements: the element that packing and unpacking put in each place (R41). -/
namespace Sys2Proof.Machine

theorem unpack_length (w n x : Nat) : (unpack w n x).length = n := by
  induction n generalizing x with
  | zero => rfl
  | succ n ih => simp [unpack, ih]

/-- Element `k` of an unpacked integer. -/
theorem unpack_getD (w n x k : Nat) (h : k < n) : (unpack w n x).getD k 0 = x / 2 ^ (w * k) % 2 ^ w := by
  induction n generalizing x k with
  | zero => omega
  | succ n ih =>
    cases k with
    | zero => simp [unpack]
    | succ k =>
      simp only [unpack, List.getD_cons_succ]
      rw [ih _ _ (by omega), Nat.div_div_eq_div_mul, ← Nat.pow_add, Nat.mul_succ, Nat.add_comm w]

/-- Element `k` of a packed list. -/
theorem pack_getD (w : Nat) (xs : List Nat) (k : Nat) : pack w xs / 2 ^ (w * k) % 2 ^ w = xs.getD k 0 % 2 ^ w := by
  induction xs generalizing k with
  | nil => simp [pack]
  | cons x xs ih =>
    cases k with
    | zero => simp [pack, Nat.add_mul_mod_self_left]
    | succ k =>
      have hlt : x % 2 ^ w < 2 ^ w := Nat.mod_lt _ (Nat.two_pow_pos w)
      simp only [pack, List.getD_cons_succ]
      rw [Nat.mul_succ, Nat.add_comm (w * k), Nat.pow_add, ← Nat.div_div_eq_div_mul, Nat.add_mul_div_left _ _ (Nat.two_pow_pos w),
        Nat.div_eq_of_lt hlt, Nat.zero_add, ih]

theorem pack_lt (w : Nat) (xs : List Nat) : pack w xs < 2 ^ (w * xs.length) := by
  induction xs with
  | nil => simp [pack]
  | cons x xs ih =>
    have hlt : x % 2 ^ w < 2 ^ w := Nat.mod_lt _ (Nat.two_pow_pos w)
    simp only [pack, List.length_cons, Nat.mul_succ, Nat.pow_add, Nat.mul_comm (2 ^ (w * xs.length))]
    calc x % 2 ^ w + 2 ^ w * pack w xs < 2 ^ w + 2 ^ w * pack w xs := by omega
      _ = 2 ^ w * (pack w xs + 1) := by rw [Nat.mul_add, Nat.mul_one, Nat.add_comm]
      _ ≤ 2 ^ w * 2 ^ (w * xs.length) := Nat.mul_le_mul_left _ ih

theorem rowElems_length (w : Nat) (r : Row) : (rowElems w r).length = 2048 / w := unpack_length _ _ _

/-- Element `k` of a row. -/
theorem rowElems_getD (w : Nat) (r : Row) (k : Nat) (h : k < 2048 / w) : (rowElems w r).getD k 0 = r.toNat / 2 ^ (w * k) % 2 ^ w :=
  unpack_getD _ _ _ _ h

/-- Element `k` of a row made of a list. -/
theorem rowOfElems_getD (w : Nat) (xs : List Nat) (k : Nat) (h : k < 2048 / w) :
    (rowOfElems w xs).toNat / 2 ^ (w * k) % 2 ^ w = xs.getD k 0 % 2 ^ w := by
  have hk : w * k + w ≤ 2048 := by
    have := Nat.mul_le_mul_left w (Nat.succ_le_of_lt h)
    rw [Nat.mul_succ] at this
    exact Nat.le_trans this (Nat.mul_div_le _ _)
  have e : 2 ^ 2048 = 2 ^ (w * k) * 2 ^ (2048 - w * k) := by rw [← Nat.pow_add]; congr 1; omega
  rw [rowOfElems, BitVec.toNat_ofNat, e, Nat.mod_mul_right_div_self, ← pack_getD w xs k]
  exact Nat.mod_mod_of_dvd _ (Nat.pow_dvd_pow 2 (by omega))

end Sys2Proof.Machine
end

