-- ==== Sys2Proof/Laws/Vector.lean ====
section
/-! SUPPORT. What the shared evaluations of vector and mask instructions do when their operands are clear. -/
namespace Sys2Proof.Machine

theorem View.vcheck_ok {v : View} {us : List Use} {ms : List (Fin 8)} (h : Clear v us ms (some v.etype.width)) : v.vcheck us ms = .ok () := by
  simp only [View.vcheck, h.check, h.room]; rfl

theorem vector1_gives {f : EType → Rnd → Row → Row} {l : Nat} {d a : BitVec 7} {sc : BitVec 3} {s : State} {c : Ctx} (hi : Issues s c)
    (h : Clear (s.view c) (vusesDA d a) [] (some (s.view c).etype.width)) :
    Gives (runView (vector1 f l d a sc) s) (s.view c) d
      (.vector (f (s.view c).etype (s.view c).rnd ((s.view c).vector (s.view c).etype 2 a))) sc :=
  runView_gives (s.view c) ((s.view c).touchSources _) hi rfl (by simp) (by simp) (by simp only [vector1, View.vcheck_ok h]; rfl)

theorem vector2_gives {f : EType → Rnd → Row → Row → Row} {l : Nat} {d a b : BitVec 7} {sc : BitVec 3} {s : State} {c : Ctx}
    (hi : Issues s c) (h : Clear (s.view c) (vusesDAB d a b) [] (some (s.view c).etype.width)) :
    Gives (runView (vector2 f l d a b sc) s) (s.view c) d
      (.vector (f (s.view c).etype (s.view c).rnd ((s.view c).vector (s.view c).etype 2 a) ((s.view c).vector (s.view c).etype 3 b))) sc :=
  runView_gives (s.view c) ((s.view c).touchSources _) hi rfl (by simp) (by simp) (by simp only [vector2, View.vcheck_ok h]; rfl)

theorem vector3_gives {f : EType → Rnd → Row → Row → Row → Row} {l : Nat} {d a b : BitVec 7} {sc : BitVec 3} {s : State} {c : Ctx}
    (hi : Issues s c) (h : Clear (s.view c) (vusesRwAB d a b) [] (some (s.view c).etype.width)) :
    Gives (runView (vector3 f l d a b sc) s) (s.view c) d
      (.vector (f (s.view c).etype (s.view c).rnd ((s.view c).vector (s.view c).etype 2 a) ((s.view c).vector (s.view c).etype 3 b)
        ((s.view c).vector (s.view c).etype 1 d))) sc :=
  runView_gives (s.view c) ((s.view c).touchSources _) hi rfl (by simp) (by simp) (by simp only [vector3, View.vcheck_ok h]; rfl)

theorem vcompare_marks {cond : Option Int → Bool} {kd kg : BitVec 3} {a b : BitVec 7} {sc : BitVec 3} {s : State} {c : Ctx} (hi : Issues s c)
    (h : Clear (s.view c) [⟨2, a, .src true⟩, ⟨3, b, .src true⟩] (govMasks kg) (some (s.view c).etype.width)) :
    Marks (runView (vcompare cond kd kg a b sc) s) (s.view c) (kIx kd)
      (compareMask cond (s.view c).etype ((s.view c).governing (kIx kg)) ((s.view c).vector (s.view c).etype 2 a)
        ((s.view c).vector (s.view c).etype 3 b)) sc :=
  runView_marks (s.view c) ((s.view c).touchSources _) hi rfl (by simp) (by simp) (by simp only [vcompare, View.vcheck_ok h]; rfl)

/-! ## Elements of the elementwise maps -/

theorem map1_getD (t : EType) (f : Nat → Nat) (a : Row) (k : Nat) (h : k < 2048 / t.width) :
    (map1 t f a).toNat / 2 ^ (t.width * k) % 2 ^ t.width = f (a.toNat / 2 ^ (t.width * k) % 2 ^ t.width) % 2 ^ t.width := by
  rw [map1, rowOfElems_getD _ _ _ h, ← rowElems_getD _ _ _ h]
  simp [List.getD_eq_getElem?_getD, rowElems_length, h]

theorem map2_getD (t : EType) (f : Nat → Nat → Nat) (a b : Row) (k : Nat) (h : k < 2048 / t.width) :
    (map2 t f a b).toNat / 2 ^ (t.width * k) % 2 ^ t.width =
      f (a.toNat / 2 ^ (t.width * k) % 2 ^ t.width) (b.toNat / 2 ^ (t.width * k) % 2 ^ t.width) % 2 ^ t.width := by
  rw [map2, rowOfElems_getD _ _ _ h, ← rowElems_getD _ _ _ h, ← rowElems_getD _ _ _ h]
  simp [List.getD_eq_getElem?_getD, rowElems_length, h]

theorem map3_getD (t : EType) (f : Nat → Nat → Nat → Nat) (a b d : Row) (k : Nat) (h : k < 2048 / t.width) :
    (map3 t f a b d).toNat / 2 ^ (t.width * k) % 2 ^ t.width =
      f (a.toNat / 2 ^ (t.width * k) % 2 ^ t.width) (b.toNat / 2 ^ (t.width * k) % 2 ^ t.width) (d.toNat / 2 ^ (t.width * k) % 2 ^ t.width) %
        2 ^ t.width := by
  rw [map3, rowOfElems_getD _ _ _ h, ← rowElems_getD _ _ _ h, ← rowElems_getD _ _ _ h, ← rowElems_getD _ _ _ h]
  simp [List.getD_eq_getElem?_getD, rowElems_length, h]

end Sys2Proof.Machine
end

