-- ==== Sys2Proof/Tests/Slice0.lean ====
section
/-! SUPPORT. The model's own tests: words of the manual and its worked examples, ill-formed terms, and a witness for the hypotheses of each
statement. -/
set_option Elab.async false

namespace Sys2Proof.Tests
open Sys2Proof Sys2Proof.Machine

/-! ## Words (R62, R81 to R89): the manual's own examples -/

def decodes (w : BitVec 32) : Option Instr := (decodeWord w).toOption
def refuses (w : BitVec 32) : Option Reject := match decodeWord w with | .error r => some r | .ok _ => none

theorem test_decode_mul : decodes 0x0324810a = some (.mul 18 32 33 2) := by decide
theorem test_decode_add : decodes 0x00260111 = some (.add 19 0 34 1) := by decide
theorem test_decode_div : decodes 0x062a8108 = some (.div 21 32 33 0) := by decide
theorem test_decode_shri : decodes 0x152851f8 = some (.shri 20 20 63 0) := by decide
theorem test_decode_ldhi : decodes 0x2a2c0200 = some (.ldhi 22 0x40 0) := by decide
theorem test_decode_sel : decodes 0x24004d80 = some (.sel 0 19 48 0) := by decide
theorem test_decode_bnz : decodes 0x3725ffe0 = some (.bnz 18 (BitVec.ofInt 14 (-4)) 0) := by decide
theorem test_decode_loop : decodes 0x3c25fff0 = some (.loop 18 (BitVec.ofInt 14 (-2)) 0) := by decide
theorem test_decode_jl : decodes 0x39000030 = some (.jl 6 0) := by decide
theorem test_decode_jr : decodes 0x3a00bc00 = some (.jr 47 0) := by decide
theorem test_decode_nop : decodes 0x3e000003 = some (.nop 3) := by decide
theorem test_decode_vset : decodes 0x40240040 = some (.vset 18 8 0) := by decide
theorem test_decode_vsel : decodes 0x56070610 = some (.vsel 3 65 66 0) := by decide
theorem test_decode_vcmplt : decodes 0x54110180 = some (.vcmplt 1 0 64 48 0) := by decide
theorem test_decode_vcvt : decodes 0x57870148 = some (.vcvt 67 64 0x29 0) := by decide
theorem test_decode_kset : decodes 0x75208000 = some (.kset 2 32 0) := by decide
theorem test_decode_tail : decodes 0xad000000 = some (.tail 0) := by decide
theorem test_decode_ecfg : decodes 0xb9345000 = some (.ecfg 3 2 20 0) := by decide
theorem test_decode_sclaim : decodes 0xc8104c00 = some (.sclaim 19 0) := by decide
theorem test_decode_mma : decodes 0xcb124ca0 = some (.mma 1 19 20 0) := by decide
theorem test_decode_xform : decodes 0xd9304ca0 = some (.xform 0 19 20 0) := by decide
theorem test_decode_dcons : decodes 0xe9424ca0 = some (.dcons 1 19 20 0) := by decide
theorem test_decode_crd : decodes 0xf0261000 = some (.crd 19 0x200 0) := by decide
theorem test_decode_cwr : decodes 0xf1262000 = some (.cwr 19 0x400 0) := by decide
/-- R68: entry 5 of the dictionary. -/
theorem test_decode_dictionary : (decode [0x05, 0xfc]).toOption = some (.dictionaryParcel 5, []) := by decide

/-- R63, R68, R79, R84 to R89: words that are no instruction. -/
theorem test_refuses_unused : refuses 0x192650a8 = some .unusedField := by decide
theorem test_refuses_count : refuses 0x14264e00 = some .unassignedValue := by decide
theorem test_refuses_kind : refuses 0x638d0700 = some .unassignedValue := by decide
theorem test_refuses_scope : refuses 0xa3520000 = some .unassignedValue := by decide
theorem test_refuses_macc : refuses 0xcd1a0000 = some .unassignedValue := by decide
theorem test_refuses_opcode : refuses 0x76000000 = some .reservedOpcode := by decide
theorem test_refuses_absent : refuses 0xfb00fb00 = some .reservedOpcode := by decide

/-! ## Ill-formed terms: one for each check of WellFormed -/

theorem test_ill_shiftCount : (Instr.shli 19 19 64 0).wellFormed = false := by decide
theorem test_ill_bitWidth : (Instr.sext 19 19 0 0).wellFormed = false ∧ (Instr.zext 19 19 65 0).wellFormed = false := by decide
theorem test_ill_vtypeValue : (Instr.vset 18 64 0).wellFormed = false ∧ (Instr.vset 18 9 0).wellFormed = false := by decide
theorem test_ill_vcvtSelector : (Instr.vcvt 67 64 11 0).wellFormed = false := by decide
theorem test_ill_vcvtsSelector : (Instr.vcvts 67 64 8 0).wellFormed = false ∧ (Instr.vcvts 67 64 0x39 0).wellFormed = false := by decide
theorem test_ill_vshufSelector : (Instr.vshuf 70 65 0x60 0).wellFormed = false ∧ (Instr.vshuf 70 65 0x41 0).wellFormed = false := by decide
theorem test_ill_windowCode : (Instr.spcast 20 19 6 0).wellFormed = false := by decide
theorem test_ill_fenceCodes : (Instr.fence 5 0 0).wellFormed = false ∧ (Instr.fence 0 4 0).wellFormed = false := by decide
theorem test_ill_priority : (Instr.prio 19 8 0).wellFormed = false := by decide
theorem test_ill_engineCode : (Instr.cpush 5 16 0).wellFormed = false := by decide
theorem test_ill_ringQuery : (Instr.ringq 4 19 0).wellFormed = false := by decide
theorem test_ill_foldOperation : (Instr.coll 4 19 20 0).wellFormed = false := by decide
theorem test_ill_consolidationMode : (Instr.dcons 2 19 20 0).wellFormed = false := by decide
/-- R2, R7: agents, tiles, berths, memory cores, dies and partitions out of range. -/
theorem test_ill_numbers : [Instr.curbWrite 5248 0, .branchResolve 0 4, .bkconfWrite 0 0, .stealRequest 4096, .collectivePull 4096 0,
    .collectiveDelivery 0 0 4096, .pageTableWalk 4096 64 0, .dieFailed 64, .bringDown 64].all (fun i => !i.wellFormed) = true := by decide

/-! ## One step of a small machine -/

/-- A context of launch 1 with 64 rows, its registers given. -/
def ctxOf (g : Nat → Nat) (rows : Rows := []) (task : TaskRec := {}) : Ctx :=
  { ctxnum := 1, g := Vector.ofFn fun i => BitVec.ofNat 64 (g i), cr := { mwl := 64 }, rows := rows, task := task }

/-- Launch 1, of one tile: its stage 0 and its trap handler. -/
def launch1 : Launch := { regions := [(0, 0x1000)], trapEntry := 0x800, stages := [(0, { chan := 0, handler := 0 })] }

/-- Tile 0 with a context in berth 0, in a state whose clock stands at 100. -/
def stateOf (c : Ctx) (t : Tile := {}) : State :=
  { now := 100, chron := 100, launches := [(1, launch1)], parts := [(0, { valid := true })],
    tiles := [(0, { t with owner := 1, berths := #v[{ ctx := some c }, {}, {}, {}] })] }

/-- The next state of an instruction; of another outcome the state itself. -/
def after (i : Instr) (s : State) : State := match exec i s with | .next t => t | _ => s
def ctxIn (s : State) : Ctx := (s.ctx? 0 0).getD {}
def gIn (s : State) (n : Fin 32) : Word := (ctxIn s).g[n]
def q1In (s : State) : QSlot := (ctxIn s).q.entry 1
/-- What an instruction leaves in g(n), from registers. -/
def gAfter (i : Instr) (g : Nat → Nat) (n : Fin 32) : Word := gIn (after i (stateOf (ctxOf g))) n
/-- The cause and value of the trap that an instruction takes. -/
def trapOf (i : Instr) (s : State) : Nat × Word := ((ctxIn (after i s)).cr.trapcause.toNat, (ctxIn (after i s)).cr.trapval)

/-- Registers by number, zero elsewhere. -/
def only (xs : List (Nat × Nat)) (n : Nat) : Nat := (lookup n xs).getD 0

/-! ### Scalar instructions (R127 to R138): the manual's examples. g3 is code 19. -/

theorem test_add_wraps : gAfter (.add 19 20 21 0) (only [(4, 2 ^ 64 - 1), (5, 3)]) 3 = 2 := by decide +kernel
theorem test_sub_negates : gAfter (.sub 19 48 20 0) (only [(4, 5)]) 3 = BitVec.ofInt 64 (-5) := by decide +kernel
theorem test_mulh : gAfter (.mulh 19 20 20 0) (only [(4, 2 ^ 63)]) 3 = 0x4000000000000000 := by decide +kernel
theorem test_divn : gAfter (.divn 19 20 21 0) (only [(4, 2 ^ 64 - 7), (5, 2)]) 3 = 0x7ffffffffffffffc := by decide +kernel
theorem test_div_overflow : gAfter (.div 19 20 21 0) (only [(4, 2 ^ 63), (5, 2 ^ 64 - 1)]) 3 = 0x8000000000000000 := by decide +kernel
theorem test_rem_sign : gAfter (.rem 19 20 21 0) (only [(4, 2 ^ 64 - 7), (5, 2)]) 3 = BitVec.ofInt 64 (-1) := by decide +kernel
theorem test_remn_zero : gAfter (.remn 19 20 21 0) (only [(4, 5)]) 3 = 5 := by decide +kernel
theorem test_shl_count_65 : gAfter (.shl 19 20 21 0) (only [(4, 3), (5, 65)]) 3 = 6 := by decide +kernel
theorem test_shrai_sign : gAfter (.shrai 19 20 63 0) (only [(4, 2 ^ 63)]) 3 = BitVec.ofInt 64 (-1) := by decide +kernel
theorem test_clz_zero : gAfter (.clz 19 20 0) (only []) 3 = 64 := by decide +kernel
theorem test_sel : gAfter (.sel 19 20 21 0) (only [(3, 2), (4, 77), (5, 88)]) 3 = 77 := by decide +kernel
theorem test_sext : gAfter (.sext 19 20 8 0) (only [(4, 0x1f0)]) 3 = 0xfffffffffffffff0 := by decide +kernel
theorem test_bfx : gAfter (.bfx 19 20 21 0) (only [(4, 0x12345678), (5, 0x0808)]) 3 = 0x56 := by decide +kernel
theorem test_bfx_signed : gAfter (.bfx 19 20 21 0) (only [(4, 0xf0), (5, 0x10800)]) 3 = BitVec.ofInt 64 (-16) := by decide +kernel
theorem test_bfi : gAfter (.bfi 19 20 21 0) (only [(3, 0xffff), (5, 0x0404)]) 3 = 0xff0f := by decide +kernel
theorem test_ldhi : gAfter (.ldhi 36 4 0) (only [(20, 0x10)]) 20 = 0x40004 := by decide +kernel
theorem test_lea_wraps : gAfter (.lea 19 20 (BitVec.ofInt 7 (-1)) 0) (only [(4, 0x1005000000000000)]) 3 = 0x100500000001fff8 := by decide +kernel
/-- R11, R64: a result to g3 is pushed as well, and one to Z is not. -/
theorem test_push : q1In (after (.addi 19 48 7 0) (stateOf (ctxOf (only [])))) = .scalar 7 4196 := by decide +kernel
theorem test_discard : q1In (after (.addi 48 48 7 0) (stateOf (ctxOf (only [])))) = .empty := by decide +kernel
/-- R80: D is checked before A. -/
theorem test_illopnd : trapOf (.add 50 51 0 0) (stateOf (ctxOf (only []))) = (Cause.illopnd, 256 + 50) := by decide +kernel

/-! ### Control (R139 to R147) -/

/-- R139, R144: an untaken branch leaves its fall-through standing; a taken one runs on at its target. -/
theorem test_branch : (ctxIn (after (.branchResolve 0 0) (after (.bz 20 (BitVec.ofInt 14 (-2)) 0)
    (stateOf { ctxOf (only []) with pc := 0x100 })))).pc = 0xfc := by decide +kernel
theorem test_branch_untaken : (ctxIn (after (.branchResolve 0 0) (after (.bnz 20 (BitVec.ofInt 14 (-2)) 0)
    (stateOf { ctxOf (only []) with pc := 0x100 })))).pc = 0x104 := by decide +kernel
theorem test_loop_counter_zero : gAfter (.loop 20 0 0) (only []) 4 = 0xffffffffffffffff := by decide +kernel
theorem test_jl_link : q1In (after (.jl 6 0) (stateOf { ctxOf (only []) with pc := 0x10 })) = .scalar 0x14 4196 := by decide +kernel
theorem test_jr_bit0 : (ctxIn (after (.branchResolve 0 0) (after (.jr 20 0) (stateOf (ctxOf (only [(4, 0x201)])))))).pc = 0x200 := by decide +kernel
theorem test_nop_spacing : ((after (.nop 7) (stateOf (ctxOf (only [])))).berth 0 0).nextIssue = 108 := by decide +kernel

/-! ### Vectors and masks (R148 to R173). w0 is code 64 and row 0; VTYPE 0 is s8, 4 is s32, 8 is f32. -/

/-- A vector context: VTYPE and rows. -/
def vctx (vt : BitVec 6) (rows : Rows := []) (g : Nat → Nat := only []) : Ctx := { ctxOf g rows with cr := { vtype := vt, mwl := 64 } }
/-- Element 0 of a row after an instruction, `w` bits wide, and element `k` of the newest queue entry. -/
def elemAfter (i : Instr) (c : Ctx) (n w k : Nat) : Nat := (rowsGet (ctxIn (after i (stateOf c))).rows n).toNat / 2 ^ (w * k) % 2 ^ w
def pushed (i : Instr) (c : Ctx) (w k : Nat) : Nat :=
  match q1In (after i (stateOf c)) with
  | .vector r _ => r.toNat / 2 ^ (w * k) % 2 ^ w
  | .scalar x _ => x.toNat / 2 ^ (w * k) % 2 ^ w
  | .empty => 0
def maskIn (s : State) (k : Fin 8) : Mask := (ctxIn s).k[k]

theorem test_vset : gAfter (.vset 18 8 0) (only []) 2 = 64 := by decide +kernel
theorem test_vset_vtype : (ctxIn (after (.vset 18 0x20 0) (stateOf (ctxOf (only []))))).cr.vtype = 0x20 := by decide +kernel
theorem test_vadd_wraps : elemAfter (.vadd 66 64 65 0) (vctx 0 [(0, 200), (1, 100)]) 2 8 0 = 44 := by decide +kernel
theorem test_vadd_f32 : elemAfter (.vadd 66 64 65 0) (vctx 8 [(0, 0x3f800000), (1, 0x40000000)]) 2 32 0 = 0x40400000 := by decide +kernel
theorem test_vsub_lid : elemAfter (.vsub 66 49 19 0) (vctx 4 [] (only [(3, 20)])) 2 32 0 = 2 ^ 32 - 20 := by decide +kernel
theorem test_vnmad : elemAfter (.vnmad 66 64 65 0) (vctx 4 [(0, 3), (1, 5), (2, 20)]) 2 32 0 = 5 := by decide +kernel
theorem test_vclamp : elemAfter (.vclamp 64 20 21 0) (vctx 4 [(0, 44)] (only [(4, 2 ^ 64 - 5), (5, 30)])) 0 32 0 = 30 := by decide +kernel
theorem test_vcmplt : maskIn (after (.vcmplt 1 0 64 48 0) (stateOf (vctx 4 [(0, 2 ^ 31)]))) 1 = 1 := by decide +kernel
theorem test_kset : maskIn (after (.kset 2 32 0) (stateOf (vctx 8 [] (only [(16, 70)])))) 2 = 2 ^ 70 - 1 := by decide +kernel
/-- R173: under f32 a mask with bit 100 alone counts 0 and has its first at 64. -/
theorem test_kpop : pushed (.kpop 1 0) { vctx 8 with k := (Vector.replicate 8 0).set 1 (2 ^ 100) } 64 0 = 0 := by decide +kernel
theorem test_kfirst : pushed (.kfirst 1 0) { vctx 8 with k := (Vector.replicate 8 0).set 1 (2 ^ 100) } 64 0 = 64 := by decide +kernel
/-- R165: a count of 200 in s8 reads as −56. -/
theorem test_viota : pushed (.viota 0 0) (vctx 0) 8 200 = 200 := by decide +kernel
/-- R163: with no active element VREDMX of s8 gives −128. -/
theorem test_vredmx_identity : pushed (.vredmx 1 64 0) (vctx 0) 64 0 = 0xffffffffffffff80 := by decide +kernel
theorem test_vred : pushed (.vred 0 64 0) (vctx 4 [(0, 7 * 2 ^ 32 + 5)]) 64 0 = 12 := by decide +kernel
theorem test_vshuf_reverse : elemAfter (.vshuf 65 64 0x40 0) (vctx 0 [(0, 9)]) 1 8 255 = 9 := by decide +kernel
theorem test_vshuf_traps : trapOf (.vshuf 65 64 7 0) (stateOf (vctx 8)) = (Cause.illegal, 0) := by decide +kernel
theorem test_vbcast_past : elemAfter (.vbcast 65 64 20 0) (vctx 8 [(0, 1)] (only [(4, 64)])) 1 32 0 = 0 := by decide +kernel
theorem test_vext_signed : gAfter (.vext 19 64 48 0) (only []) 3 = 0 := by decide +kernel
theorem test_vexp2_overflow : elemAfter (.vexp2 65 64 0) (vctx 8 [(0, 0x43480000)]) 1 32 0 = 0x7f800000 := by decide +kernel
theorem test_vsqrt : elemAfter (.vsqrt 65 64 0) (vctx 8 [(0, 0x40800000)]) 1 32 0 = 0x40000000 := by decide +kernel
theorem test_vdiv_zero : elemAfter (.vdiv 66 64 65 0) (vctx 4 [(0, 7)]) 2 32 0 = 2 ^ 32 - 1 := by decide +kernel
/-- R162: a largest magnitude of 24.0 gives the scale 0x83 and the code 0x48. -/
theorem test_vcvts_scale : pushed (.vcvts 19 64 0x19 0) (vctx 8 [(0, 0x41c00000)]) 8 0 = 0x83 := by decide +kernel
theorem test_vcvts_code : elemAfter (.vcvts 65 64 9 0) (vctx 8 [(0, 0x41c00000)]) 1 8 0 = 0x48 := by decide +kernel
theorem test_vcvt_f32_f16 : elemAfter (.vcvt 65 64 0x16 0) (vctx 8 [(0, 0x3f800000)]) 1 16 0 = 0x3c00 := by decide +kernel

/-! ### Memory, atomics, barriers (R174 to R199). Near pointers of tile 0: window 1, tag TILEV. -/

/-- Bytes of tile 0's slice. -/
def withMem (off : Nat) (bs : List Nat) (s : State) : State := s.writeSlice 0 off (bs.map (BitVec.ofNat 8)) 1
def nearAt (off : Nat) : Nat := 2 ^ 60 + off
/-- g4 holds a near pointer, g5 a value. -/
def memState (off x : Nat) (bs : List Nat := []) : State := withMem off bs (stateOf (ctxOf (only [(4, nearAt off), (5, x)])))
def sliceIn (s : State) (off : Nat) : Byte := Mem.read s.mem (slicePa 0 off)

theorem test_ldb_sign : gIn (after (.ldb 19 20 0 0) (memState 0x100 0 [0x80])) 3 = 0xffffffffffffff80 := by decide +kernel
theorem test_ldhn_order : gIn (after (.ldhn 19 20 0 0) (memState 0x100 0 [0x34, 0x92])) 3 = 0x9234 := by decide +kernel
theorem test_ldd_step : gIn (after (.ldd 19 20 (BitVec.ofInt 7 (-1)) 0) (withMem 0xf8 [7] (memState 0x100 0))) 3 = 7 := by decide +kernel
/-- R175: a pointer that is not aligned is WINDOW with the pointer in TRAPVAL. -/
theorem test_ldw_misaligned : trapOf (.ldw 19 20 0 0) (memState 0x102 0) = (Cause.window, 0x1000000000000102) := by decide +kernel
/-- R176, R294: a store is read back by its berth, and memory has it once its segment commits. -/
theorem test_store_own : gIn (after (.ldd 19 20 0 0) (after (.std 21 20 0 0) (memState 0x100 0x1234))) 3 = 0x1234 := by decide +kernel
theorem test_store_commits : sliceIn (after (.std 21 20 0 0) (memState 0x100 0x1234)) 0x100 = 0 ∧
    sliceIn (after (.fence 0 1 0) (after (.std 21 20 0 0) (memState 0x100 0x1234))) 0x101 = 0x12 := by decide +kernel
theorem test_stp : (rowsGet (ctxIn (after (.stp 21 20 0 0) (stateOf (ctxOf (only [(4, 264), (5, 9)]))))).rows 1).toNat = 9 * 2 ^ 64 := by decide +kernel
theorem test_vld : elemAfter (.vld 65 20 0 0) ((ctxOf (only [(4, nearAt 0x40)]))) 1 8 0 = 0 := by decide +kernel
theorem test_vld_misaligned : trapOf (.vld 65 20 0 0) (memState 0x20 0) = (Cause.window, 0x1000000000000020) := by decide +kernel
theorem test_aadd_old : gIn (after (.aadd 19 20 21 0) (memState 0x100 3 [5])) 3 = 5 ∧
    sliceIn (after (.aadd 19 20 21 0) (memState 0x100 3 [5])) 0x100 = 8 := by decide +kernel
theorem test_acas_fails : sliceIn (after (.acas 19 20 21 0) (memState 0x100 3 [5])) 0x100 = 5 := by decide +kernel
/-- R190: with TILEV 5, the near pointer becomes a cube pointer. -/
theorem test_spcast : gIn (after (.spcast 20 19 3 0) (stateOf { ctxOf (only [(3, 0x1005000000001a40)]) with cr := { mwl := 64, tilev := 5 } })) 4 =
    0x3005000000001a40 := by decide +kernel
theorem test_sptest : gIn (after (.sptest 19 20 0) (memState 0x100 0)) 3 = 0x71 := by decide +kernel
/-- R197 to R199: a barrier of one arrival completes its phase, and BARTST moves on to phase 1. -/
theorem test_barrier : q1In (after (.bartstObserve 20 0) (after (.bararr 20 21 0) (after (.barinit 20 21 0) (memState 0x100 1)))) = .scalar 1 4196 := by
  decide +kernel
theorem test_bararr_count : trapOf (.barinit 20 48 0) (memState 0x100 1) = (Cause.illegal, 0) := by decide +kernel
/-- R187: a PUT joins the open segment, and a GET of another window with a bad offset is no trap at issue. -/
theorem test_put_joins : (ctxIn (after (.put 64 20 21 0) (stateOf (ctxOf (only [(4, 3 * 2 ^ 60)]))))).buf.length = 1 := by decide +kernel
theorem test_get_fault : (ctxIn (after (.get 64 20 21 0) (stateOf (ctxOf (only [(4, 3 * 2 ^ 60 + 8)]))))).fault = some (Cause.window, 0x3000000000000008) := by
  decide +kernel

/-! ### Tasks, messages and launches (R200 to R214) -/

theorem test_tail_frees : (after (.tail 0) (stateOf (ctxOf (only [])))).ctx? 0 0 = none := by decide +kernel
/-- R205: a coordinate beyond the field is refused, and a message of the field is queued. -/
theorem test_send_refused : gIn (after (.send 19 20 32 0) (stateOf (ctxOf (only [(4, 1)])))) 3 = 2 := by decide +kernel
theorem test_send_queued : gIn (after (.send 19 20 32 0) (stateOf (ctxOf (only [(4, 0x10000)])))) 3 = 0 := by decide +kernel
theorem test_spawn : (ctxIn (after (.spawn 20 32 0) (stateOf (ctxOf (only [(4, 0x41)]))))).buf.length = 1 := by decide +kernel
theorem test_split_trigger : trapOf (.split 20 21 0) (stateOf (ctxOf (only [(5, 8)]))) = (Cause.illegal, 8) := by decide +kernel
theorem test_prio : ((after (.prio 20 5 0) (stateOf (ctxOf (only [(4, 2)])))).tile 0).channels[(2 : Fin 16)].base = 5 := by decide +kernel
theorem test_prio_channel : trapOf (.prio 20 5 0) (stateOf (ctxOf (only [(4, 12)]))) = (Cause.illegal, 12) := by decide +kernel
theorem test_launch_window : trapOf (.launch 19 20 0) (memState 0x108 0) = (Cause.window, 0x1000000000000108) := by decide +kernel

/-! ### Engines and rings (R215 to R225) -/

/-- A ring descriptor: base 0x1000, 4 elements of 16 bytes. -/
def ringState : State := withMem 0x100 [0, 0x10, 0, 0, 2, 4] (stateOf (ctxOf (only [(4, 3), (5, 0x100), (6, 2)])))

theorem test_ringi : ((after (.ringi 0 20 21 0) ringState).tile 0).rings[(3 : Fin 16)] =
    { valid := true, eng := 0, base := 0x1000, lg := 2, esl := 4, prod := 0, cons := 0 } := by decide +kernel
theorem test_ringi_number : trapOf (.ringi 0 21 21 0) ringState = (Cause.illegal, 0x100) := by decide +kernel
theorem test_ringp : q1In (after (.ringq 0 20 0) (after (.ringp 20 22 0) (after (.ringi 0 20 21 0) ringState))) = .scalar 2 4196 := by decide +kernel
theorem test_ringc_empty : trapOf (.ringc 20 22 0) (after (.ringi 0 20 21 0) ringState) = (Cause.ringover, 3) := by decide +kernel
theorem test_cpush_engine : trapOf (.cpush 1 24 0) (stateOf (ctxOf (only [(8, 7)]))) = (Cause.illegal, 7) := by decide +kernel
theorem test_ecfg : ((after (.ecfg 0 2 20 0) (stateOf (ctxOf (only [(4, 9)])))).tile 0).eregs[(0 : Fin 5)][(2 : Fin 8)] = 9 := by decide +kernel
theorem test_coll_offset : trapOf (.coll 0 20 21 0) (stateOf (ctxOf (only [(5, 8)]))) = (Cause.illegal, 8) := by decide +kernel
theorem test_eop_rings : (trapOf (.eopCopy 20 48 0) (stateOf (ctxOf (only [])))).1 = Cause.illegal := by decide +kernel

/-! ### The matrix unit (R234 to R250) -/

theorem test_sclaim : q1In (after (.sclaim 20 0) (stateOf (ctxOf (only [(4, 0xf0)])))) = .scalar 0xf0 4196 := by decide +kernel
/-- R238: slots 0 to 15 and one more. -/
theorem test_sclaim_twice : q1In (after (.sclaim 20 0) (after (.sclaim 20 0) (stateOf (ctxOf (only [(4, 0xffff)]))))) = .scalar 0 4196 := by decide +kernel
theorem test_srels : ((after (.srels 20 0) (after (.sclaim 20 0) (stateOf (ctxOf (only [(4, 0xf0)]))))).tile 0).mx.holder = none := by decide +kernel
theorem test_mma_unclaimed : trapOf (.mma 0 20 21 0) (stateOf (ctxOf (only [(4, 0x21), (5, 32)]))) = (Cause.regwin, 1) := by decide +kernel
theorem test_macc_unheld : trapOf (.maccZeroAt0 0) (stateOf (ctxOf (only []))) = (Cause.regwin, 896) := by decide +kernel
theorem test_mstat : q1In (after (.mstatClaimed 0) (after (.sclaim 20 0) (stateOf (ctxOf (only [(4, 6)]))))) = .scalar 6 4196 := by decide +kernel
theorem test_mcap : ((after (.mcap 20 48 0) (stateOf (ctxOf (only [(4, 6)])))).tile 0).mcapkey = 6 := by decide +kernel
theorem test_sfill_enters : ((after (.sfill 20 21 0) (after (.sclaim 22 0)
    (stateOf (ctxOf (only [(4, nearAt 0x100), (5, 16 * 2 ^ 32 + 1), (6, 2)]))))).tile 0).mx.queue.length = 1 := by decide +kernel

/-! ### Expansion and delta instructions (R251 to R272) -/

theorem test_xclr_holds : ((after (.xclr 2 0) (stateOf (ctxOf (only [])))).tile 0).xu.holder = some 0 := by decide +kernel
theorem test_xshift_source : trapOf (.xshift 0 20 0) (stateOf (ctxOf (only [(4, 8)]))) = (Cause.illegal, 8) := by decide +kernel
/-- R261: coinciding clusters are not far; two leaves are near. -/
theorem test_xadm : q1In (after (.xadm 20 0) (stateOf (ctxOf (only [(4, 3)])) { xtheta := 0x3f000000 })) = .scalar 1 4196 := by decide +kernel
/-- R264: two records of one group sum to one; R266: their number. -/
def deltaState : State := memState 0x100 2 ([1] ++ List.replicate 23 0 ++ [2, 0, 0, 0] ++ List.replicate 4 0 ++ [1] ++ List.replicate 23 0 ++ [3])
theorem test_dcons : q1In (after (.dcons 0 20 21 0) deltaState) = .scalar 1 4196 := by decide +kernel
theorem test_dcons_sum : ((ctxIn (after (.dcons 0 20 21 0) deltaState)).buf.flatMap fun i => match i with | .store _ d => d | _ => [])[24]? = some 5 := by
  decide +kernel
theorem test_dfront_stage : trapOf (.dfront 20 0) (stateOf (ctxOf (only [(4, 16)]))) = (Cause.illegal, 16) := by decide +kernel

/-! ### Control registers, traps and the dictionary (R226 to R232) -/

theorem test_crd_chron : gAfter (.crd 19 0x200 0) (only []) 3 = 100 := by decide +kernel
theorem test_crd_absent : trapOf (.crd 19 0x00a 0) (stateOf (ctxOf (only []))) = (Cause.illegal, 0x00a) := by decide +kernel
theorem test_cwr_reserved : trapOf (.cwr 19 0x401 0) (stateOf (ctxOf (only [(3, 2)]))) = (Cause.illegal, 2) := by decide +kernel
/-- R227, R228: TRAP enters the handler; the frame holds the resume PC after it. -/
theorem test_trap_entry : (ctxIn (after (.trap 9 0) (stateOf (ctxOf (only []))))).pc = 0x800 ∧
    trapOf (.trap 9 0) (stateOf (ctxOf (only []))) = (Cause.soft, 9) := by decide +kernel
theorem test_tret : (ctxIn (after (.tret 0) (after (.trap 9 0) (stateOf { ctxOf (only []) with pc := 0x20 })))).pc = 0x24 := by decide +kernel
theorem test_tret_outside : (trapOf (.tret 0) (stateOf (ctxOf (only [])))).1 = Cause.illegal := by decide +kernel
theorem test_dictld_window : trapOf (.dictld 20 0) (memState 0x100 0) = (Cause.window, 0x1000000000000100) := by decide +kernel

/-! ### Events -/

/-- R456, R458: a refill of a die that used 500 microjoules. -/
theorem test_refill : lookup 0 (after (.reckonerRefill [(0, 500)]) (stateOf (ctxOf (only [])))).reck.accounts = some 124625 := by decide +kernel
/-- R458: with R = 125 and ENERGY = 250 the target is 36. -/
theorem test_ceil_target : ceilTarget 250 125 = 36 := by decide
/-- R460: a sensor above 105 degrees halves its die's rate. -/
theorem test_thermal : (after (.thermalThreshold 3 0 106) (stateOf (ctxOf (only [])))).reck.hot = [3] := by decide +kernel
/-- R452: power-on ends with boot status 7. -/
theorem test_power_on : (after (.powerOn [] 0) State.reset).stew.bootStatus = 7 := by decide +kernel
theorem test_power_fails : (after (.powerOn [] 4) State.reset).stew.bootStatus = 0x8004 := by decide +kernel

/-! ### A step (R61) -/

theorem test_step : (match step (State.reset.withFetchWord 32 0x29260028) with
    | .next t => decide (gIn t 3 = 5) && decide ((ctxIn t).pc = 4)
    | _ => false) = true := by decide +kernel


/-! ## Witnesses: for each statement with hypotheses, and each of its clauses, concrete states and operands that meet them together -/

def okUnit {ε : Type} (e : Except ε Unit) : Bool := match e with | .ok _ => true | .error _ => false
theorem ok_of {ε : Type} {e : Except ε Unit} (h : okUnit e = true) : e = .ok () := by
  cases e with
  | ok u => rfl
  | error r => cases h

/-- The view of tile 0's berth 0. -/
def vw (s : State) : View := s.view (ctxIn s)

/-- Berth 0 of tile 0 issues a word that is no replay entry. -/
def issuing (s : State) : Bool :=
  (s.ctx? 0 0).isSome && s.cur.replay.isNone && s.cur.tile == 0 && s.cur.berth == 0

theorem issues_of {s : State} (h : issuing s = true) : Issues s (ctxIn s) := by
  simp only [issuing, Bool.and_eq_true, beq_iff_eq, Option.isNone_iff_eq_none, Option.isSome_iff_exists] at h
  obtain ⟨⟨⟨⟨c, hc⟩, hr⟩, ht⟩, hb⟩ := h
  exact ⟨by rw [ht, hb, ctxIn, hc]; rfl, hr⟩

/-- Berth 0 of tile 0 issues, no branch of it is unresolved, and the operands are clear. -/
def Ready (s : State) (us : List Use) (masks : List (Fin 8) := []) (width : Option Nat := none) : Prop :=
  Issues s (ctxIn s) ∧ (vw s).specOpen = false ∧ Clear (vw s) us masks width

theorem ready {s : State} {us : List Use} {masks : List (Fin 8)} {width : Option Nat}
    (h : (issuing s && !(vw s).specOpen && okUnit ((vw s).check us masks width) && okUnit ((vw s).keepRoom us)) = true) :
    Ready s us masks width := by
  simp only [Bool.and_eq_true, Bool.not_eq_true'] at h
  exact ⟨issues_of h.1.1.1, h.1.1.2, ok_of h.1.2, ok_of h.2⟩

open Sys2Proof.Claims

/-- A berth with given g registers, and one that has an unresolved branch. -/
def gs (xs : List (Nat × Nat)) : State := stateOf (ctxOf (only xs))
def specState : State := after (.bz 20 8 0) (gs [])

/-! ### Scalar and control -/

/-- The frame of a scalar result is asked of Z, of g3 and of a row. -/
theorem witness_ScalarPairResult :
    (∃ l f, scalarPair (.add 19 20 21 0) = some (19, 20, 21, 0, l, f)) ∧ Ready (gs [(4, 1)]) (usesDAB 19 20 21) ∧
    Ready (gs []) (usesDAB 48 20 21) ∧ Ready (gs []) (usesDAB 64 20 127) := by
  exact ⟨⟨_, _, rfl⟩, ready (by decide +kernel), ready (by decide +kernel), ready (by decide +kernel)⟩
theorem witness_ScalarOneResult :
    (∃ l f, scalarOne (.sext 19 20 64 0) = some (19, 20, 0, l, f)) ∧ (Instr.sext 19 20 64 0).wellFormed = true ∧
    (Instr.sext 19 20 1 0).wellFormed = true ∧ (Instr.shli 19 20 63 0).wellFormed = true ∧ Ready (gs []) (usesDA 19 20) :=
  ⟨⟨_, _, rfl⟩, by decide, by decide, by decide, ready (by decide +kernel)⟩
theorem witness_ScalarThreeResult : (∃ f, scalarThree (.bfi 19 20 21 0) = some (19, 20, 21, 0, f)) ∧ Ready (gs []) (usesRwAB 19 20 21) :=
  ⟨⟨_, rfl⟩, ready (by decide +kernel)⟩
theorem witness_LoadImmediateResult : Ready (gs []) [⟨1, 19, .dst false⟩] ∧ Ready (gs []) [⟨1, 19, .rw false⟩] :=
  ⟨ready (by decide +kernel), ready (by decide +kernel)⟩
/-- A divider that is free, and one that is busy until cycle 101. -/
theorem witness_DivideResult : (∃ f, scalarDivide (.div 19 20 21 0) = some (19, 20, 21, 0, true, f)) ∧
    (Ready (gs []) (usesDAB 19 20 21) ∧ (ctxIn (gs [])).divFree ≤ (gs []).now) ∧
    (Ready (stateOf { ctxOf (only []) with divFree := 101 }) (usesDAB 19 20 21) ∧
      100 < (ctxIn (stateOf { ctxOf (only []) with divFree := 101 })).divFree) :=
  ⟨⟨_, rfl⟩, ⟨ready (by decide +kernel), by decide +kernel⟩, ready (by decide +kernel), by decide +kernel⟩
/-- The queue's entry that a two-operand branch reads. -/
def queueState : State := stateOf { ctxOf (only []) with q := (ctxOf (only [])).q.push (.ofVal (.scalar 3) 0) }
theorem witness_ConditionalBranch :
    (∃ f, branchOf (.beq 20 8 0) = some (20, 8, 0, [⟨2, 20, .src false⟩, ⟨3, 0, .src false⟩], f)) ∧
    Ready queueState [⟨2, 20, .src false⟩, ⟨3, 0, .src false⟩] ∧
    (Issues specState (ctxIn specState) ∧ (vw specState).specOpen = true) :=
  ⟨⟨_, rfl⟩, ready (by decide +kernel), issues_of (by decide +kernel), by decide +kernel⟩
theorem witness_LoopBranch : Ready (gs []) [⟨2, 16, .rw false⟩] ∧ Ready (gs []) [⟨2, 47, .rw false⟩] ∧
    Ready (gs []) [⟨2, 56, .rw false⟩] ∧ ((15 : BitVec 7).toNat < 16 ∧ 48 ≤ (48 : BitVec 7).toNat ∧ (55 : BitVec 7).toNat < 56) :=
  ⟨ready (by decide +kernel), ready (by decide +kernel), ready (by decide +kernel), by decide⟩
theorem witness_Jumps : Ready (gs [(4, 0x201)]) [⟨2, 20, .src false⟩] ∧ Ready (gs [(4, 0x201)]) (usesDA 19 20) :=
  ⟨ready (by decide +kernel), ready (by decide +kernel)⟩
theorem witness_BranchResolves : (∃ sp, (specState.berth 0 0).spec = some sp ∧ sp.taken = true) ∧
    (∃ sp, ((after (.bnz 20 8 0) (gs [])).berth 0 0).spec = some sp ∧ sp.taken = false) ∧
    ((after (.bnz 20 8 0) (gs [])).ctx? 0 0).isSome = true :=
  ⟨⟨(specState.berth 0 0).spec.getD { taken := false, checkpoint := {}, nextIfTaken := 0 }, by decide +kernel, by decide +kernel⟩,
   ⟨((after (.bnz 20 8 0) (gs [])).berth 0 0).spec.getD { taken := true, checkpoint := {}, nextIfTaken := 0 }, by decide +kernel,
    by decide +kernel⟩, by decide +kernel⟩
theorem witness_NopAndYield : Issues (gs []) (ctxIn (gs [])) ∧ Issues specState (ctxIn specState) ∧
    (match exec (.yield 0) specState with | .next _ => true | _ => false) = true :=
  ⟨issues_of (by decide +kernel), issues_of (by decide +kernel), by decide +kernel⟩

/-! ### Vectors -/

def vs (vt : BitVec 6) (rows : Rows := []) (g : List (Nat × Nat) := []) : State := stateOf (vctx vt rows (only g))

theorem witness_VectorPairResult : (∃ f, vectorPair (.vadd 66 64 65 0) = some (66, 64, 65, 0, f)) ∧
    Ready (vs 0) (vusesDAB 66 64 65) [] (some 8) ∧ Ready (vs 8) (vusesDAB 66 64 65) [] (some 32) ∧ (vw (vs 8)).etype.width = 32 :=
  ⟨⟨_, rfl⟩, ready (by decide +kernel), ready (by decide +kernel), by decide +kernel⟩
theorem witness_VectorOneAndThreeResult : (∃ f, vectorOne (.vabs 66 64 0) = some (66, 64, 0, f)) ∧
    Ready (vs 8) (vusesDA 66 64) [] (some (vw (vs 8)).etype.width) ∧ (∃ f, vectorThree (.vmad 66 64 65 0) = some (66, 64, 65, 0, f)) ∧
    Ready (vs 8) (vusesRwAB 66 64 65) [] (some (vw (vs 8)).etype.width) :=
  ⟨⟨_, rfl⟩, ready (by decide +kernel), ⟨_, rfl⟩, ready (by decide +kernel)⟩
theorem witness_VectorCompareResult : (∃ f, vectorCompare (.vcmpeq 1 0 64 65 0) = some (1, 0, 64, 65, 0, f)) ∧
    Ready (vs 4) [⟨2, 64, .src true⟩, ⟨3, 65, .src true⟩] (govMasks 0) (some (vw (vs 4)).etype.width) ∧
    Ready (vs 4) [⟨2, 64, .src true⟩, ⟨3, 65, .src true⟩] (govMasks 7) (some (vw (vs 4)).etype.width) :=
  ⟨⟨_, rfl⟩, ready (by decide +kernel), ready (by decide +kernel)⟩
theorem witness_VectorElementMoves :
    Ready (vs 4) [⟨2, 64, .src true⟩, ⟨3, 65, .src true⟩] (govMasks 1) (some (vw (vs 4)).etype.width) ∧ Ready (vs 4) [] (govMasks 1) (some (vw (vs 4)).etype.width) ∧
    Ready (vs 4) [⟨1, 66, .dst true⟩, ⟨2, 64, .src true⟩, ⟨3, 20, .src false⟩] [] (some (vw (vs 4)).etype.width) ∧
    Ready (vs 4) [⟨1, 19, .dst false⟩, ⟨2, 64, .src true⟩, ⟨3, 20, .src false⟩] [] (some (vw (vs 4)).etype.width) ∧
    Ready (vs 4) [⟨1, 66, .rw true⟩, ⟨2, 20, .src false⟩, ⟨3, 20, .src false⟩] [] (some (vw (vs 4)).etype.width) :=
  ⟨ready (by decide +kernel), ready (by decide +kernel), ready (by decide +kernel), ready (by decide +kernel), ready (by decide +kernel)⟩
/-- VCVT to e4m3 with PART 0 and with a PART that breaks its rule; VCVTS both ways. -/
theorem witness_VectorConversions : let v := vw (vs 8)
    (v.checkWith (vusesDA 67 64) [] (fun _ => some 32) (fun _ => false) = .ok () ∧ v.keepRoom (vusesDA 67 64) = .ok ()) ∧
    (v.checkWith (vusesDA 67 64) [] (fun u => some (if u.field = 1 then 8 else 32)) (fun _ => false) = .ok ()) ∧
    (placed 0 64 64 (List.replicate 64 0)).isSome = true ∧ (placed 3 64 64 (List.replicate 64 0)).isNone = true ∧
    v.checkWith [⟨1, 19, .dst false⟩, ⟨2, 64, .src true⟩] [] (fun u => if u.field = 1 then none else some 32) (fun _ => false) = .ok () ∧
    v.checkWith [⟨1, 66, .dst true⟩, ⟨2, 64, .src true⟩] [] (fun u => if u.field = 1 then some 8 else some 32) (fun _ => false) = .ok () :=
  ⟨⟨ok_of (by decide +kernel), ok_of (by decide +kernel)⟩, ok_of (by decide +kernel), by decide +kernel, by decide +kernel,
   ok_of (by decide +kernel), ok_of (by decide +kernel)⟩
theorem witness_VectorReductions : (∃ f g, reductionOf (.vred 1 64 0) = some (1, 64, 0, f, g)) ∧
    Ready (vs 8) [⟨2, 64, .src true⟩] (govMasks 1) (some (vw (vs 8)).etype.width) := ⟨⟨_, _, rfl⟩, ready (by decide +kernel)⟩
theorem witness_VectorPermutes : PermuteFree (vs 8) ∧ Ready (vs 8) (vusesDAB 66 64 65) [] (some (vw (vs 8)).etype.width) ∧
    Ready (vs 8) [⟨2, 64, .src true⟩] (govMasks 1) (some (vw (vs 8)).etype.width) ∧
    Ready (vs 8) (vusesDA 66 64) [] (some (vw (vs 8)).etype.width) ∧ (¬(0 ≤ 3 ∧ 64 ≤ 2 ^ 5)) ∧ (0 ≤ 3 ∧ 64 ≤ 2 ^ 6) :=
  ⟨(by intro p h; cases h), ready (by decide +kernel), ready (by decide +kernel), ready (by decide +kernel), by decide, by decide⟩
theorem witness_VectorSpecialAndDivide : (∃ f, specialOf (.vrcp 66 64 0) = some (66, 64, 0, f)) ∧
    (Ready (vs 8) (vusesDA 66 64) [] (some (vw (vs 8)).etype.width) ∧ (vw (vs 8)).etype.fmt?.isSome = true) ∧
    (Ready (vs 4) (vusesDA 66 64) [] (some (vw (vs 4)).etype.width) ∧ (vw (vs 4)).etype.fmt? = none) ∧
    (Ready (vs 8) (vusesDAB 66 64 65) [] (some (vw (vs 8)).etype.width) ∧ (ctxIn (vs 8)).vdivFree ≤ 100) ∧
    (Ready (stateOf { vctx 8 with vdivFree := 101 }) (vusesDAB 66 64 65) [] (some 32) ∧
      100 < (ctxIn (stateOf { vctx 8 with vdivFree := 101 })).vdivFree) :=
  ⟨⟨_, rfl⟩, ⟨ready (by decide +kernel), by decide +kernel⟩, ⟨ready (by decide +kernel), by decide +kernel⟩,
   ⟨ready (by decide +kernel), by decide +kernel⟩, ready (by decide +kernel), by decide +kernel⟩
theorem witness_MaskResults : (∃ ms f, maskPair (.kand 1 2 0) = some (1, 2, 0, ms, f)) ∧ Ready (gs []) [] [kIx 1, kIx 2] ∧ Ready (gs []) [] [kIx 2] ∧
    Ready (gs [(4, 256)]) [⟨2, 20, .src false⟩] := ⟨⟨_, _, rfl⟩, ready (by decide +kernel), ready (by decide +kernel), ready (by decide +kernel)⟩
theorem witness_VsetResult : Ready (gs []) [⟨1, 19, .dst false⟩] := ready (by decide +kernel)

/-! ### Memory, split-phase accesses, atomics, fences, barriers -/

def isOk {ε α : Type} (e : Except ε α) : Bool := match e with | .ok _ => true | .error _ => false
theorem isOk_of {ε α : Type} {e : Except ε α} (h : isOk e = true) : ∃ x, e = .ok x := by
  cases e with
  | ok x => exact ⟨x, rfl⟩
  | error r => cases h

theorem eq_of {ε α : Type} [DecidableEq α] {e : Except ε α} {x : α} (h : (e.toOption == some x) = true) : e = .ok x := by
  cases e with
  | ok y => simpa [Except.toOption] using h
  | error r => simp [Except.toOption] at h

theorem near_of {v : View} {p : Word} {len align off : Nat} (h : (v.nearOff p len align == some off && !v.scaleBusy off len) = true) :
    Near v p len align off := by
  simp only [Bool.and_eq_true, beq_iff_eq, Bool.not_eq_true'] at h
  exact ⟨h.1, h.2⟩

/-- A berth whose next near access nothing holds back. -/
theorem quiet_of {s : State} (h : (decide ((ctxIn s).acquireUntil ≤ s.now) && decide ((s.tile s.cur.tile).sliceHeld ≤ s.now)) = true) :
    Quiet s (ctxIn s) := by
  simp only [Bool.and_eq_true, decide_eq_true_eq] at h
  exact h

/-- A berth that has nothing released and held back, and nothing on its way. -/
theorem released_of {s : State} (h : (decide ((s.berth s.cur.tile s.cur.berth).holdUntil ≤ s.chron) && (s.tile s.cur.tile).held.isEmpty &&
    (ctxIn s).deferred.isEmpty && s.flights.isEmpty) = true) : Released s (ctxIn s) := by
  simp only [Bool.and_eq_true, decide_eq_true_eq, List.isEmpty_iff] at h
  exact ⟨h.1.1.1, h.1.1.2, h.1.2, by simp [Performed, h.2]⟩

/-- Tile 0's berth with the registers of `memState`, an ordered task. -/
def orderedState (off x : Nat) (bs : List Nat := []) : State :=
  withMem off bs (stateOf (ctxOf (only [(4, nearAt off), (5, x)]) [] { cls := 1 }))
/-- A pointer to the last bytes of the slice; one beyond it; a poisoned word. -/
def poisonState : State := { memState 0x100 0 with memPoison := wordsOf (slicePa 0 0x100) 8 }

theorem witness_NearLoadResult : (∃ n sg, loadOf (.ldd 19 20 0 0) = some (19, 20, 0, 0, n, sg)) ∧
    (Ready (memState 0x1fff8 0) (usesDA 19 20) ∧ Quiet (memState 0x1fff8 0) (ctxIn (memState 0x1fff8 0)) ∧
      Near (vw (memState 0x1fff8 0)) (stepPointer ((vw (memState 0x1fff8 0)).scalar 2 20) 0) 8 8 0x1fff8 ∧
      (vw (memState 0x1fff8 0)).nearPoison 0x1fff8 8 = false) ∧
    (Ready (memState 0x20000 0) (usesDA 19 20) ∧ Quiet (memState 0x20000 0) (ctxIn (memState 0x20000 0)) ∧
      (vw (memState 0x20000 0)).nearOff (stepPointer ((vw (memState 0x20000 0)).scalar 2 20) 0) 8 8 = none) ∧
    (Ready poisonState (usesDA 19 20) ∧ Near (vw poisonState) (stepPointer ((vw poisonState).scalar 2 20) 0) 8 8 0x100 ∧
      (vw poisonState).nearPoison 0x100 8 = true) :=
  ⟨⟨_, _, rfl⟩, ⟨ready (by decide +kernel), quiet_of (by decide +kernel), near_of (by decide +kernel), by decide +kernel⟩,
   ⟨ready (by decide +kernel), quiet_of (by decide +kernel), by decide +kernel⟩,
   ready (by decide +kernel), near_of (by decide +kernel), by decide +kernel⟩

/-- A buffer of 256 entries already. -/
def fullBuffer : State := stateOf { ctxOf (only [(4, nearAt 0x100)]) with buf := (List.range 256).map fun k => Item.store (0x200 + 64 * k) [0] }
theorem witness_NearStoreEffect : (∃ n, storeOf (.std 21 20 0 0) = some (21, 20, 0, 0, n)) ∧
    (Ready (memState 0x100 0) (storeUses 21 20) ∧ Quiet (memState 0x100 0) (ctxIn (memState 0x100 0)) ∧
      Near (vw (memState 0x100 0)) (stepPointer ((vw (memState 0x100 0)).scalar 2 20) 0) 8 8 0x100 ∧
      (Ctx.buffering (ctxIn (memState 0x100 0)) [.store 0x100 (List.replicate 8 0)]).storeEntries ≤ 256) ∧
    (Ready fullBuffer (storeUses 21 20) ∧ Quiet fullBuffer (ctxIn fullBuffer) ∧
      Near (vw fullBuffer) (stepPointer ((vw fullBuffer).scalar 2 20) 0) 8 8 0x100 ∧
      256 < (Ctx.buffering (ctxIn fullBuffer) [.store 0x100 (List.replicate 8 0)]).storeEntries) ∧
    (Ready (memState 0x104 0) (storeUses 21 20) ∧ Quiet (memState 0x104 0) (ctxIn (memState 0x104 0)) ∧
      (vw (memState 0x104 0)).nearOff (stepPointer ((vw (memState 0x104 0)).scalar 2 20) 0) 8 8 = none) :=
  ⟨⟨_, rfl⟩, ⟨ready (by decide +kernel), quiet_of (by decide +kernel), near_of (by decide +kernel), by decide +kernel⟩,
   ⟨ready (by decide +kernel), quiet_of (by decide +kernel), near_of (by decide +kernel), by decide +kernel⟩,
   ready (by decide +kernel), quiet_of (by decide +kernel), by decide +kernel⟩

theorem witness_AcquireAndRelease :
    (Ready (memState 0x100 0) (usesDA 19 20) ∧ Quiet (memState 0x100 0) (ctxIn (memState 0x100 0)) ∧
      Near (vw (memState 0x100 0)) (stepPointer ((vw (memState 0x100 0)).scalar 2 20) 0) 8 8 0x100 ∧
      (vw (memState 0x100 0)).nearPoison 0x100 8 = false) ∧
    (Ready (memState 0x100 0) (storeUses 21 20) ∧ (ctxIn (memState 0x100 0)).task.cls = 0 ∧
      (Ctx.buffering (ctxIn (memState 0x100 0)) [.store 0x100 (List.replicate 8 0)]).storeEntries ≤ 256 ∧
      ∃ w, ((memState 0x100 0).view (Ctx.buffering (ctxIn (memState 0x100 0)) [.store 0x100 (List.replicate 8 0)])).checkSegment = .ok w) ∧
    (Ready (orderedState 0x100 0) (storeUses 21 20) ∧
      Quiet (orderedState 0x100 0) (ctxIn (orderedState 0x100 0)) ∧ (ctxIn (orderedState 0x100 0)).task.cls ≠ 0) :=
  ⟨⟨ready (by decide +kernel), quiet_of (by decide +kernel), near_of (by decide +kernel), by decide +kernel⟩,
   ⟨ready (by decide +kernel), by decide +kernel, by decide +kernel, isOk_of (by decide +kernel)⟩,
   ready (by decide +kernel), quiet_of (by decide +kernel), by decide +kernel⟩

theorem witness_VectorLoadStore :
    (Ready (memState 0x40 0) [] ∧ Quiet (memState 0x40 0) (ctxIn (memState 0x40 0)) ∧
      (vw (memState 0x40 0)).mcheck [⟨1, 65, .dst true⟩, ⟨2, 20, .src false⟩] = .ok () ∧
      (vw (memState 0x40 0)).mcheck [⟨1, 65, .src true⟩, ⟨2, 20, .src false⟩] = .ok () ∧
      Near (vw (memState 0x40 0)) (stepPointer ((vw (memState 0x40 0)).scalar 2 20) 0) 256 64 0x40 ∧
      (vw (memState 0x40 0)).nearPoison 0x40 256 = false) ∧
    (Ready (memState 0x20 0) [] ∧ (vw (memState 0x20 0)).mcheck [⟨1, 65, .dst true⟩, ⟨2, 20, .src false⟩] = .ok () ∧
      (vw (memState 0x20 0)).mcheck [⟨1, 65, .src true⟩, ⟨2, 20, .src false⟩] = .ok () ∧
      (vw (memState 0x20 0)).nearOff (stepPointer ((vw (memState 0x20 0)).scalar 2 20) 0) 256 64 = none) :=
  ⟨⟨ready (by decide +kernel), quiet_of (by decide +kernel), ok_of (by decide +kernel), ok_of (by decide +kernel),
    near_of (by decide +kernel), by decide +kernel⟩,
   ready (by decide +kernel), ok_of (by decide +kernel), ok_of (by decide +kernel), by decide +kernel⟩

/-- 32-bit elements, stride 4 (every element aligned) and stride 6 (element 1 not). -/
def strideState (stride : Nat) : State := stateOf { ctxOf (only [(4, nearAt 0x100), (5, stride)]) with cr := { vtype := 4, mwl := 64 } }
def elementOk (s : State) (k : Nat) : Bool :=
  let o := elemAddress (vw s) 20 21 false k
  decide (o % 4 = 0) && decide (o + 4 ≤ s.sliceLimit 0) && !(vw s).scaleBusy o 4 && !(vw s).nearPoison o 4
theorem witness_ElementAccess : elemAccess (.vlds 65 20 21 0) = some (65, 20, 21, 0, false, false) ∧
    elemAccess (.vsts 65 20 21 0) = some (65, 20, 21, 0, false, true) ∧
    (Ready (strideState 4) [] ∧ Quiet (strideState 4) (ctxIn (strideState 4)) ∧
      (vw (strideState 4)).mcheck [⟨1, 65, .dst true⟩, ⟨2, 20, .src false⟩, ⟨3, 21, .src false⟩] = .ok () ∧
      (vw (strideState 4)).mcheck [⟨1, 65, .src true⟩, ⟨2, 20, .src false⟩, ⟨3, 21, .src false⟩] = .ok () ∧
      Near (vw (strideState 4)) ((vw (strideState 4)).scalar 2 20) 1 1 0x100 ∧
      ((List.range 64).all (elementOk (strideState 4))) = true) ∧
    (Ready (strideState 6) [] ∧ Quiet (strideState 6) (ctxIn (strideState 6)) ∧
      (vw (strideState 6)).mcheck [⟨1, 65, .dst true⟩, ⟨2, 20, .src false⟩, ⟨3, 21, .src false⟩] = .ok () ∧
      elementOk (strideState 6) 0 = true ∧ elementOk (strideState 6) 1 = false) :=
  ⟨rfl, rfl, ⟨ready (by decide +kernel), quiet_of (by decide +kernel), ok_of (by decide +kernel), ok_of (by decide +kernel),
    near_of (by decide +kernel), by decide +kernel⟩,
   ready (by decide +kernel), quiet_of (by decide +kernel), ok_of (by decide +kernel), by decide +kernel, by decide +kernel⟩

/-- A private pointer to the last word below MWL, and one to the first beyond. -/
def privState (o : Nat) : State := stateOf (ctxOf (only [(4, o), (5, 9)]))
theorem witness_PrivateAccess :
    (Ready (privState 16376) (usesDA 19 20) ∧ Ready (privState 16376) (storeUses 21 20) ∧ (ctxIn (privState 16376)).acquireUntil ≤ 100 ∧
      winOf (16376 : Word) = 0 ∧ 16376 % 8 = 0 ∧ 16376 < (ctxIn (privState 16376)).cr.mwl.toNat * 256 ∧ (ctxIn (privState 16376)).pend = [] ∧
      (ctxIn (privState 16376)).rowPoison = [] ∧ (vw (privState 16376)).keepRow 63 16376 = .ok ()) ∧
    (Ready (privState 16384) (usesDA 19 20) ∧ ¬ 16384 < (ctxIn (privState 16384)).cr.mwl.toNat * 256) :=
  ⟨⟨ready (by decide +kernel), ready (by decide +kernel), by decide +kernel, by decide +kernel, by decide +kernel, by decide +kernel, by decide +kernel,
    by decide +kernel, ok_of (by decide +kernel)⟩, ready (by decide +kernel), by decide +kernel⟩

/-- g4 a cube pointer to tile 0, g5 a control word for 16 bytes; the second with a misaligned offset; the third with 16 accesses in flight. -/
def getState (off : Nat) : State := gs [(4, 3 * 2 ^ 60 + off)]
def flightsOf (n : Nat) (s : State) : State :=
  { s with flights := (List.range n).map fun k => { id := k, issuer := (vw s).issuer, kind := .get (3 * 2 ^ 60) 0 0 } }
/-- A GET of bytes that a PUT of the berth has not reached; one of an ordered task into a resident row, with 253 entries of its buffer taken. -/
def behindPut : State :=
  { getState 0 with flights := [{ id := 0, issuer := (vw (getState 0)).issuer, kind := .put (3 * 2 ^ 60) 0 [1] }] }
def residentGet (n : Nat) : State :=
  stateOf { ctxOf (only [(4, 3 * 2 ^ 60)]) [] { cls := 1 } with resident := 1, buf := (List.range n).map fun k => Item.store (0x200 + 64 * k) [0] }
theorem witness_GetEffect : (vw (getState 0)).runCheck 64 20 21 false = .ok (0, 1) ∧
    (Ready (getState 0) [] ∧ (ctxIn (getState 0)).acquireUntil ≤ 100 ∧ (vw (getState 0)).ctlCheck (3 * 2 ^ 60) 0 false = .ok () ∧
      (vw (getState 0)).keepRow 0 0 = .ok () ∧ (getState 0).inFlight 0 0 < 16 ∧
      ((getState 0).place 0 1 (3 * 2 ^ 60) (ctlLen 0)).isSome = true ∧ offOf (3 * 2 ^ 60) % 16 = 0) ∧
    (Ready (getState 8) [] ∧ (getState 8).inFlight 0 0 < 16 ∧ offOf (3 * 2 ^ 60 + 8) % 16 ≠ 0) ∧
    (Ready (flightsOf 16 (getState 0)) [] ∧ 16 ≤ (flightsOf 16 (getState 0)).inFlight 0 0) ∧
    (Ready behindPut [] ∧ behindPut.inFlight 0 0 < 16 ∧ (behindPut.place 0 1 (3 * 2 ^ 60) 16).any (fun pl => (vw behindPut).ownWriteOut pl 16) = true) ∧
    (∀ n ∈ [252, 253], Ready (residentGet n) [] ∧ (vw (residentGet n)).runCheck 64 20 21 false = .ok (0, 1) ∧ (ctxIn (residentGet n)).storeEntries = n ∧
      ((ctxIn (residentGet n)).task.cls ≠ 0 ∧ 0 < (ctxIn (residentGet n)).resident ∧ (lookup 0 (ctxIn (residentGet n)).kept).isNone = true)) := by
  simp only [List.mem_cons, List.not_mem_nil, or_false, forall_eq_or_imp, forall_eq]
  exact ⟨eq_of (by decide +kernel), ⟨ready (by decide +kernel), by decide +kernel, ok_of (by decide +kernel), ok_of (by decide +kernel), by decide +kernel,
    by decide +kernel, by decide +kernel⟩, ⟨ready (by decide +kernel), by decide +kernel, by decide +kernel⟩, ⟨ready (by decide +kernel), by decide +kernel⟩,
    ⟨ready (by decide +kernel), by decide +kernel, by decide +kernel⟩, ⟨ready (by decide +kernel), eq_of (by decide +kernel), by decide +kernel⟩,
    ready (by decide +kernel), eq_of (by decide +kernel), by decide +kernel⟩
theorem witness_PutEffect : (vw (getState 0)).runCheck 64 20 21 true = .ok (0, 1) ∧ Ready (getState 0) [] ∧
    (ctxIn (getState 0)).acquireUntil ≤ 100 ∧ (vw (getState 0)).ctlCheck (3 * 2 ^ 60) 0 true = .ok () ∧
    ((2 : Nat) ^ 38 / 2 ^ 38 ≠ 0 ∧ 1 % 16 ≠ 0 ∧ (0x800000 : Word).getLsbD 23 = true ∧ winOf (3 * 2 ^ 60) ≠ 4) :=
  ⟨eq_of (by decide +kernel), ready (by decide +kernel), by decide +kernel, ok_of (by decide +kernel), by decide +kernel⟩

theorem witness_PointerResults : Ready (memState 0x100 0) (usesDA 19 20) ∧
    ((vw (memState 0x100 0)).castTo ((vw (memState 0x100 0)).scalar 2 20) 3).isSome = true ∧
    (vw (memState 0x100 0)).castTo ((vw (memState 0x100 0)).scalar 2 20) 0 = none :=
  ⟨ready (by decide +kernel), by decide +kernel, by decide +kernel⟩

theorem witness_AtomicEffect : (∃ n f, atomicOf (.aadd 19 20 21 0) = some (19, 20, 21, 0, n, f)) ∧
    (Ready (memState 0x100 0) (usesDAB 19 20 21) ∧ Quiet (memState 0x100 0) (ctxIn (memState 0x100 0)) ∧
      winOf ((vw (memState 0x100 0)).scalar 2 20) = 1 ∧ Near (vw (memState 0x100 0)) ((vw (memState 0x100 0)).scalar 2 20) 8 8 0x100 ∧
      (ctxIn (memState 0x100 0)).task.cls = 0 ∧ Released (memState 0x100 0) (ctxIn (memState 0x100 0)) ∧ (memState 0x100 0).poisoned (slicePa 0 0x100) 8 = false) ∧
    (Ready (orderedState 0x100 0) (usesDAB 19 20 21) ∧ Quiet (orderedState 0x100 0) (ctxIn (orderedState 0x100 0)) ∧
      Near (vw (orderedState 0x100 0)) ((vw (orderedState 0x100 0)).scalar 2 20) 8 8 0x100 ∧
      (ctxIn (orderedState 0x100 0)).task.cls ≠ 0 ∧ (vw (orderedState 0x100 0)).nearPoison 0x100 8 = false ∧
      (Ctx.buffering (ctxIn (orderedState 0x100 0)) [.store 0x100 (List.replicate 8 0)]).storeEntries ≤ 256) ∧
    (∀ w ∈ [2, 5], Ready (gs [(4, w * 2 ^ 60)]) (usesDAB 48 20 21) ∧ Quiet (gs [(4, w * 2 ^ 60)]) (ctxIn (gs [(4, w * 2 ^ 60)])) ∧
      winOf ((vw (gs [(4, w * 2 ^ 60)])).scalar 2 20) = w) ∧
    (∀ w ∈ [0, 6, 15], Ready (gs [(4, w * 2 ^ 60)]) (usesDAB 19 20 21) ∧ winOf ((vw (gs [(4, w * 2 ^ 60)])).scalar 2 20) = w) := by
  refine ⟨⟨_, _, rfl⟩, ⟨ready (by decide +kernel), quiet_of (by decide +kernel), by decide +kernel, near_of (by decide +kernel),
    by decide +kernel, released_of (by decide +kernel), by decide +kernel⟩,
    ⟨ready (by decide +kernel), quiet_of (by decide +kernel), near_of (by decide +kernel), by decide +kernel, by decide +kernel,
      by decide +kernel⟩, ?_, ?_⟩
  · simp only [List.mem_cons, List.not_mem_nil, or_false, forall_eq_or_imp, forall_eq]
    exact ⟨⟨ready (by decide +kernel), quiet_of (by decide +kernel), by decide +kernel⟩,
      ready (by decide +kernel), quiet_of (by decide +kernel), by decide +kernel⟩
  · simp only [List.mem_cons, List.not_mem_nil, or_false, forall_eq_or_imp, forall_eq]
    exact ⟨⟨ready (by decide +kernel), by decide +kernel⟩, ⟨ready (by decide +kernel), by decide +kernel⟩, ready (by decide +kernel),
      by decide +kernel⟩

/-- Row 1 holds an expected value and a barrier offset, the last that fits and the first that is not a multiple of 16. -/
def casState (bar : Nat) : State := stateOf (ctxOf (only [(4, 3 * 2 ^ 60)]) [(1, BitVec.ofNat 2048 (bar * 2 ^ 64))])
theorem witness_CompareAndSwap :
    (Ready (memState 0x100 0 [7]) (usesRwAB 19 20 21) ∧ Quiet (memState 0x100 0 [7]) (ctxIn (memState 0x100 0 [7])) ∧
      Released (memState 0x100 0 [7]) (ctxIn (memState 0x100 0 [7])) ∧ Near (vw (memState 0x100 0 [7])) ((vw (memState 0x100 0 [7])).scalar 2 20) 8 8 0x100 ∧
      sliceWord (memState 0x100 0) 0 0x100 = (vw (memState 0x100 0)).scalar 1 19 ∧
      sliceWord (memState 0x100 0 [7]) 0 0x100 ≠ (vw (memState 0x100 0 [7])).scalar 1 19) ∧
    (let s := orderedState 0x100 0
     Ready s (usesRwAB 19 20 21) ∧ Quiet s (ctxIn s) ∧ Near (vw s) ((vw s).scalar 2 20) 8 8 0x100 ∧ ((ctxIn s).task.cls ≠ 0 ∧ (vw s).nearPoison 0x100 8 = false ∧
       BitVec.ofNat 64 (leNat ((vw s).readNear 0x100 8)) = (vw s).scalar 1 19)) ∧
    (Ready (casState 0x1fff0) [] ∧ (vw (casState 0x1fff0)).rowOf (Opnd.of 65) = some 1 ∧
      (vw (casState 0x1fff0)).checkWith [⟨1, 65, .src true⟩, ⟨2, 20, .src false⟩, ⟨3, 21, .src false⟩] [] (fun _ => none)
        (fun u => u.field == 1 && !(vw (casState 0x1fff0)).casCode 65) = .ok () ∧ 1 < (ctxIn (casState 0x1fff0)).cr.mwl.toNat ∧
      ((vw (casState 0x1fff0)).staleRow 1).extractLsb' 64 64 = (0x1fff0 : Word) ∧ 0x1fff0 + 16 ≤ (casState 0x1fff0).sliceLimit 0) ∧
    (Ready (casState 8) [] ∧ ((vw (casState 8)).staleRow 1).extractLsb' 64 64 = (8 : Word)) :=
  ⟨⟨ready (by decide +kernel), quiet_of (by decide +kernel), released_of (by decide +kernel), near_of (by decide +kernel),
    by decide +kernel, by decide +kernel⟩,
   ⟨ready (by decide +kernel), quiet_of (by decide +kernel), near_of (by decide +kernel), by decide +kernel⟩,
   ⟨ready (by decide +kernel), by decide +kernel, ok_of (by decide +kernel), by decide +kernel, by decide +kernel⟩,
   ready (by decide +kernel), by decide +kernel⟩


/-- A segment that is open; a load whose value exists at 101; a write of the berth still out. -/
def segState : State := after (.std 21 20 0 0) (memState 0x100 7)
def pendingLoad : Pend :=
  { word := 0x86000000, epc := 0, vt := 8, am := 0, dest := .none, slot := none, due := 4, latency := 4, doneAt := 101, interlocked := true,
    replayable := false, ops := {} }
def loadState : State := stateOf { ctxOf (only []) with pend := [pendingLoad] }
def writeOut (s : State) : State := { s with flights := [{ id := 0, issuer := (vw s).issuer, kind := .put (3 * 2 ^ 60) 0 [] }] }
/-- The state whose commit point sees nothing outstanding, and the check of a segment. -/
def acked (s : State) (scope : Nat := 0) : Option Bool := ((vw s).checkSegment.toOption).map fun w => w.acknowledged scope

theorem witness_FenceEffect :
    (Ready (gs []) [] ∧ (ctxIn (gs [])).pend = [] ∧ (ctxIn (gs [])).task.cls = 0 ∧ (ctxIn (gs [])).buf = [] ∧ acked (gs []) = some true) ∧
    (Ready loadState [] ∧ ∃ p ∈ (ctxIn loadState).pend, isLoadWord p.word = true ∧ 100 < p.doneAt) ∧
    (Ready (flightsOf 1 (gs [])) [] ∧ ∃ f ∈ (vw (flightsOf 1 (gs []))).outIn 4, f.kind.isGet = true ∧ f.performed = false) ∧
    (Ready (writeOut (gs [])) [] ∧ (ctxIn (writeOut (gs []))).buf = [] ∧ acked (writeOut (gs [])) = some false) ∧
    (Ready segState [] ∧ (ctxIn segState).pend = [] ∧ (ctxIn segState).buf ≠ [] ∧ (acked segState).isSome = true) ∧
    (Ready (orderedState 0x100 0) [] ∧ (ctxIn (orderedState 0x100 0)).task.cls ≠ 0) :=
  ⟨⟨ready (by decide +kernel), by decide +kernel, by decide +kernel, by decide +kernel, by decide +kernel⟩,
   ⟨ready (by decide +kernel), _, List.mem_singleton.mpr rfl, by decide +kernel, by decide +kernel⟩,
   ⟨ready (by decide +kernel), by decide +kernel⟩,
   ⟨ready (by decide +kernel), by decide +kernel, by decide +kernel⟩,
   ⟨ready (by decide +kernel), by decide +kernel, by decide +kernel, by decide +kernel⟩, ready (by decide +kernel), by decide +kernel⟩
theorem witness_CommitMakesVisible : ((gs []).tile 0).held = [] ∧ ((gs []).berth 0 0).holdUntil ≤ (gs []).chron ∧
    (gs []).flights = [] ∧ (vw (gs [])).issuer.key = none ∧ (vw (gs [])).issuer.tile = 0 ∧ (vw (gs [])).issuer.berth = 0 := by
  decide +kernel

/-- A barrier at 0x100 with its second word given: phase, count, expected; g4 names it and g5 holds a count. -/
def barState (b : Bar) (n : Nat) : State := (memState 0x100 n).setBar 0 0x100 b 1
theorem barrier_ready {s : State} {us : List Use} (hr : Ready s us) (hu : us = barUses 20 21)
    (h : (decide ((ctxIn s).acquireUntil ≤ s.now) && decide ((s.tile s.cur.tile).sliceHeld ≤ s.now) && ((vw s).nearOff ((vw s).scalar 2 20) 16 16 == some 0x100 && !(vw s).scaleBusy 0x100 16)) = true) :
    barrierReady s (ctxIn s) 20 21 0x100 := by
  simp only [Bool.and_eq_true, decide_eq_true_eq] at h
  subst hu
  exact ⟨hr.2.1, hr.2.2, ⟨h.1.1, h.1.2⟩, near_of (by rw [Bool.and_eq_true]; exact h.2)⟩
def fresh (e : Nat) : Bar := { done := false, ovr := false, phase := 0, ncount := 0, expect := e, count := 0 }
def complete : Bar := { done := true, ovr := false, phase := 0, ncount := 2, expect := 3, count := 3 }

theorem witness_BarrierSetup :
    (barrierReady (barState (fresh 3) 1) (ctxIn (barState (fresh 3) 1)) 20 21 0x100 ∧ ((vw (barState (fresh 3) 1)).scalar 3 21).toNat = 1 ∧
      (ctxIn (barState (fresh 3) 1)).task.cls = 0 ∧ (barState (fresh 3) 1).bar 0 0x100 = fresh 3 ∧
      Released (barState (fresh 3) 1) (ctxIn (barState (fresh 3) 1))) ∧
    (barrierReady (barState complete 1) (ctxIn (barState complete 1)) 20 21 0x100 ∧ (barState complete 1).bar 0 0x100 = complete) ∧
    (barrierReady (barState complete 2) (ctxIn (barState complete 2)) 20 21 0x100 ∧ ¬ (complete.done = true ∧ 2 < complete.ncount)) ∧
    (∀ n ∈ [0, 2 ^ 32], barrierReady (memState 0x100 n) (ctxIn (memState 0x100 n)) 20 21 0x100 ∧ ((vw (memState 0x100 n)).scalar 3 21).toNat = n) ∧
    ((2 : Nat) ^ 32 - 1 < 2 ^ 32) := by
  refine ⟨⟨barrier_ready (us := barUses 20 21) (ready (by decide +kernel)) rfl (by decide +kernel), by decide +kernel, by decide +kernel, by decide +kernel, released_of (by decide +kernel)⟩,
    ⟨barrier_ready (us := barUses 20 21) (ready (by decide +kernel)) rfl (by decide +kernel), by decide +kernel⟩,
    ⟨barrier_ready (us := barUses 20 21) (ready (by decide +kernel)) rfl (by decide +kernel), by decide⟩, ?_, by decide⟩
  simp only [List.mem_cons, List.not_mem_nil, or_false, forall_eq_or_imp, forall_eq]
  exact ⟨⟨barrier_ready (us := barUses 20 21) (ready (by decide +kernel)) rfl (by decide +kernel), by decide +kernel⟩,
    barrier_ready (us := barUses 20 21) (ready (by decide +kernel)) rfl (by decide +kernel), by decide +kernel⟩
/-- Whether an arrival of the berth stands behind what its release covers. -/
def behindOf (s : State) : Option Bool := (vw s).checkSegment.toOption.map fun w =>
  let x := w.closeSegment
  x.s.notPerformed 0 0 (x.s.berth 0 0).unit
/-- An arrival that would be two phases ahead, one that is not (1 and 0), and one behind a write of the berth. -/
theorem witness_BarrierArrival :
    (barrierReady (barState complete 2) (ctxIn (barState complete 2)) 20 21 0x100 ∧ ((barState complete 2).bar 0 0x100).tooFar 2 = true) ∧
    (barrierReady (barState (fresh 3) 1) (ctxIn (barState (fresh 3) 1)) 20 21 0x100 ∧ ((barState (fresh 3) 1).bar 0 0x100).tooFar 1 = false ∧
      behindOf (barState (fresh 3) 1) = some false) ∧
    (barrierReady (barState (fresh 3) 0) (ctxIn (barState (fresh 3) 0)) 20 21 0x100 ∧ ((barState (fresh 3) 0).bar 0 0x100).tooFar 0 = false ∧
      (behindOf (barState (fresh 3) 0)).isSome = true) ∧
    (barrierReady (writeOut (barState (fresh 3) 1)) (ctxIn (writeOut (barState (fresh 3) 1))) 20 21 0x100 ∧
      behindOf (writeOut (barState (fresh 3) 1)) = some true) ∧
    ((fresh 3).tooFar 1 = false ∧ (fresh 3).ncount = 0 ∧ (fresh 3).count < (fresh 3).expect) :=
  ⟨⟨barrier_ready (us := barUses 20 21) (ready (by decide +kernel)) rfl (by decide +kernel), by decide +kernel⟩,
   ⟨barrier_ready (us := barUses 20 21) (ready (by decide +kernel)) rfl (by decide +kernel), by decide +kernel, by decide +kernel⟩,
   ⟨barrier_ready (us := barUses 20 21) (ready (by decide +kernel)) rfl (by decide +kernel), by decide +kernel, by decide +kernel⟩,
   ⟨barrier_ready (us := barUses 20 21) (ready (by decide +kernel)) rfl (by decide +kernel), by decide +kernel⟩, by decide⟩
theorem witness_BarrierTest :
    (Ready (barState complete 0) [⟨2, 20, .src false⟩] ∧ Quiet (barState complete 0) (ctxIn (barState complete 0)) ∧
      Near (vw (barState complete 0)) ((vw (barState complete 0)).scalar 2 20) 16 16 0x100 ∧ ((barState complete 0).bar 0 0x100).ovr = false ∧
      ((barState complete 0).tile 0).mx.refusals = []) ∧
    (Ready (barState { complete with ovr := true } 0) [⟨2, 20, .src false⟩] ∧ ((barState { complete with ovr := true } 0).bar 0 0x100).ovr = true) :=
  ⟨⟨ready (by decide +kernel), quiet_of (by decide +kernel), near_of (by decide +kernel), by decide +kernel, by decide +kernel⟩, ready (by decide +kernel),
   by decide +kernel⟩

/-! ### Tasks -/

def message0 : Message := { kind := 0, destTile := 0, ts := 0, stage := 0, count := 0, poison := false, src := 0, ctxnum := 1, payload := [] }
/-- Launch 1's field is tile 0; its extents are 1. -/
def fieldState (xs : List (Nat × Nat)) (n : Nat := 0) (task : TaskRec := {}) : State :=
  stateOf { ctxOf (only xs) [] task with buf := List.replicate n (.message message0) }
def messageUses (kind : Nat) : List Use := [⟨1, 19, .dst false⟩, ⟨2, 20, .src false⟩, ⟨3, 32, if kind = 0 then .octet true else .src true⟩]
theorem witness_MessageStatus : messageOf (.send 19 20 32 0) = some (19, 20, 32, 0, 0) ∧
    (fieldState []).launch? 1 = some launch1 ∧
    (∀ x ∈ [(1, 0), (0x10000, 0), (0x10000, 8)], let s := fieldState [(4, x.1)] x.2
      Issues s (ctxIn s) ∧ (vw s).specOpen = false ∧ (vw s).mcheck (messageUses 0) = .ok () ∧ (vw s).queuedMessages = x.2) ∧
    (Refused launch1 0 1 {} ∧ ¬ Refused launch1 0 0x10000 {}) := by
  refine ⟨rfl, rfl, ?_, ?_, ?_⟩
  · simp only [List.mem_cons, List.not_mem_nil, or_false, forall_eq_or_imp, forall_eq]
    exact ⟨⟨issues_of (by decide +kernel), by decide +kernel, ok_of (by decide +kernel), by decide +kernel⟩,
      ⟨issues_of (by decide +kernel), by decide +kernel, ok_of (by decide +kernel), by decide +kernel⟩,
      issues_of (by decide +kernel), by decide +kernel, ok_of (by decide +kernel), by decide +kernel⟩
  · right; right; right; right; right; right; right; decide +kernel
  · simp only [Refused]; decide +kernel

def tracker0 : Tracker := { id := 0, issuer := {}, task := {} }
/-- A context with a pending fault; a segment whose PUT has a bad window; a tile with 8 trackers. -/
def faultState : State := stateOf { ctxOf (only []) with fault := some (Cause.window, 8) }
def badSegment : State := stateOf { ctxOf (only []) with buf := [.put 8 0 [0]] }
def fullTrackers (s : State) : State := s.modTile 0 fun t => { t with trackers := List.replicate 8 tracker0 }
/-- The check of the buffer of berth 0, and the work of it that is outstanding then. -/
def bufferOut (s : State) : Option Bool :=
  (s.checkItems 0 1 (ctxIn s).buf).toOption.map fun s1 => s1.outstanding (s1.view (ctxIn s)).issuer
def endable (s : State) : Bool := issuing s && !(vw s).specOpen && (vw s).checksDone
theorem endable_of {s : State} (h : endable s = true) : Issues s (ctxIn s) ∧ Endable s (ctxIn s) := by
  simp only [endable, Bool.and_eq_true, Bool.not_eq_true'] at h
  exact ⟨issues_of h.1.1, h.1.2, h.2⟩
theorem witness_TailEndsTask :
    ((Issues faultState (ctxIn faultState) ∧ Endable faultState (ctxIn faultState)) ∧ (ctxIn faultState).fault = some (Cause.window, 8)) ∧
    ((Issues badSegment (ctxIn badSegment) ∧ Endable badSegment (ctxIn badSegment)) ∧ (ctxIn badSegment).fault = none ∧
      bufferOut badSegment = none) ∧
    ((Issues (gs []) (ctxIn (gs [])) ∧ Endable (gs []) (ctxIn (gs []))) ∧ bufferOut (gs []) = some false ∧ (ctxIn (gs [])).buf = [] ∧
      (ctxIn (gs [])).task.cls = 0 ∧ ((gs []).tile 0).trackers.length < 8) ∧
    ((Issues (fullTrackers segState) (ctxIn (fullTrackers segState)) ∧ Endable (fullTrackers segState) (ctxIn (fullTrackers segState))) ∧
      (bufferOut (fullTrackers segState)).isSome = true ∧ (ctxIn (fullTrackers segState)).buf ≠ [] ∧
      8 ≤ ((fullTrackers segState).tile 0).trackers.length) :=
  ⟨⟨endable_of (by decide +kernel), by decide +kernel⟩, ⟨endable_of (by decide +kernel), by decide +kernel⟩,
   ⟨endable_of (by decide +kernel), by decide +kernel⟩, endable_of (by decide +kernel), by decide +kernel⟩
def splitUses : List Use := [⟨2, 20, .src false⟩, ⟨3, 21, .src false⟩]
/-- A trigger with a barrier that is not aligned; KIND 2 of an ordered task, and of a FREE one with the last channel; KIND 0. -/
theorem witness_SplitEndsTask :
    (Ready (gs [(5, 8)]) splitUses ∧ Endable (gs [(5, 8)]) (ctxIn (gs [(5, 8)])) ∧ 8 % 16 ≠ 0) ∧
    (Ready (orderedState 0x100 0x80180000) splitUses ∧ Endable (orderedState 0x100 0x80180000) (ctxIn (orderedState 0x100 0x80180000)) ∧
      ((0x80180000 : Word).extractLsb' 30 2 = 2 ∧ (0x80180000 : Word).extractLsb' 17 4 = 12 ∧ (0x80180000 : Word).extractLsb' 21 9 = 0)) ∧
    (Ready (gs [(5, 0x80180000)]) splitUses ∧ Endable (gs [(5, 0x80180000)]) (ctxIn (gs [(5, 0x80180000)])) ∧
      (vw (gs [(5, 0x80180000)])).outsideField = false ∧ bufferOut (gs [(5, 0x80180000)]) = some false ∧
      ((gs [(5, 0x80180000)]).tile 0).trackers.length < 8) ∧
    (Ready (gs []) splitUses ∧ Endable (gs []) (ctxIn (gs []))) :=
  ⟨⟨ready (by decide +kernel), (endable_of (by decide +kernel)).2, by decide⟩,
   ⟨ready (by decide +kernel), (endable_of (by decide +kernel)).2, by decide⟩,
   ⟨ready (by decide +kernel), (endable_of (by decide +kernel)).2, by decide +kernel⟩,
   ready (by decide +kernel), (endable_of (by decide +kernel)).2⟩
theorem witness_SpawnAndPrio : Ready (gs [(4, 11)]) [⟨2, 20, .src false⟩, ⟨3, 48, .octet true⟩] ∧ Ready (gs [(4, 11)]) [⟨2, 20, .src false⟩] ∧
    ((20 : BitVec 7).toNat < 50 ∧ (33 : BitVec 7).toNat % 8 ≠ 0) ∧ ((vw (gs [(4, 11)])).scalar 2 20).toNat < 12 ∧
    Ready (gs [(4, 12)]) [⟨2, 20, .src false⟩] ∧ 12 ≤ ((vw (gs [(4, 12)])).scalar 2 20).toNat :=
  ⟨ready (by decide +kernel), ready (by decide +kernel), by decide, by decide +kernel, ready (by decide +kernel), by decide +kernel⟩
/-- A launch block at 0x100 whose record pointer names window `win`, and a launch queue with `n` entries. -/
def launchState (win n : Nat) : State :=
  { memState 0x100 0 [0, 0, 0, 0, 0, 0, 0, 16 * win] with
    parts := [(0, { valid := true, queue := List.replicate n { id := 0, record := 0, request := none } })] }
def blockWord (s : State) (k : Nat) : Word := sliceWord s 0 (0x100 + 8 * k)
theorem witness_LaunchSubmission :
    (∀ x ∈ [(4, 63), (4, 64), (3, 0)], let s := launchState x.1 x.2
      Ready s (usesDA 19 20) ∧ (ctxIn s).task.cls = 0 ∧ Near (vw s) ((vw s).scalar 2 20) 32 32 0x100 ∧ Quiet s (ctxIn s) ∧ acked s 4 = some true ∧ (ctxIn s).buf = [] ∧ tagOf (blockWord s 0) = 0 ∧
      s.poisoned (slicePa 0 0x100) 32 = false ∧ winOf (blockWord s 0) = x.1 ∧ blockWord s 1 = 0 ∧ blockWord s 3 = 0 ∧
      ((s.part? (s.partOf 1)).map Partition.waiting) = some x.2) ∧
    (Ready (memState 0x108 0) (usesDA 19 20) ∧ (vw (memState 0x108 0)).nearOff ((vw (memState 0x108 0)).scalar 2 20) 32 32 = none) ∧
    (Ready segState (usesDA 19 20) ∧ (ctxIn segState).buf ≠ [] ∧ (acked segState).isSome = true) ∧
    (Ready (writeOut (launchState 4 0)) (usesDA 19 20) ∧ acked (writeOut (launchState 4 0)) 4 = some false) ∧
    (Ready (orderedState 0x100 0) (usesDA 19 20) ∧ (ctxIn (orderedState 0x100 0)).task.cls ≠ 0) := by
  refine ⟨?_, ⟨ready (by decide +kernel), by decide +kernel⟩, ⟨ready (by decide +kernel), by decide +kernel⟩,
    ⟨ready (by decide +kernel), by decide +kernel⟩, ready (by decide +kernel), by decide +kernel⟩
  simp only [List.mem_cons, List.not_mem_nil, or_false, forall_eq_or_imp, forall_eq]
  exact ⟨⟨ready (by decide +kernel), by decide +kernel, near_of (by decide +kernel), quiet_of (by decide +kernel), by decide +kernel⟩,
    ⟨ready (by decide +kernel), by decide +kernel, near_of (by decide +kernel), quiet_of (by decide +kernel), by decide +kernel⟩,
    ready (by decide +kernel), by decide +kernel, near_of (by decide +kernel), quiet_of (by decide +kernel), by decide +kernel⟩

/-! ### Engines and rings -/

/-- g8 to g15 hold a copy of 16 bytes from external memory; of an ordered task; its source in no window; a reserved OP. -/
def pushState (op src : Nat) (cls : BitVec 2) : State :=
  stateOf (ctxOf (only [(8, op), (9, src * 2 ^ 60), (10, nearAt 0x100), (11, 16)]) [] { cls := cls })
def fullQueue (eng : Nat) (s : State) : State :=
  s.modTile 0 fun t => { t with ops := List.replicate 8 { id := 0, eng := eng, kind := .record [], stage := .queued, issuer := {} } }
def acceptable (s : State) (eng : Nat) (bs : List Byte) : Bool := okUnit ((vw s).recordCheck eng bs) && okUnit ((vw s).shadowCheck eng bs)
theorem acceptable_of {s : State} {eng : Nat} {bs : List Byte} (h : acceptable s eng bs = true) :
    (vw s).recordCheck eng bs = .ok () ∧ (vw s).shadowCheck eng bs = .ok () := by
  rw [acceptable, Bool.and_eq_true] at h
  exact ⟨ok_of h.1, ok_of h.2⟩
def bytesOf (s : State) : List Byte := octetBytes (ctxIn s) 24
theorem witness_CommandPush :
    (Ready (pushState 0 4 0) [⟨2, 24, .octet false⟩] ∧ isCore 0 = false ∧ ((pushState 0 4 0).tile 0).engineUsed 0 < 8 ∧
      ((vw (pushState 0 4 0)).recordCheck 0 (bytesOf (pushState 0 4 0)) = .ok () ∧
        (vw (pushState 0 4 0)).shadowCheck 0 (bytesOf (pushState 0 4 0)) = .ok ()) ∧
      Checked (pushState 0 4 0) (ctxIn (pushState 0 4 0)) 0 (.record (bytesOf (pushState 0 4 0))) 0 (pushState 0 4 0)) ∧
    (Ready (pushState 0 3 1) [⟨2, 24, .octet false⟩] ∧ (ctxIn (pushState 0 3 1)).task.cls ≠ 0 ∧
      ∃ x, (pushState 0 3 1).checkOp 0 1 (.record (bytesOf (pushState 0 3 1))) 0 0 = .ok x) ∧
    (Ready (pushState 0 6 1) [⟨2, 24, .octet false⟩] ∧ (ctxIn (pushState 0 6 1)).task.cls ≠ 0 ∧
      ((vw (pushState 0 6 1)).recordCheck 0 (bytesOf (pushState 0 6 1)) = .ok () ∧
        (vw (pushState 0 6 1)).shadowCheck 0 (bytesOf (pushState 0 6 1)) = .ok ()) ∧
      isOk ((pushState 0 6 1).checkOp 0 1 (.record (bytesOf (pushState 0 6 1))) 0 0) = false) ∧
    (Ready (pushState 4 4 0) [⟨2, 24, .octet false⟩] ∧ opCount 0 ≤ ((bytesOf (pushState 4 4 0)).headD 0).toNat) ∧
    (Ready (fullQueue 0 (gs [])) [⟨2, 24, .octet false⟩] ∧ 8 ≤ ((fullQueue 0 (gs [])).tile 0).engineUsed 0) :=
  ⟨⟨ready (by decide +kernel), by decide, by decide +kernel, acceptable_of (by decide +kernel), .inl ⟨by decide +kernel, rfl⟩⟩,
   ⟨ready (by decide +kernel), by decide +kernel, isOk_of (by decide +kernel)⟩,
   ⟨ready (by decide +kernel), by decide +kernel, acceptable_of (by decide +kernel), by decide +kernel⟩,
   ⟨ready (by decide +kernel), by decide +kernel⟩, ready (by decide +kernel), by decide +kernel⟩

/-- A template at 0x200: OP in its byte 0, one slice, 256 bytes from 0x1000 to 0x2000; g5 its offset. -/
def template : List Nat := [0, 4, 0, 0, 0, 0, 0, 0] ++ [0, 0, 1, 0, 0, 0, 0, 0] ++ [0, 16, 0, 0, 0, 32, 0, 0] ++ [0, 1] ++ List.replicate 38 0
def collState (line off : Nat) (t : List Nat := template) : State := withMem 0x200 t (gs [(4, line), (5, off)])
def collBytes (s : State) (fn : Nat) : List Byte :=
  let t := (vw s).readReleased 0x200 64
  [BitVec.ofNat 8 fn] ++ (t.drop 1).take 7 ++ (List.range 8).map (byteOf ((vw s).scalar 2 20).toNat) ++ t.drop 16
/-- The expansion unit held by berth 1. -/
def otherUnit (s : State) : State := s.modTile 0 fun t => { t with xu := { t.xu with holder := some 1 } }
theorem witness_CollectiveAndConfig :
    (∀ off ∈ [8, 0x20000], Ready (collState 0x10000 off) (abUses 20 21) ∧ ((vw (collState 0x10000 off)).scalar 3 21).toNat = off) ∧
    (Ready (collState 0x10000 0x200) (abUses 20 21) ∧ (vw (collState 0x10000 0x200)).outsideField = false ∧
      ((collState 0x10000 0x200).tile 0).engineUsed 2 < 8 ∧
      ((vw (collState 0x10000 0x200)).recordCheck 2 (collBytes (collState 0x10000 0x200) 0) = .ok () ∧
        (vw (collState 0x10000 0x200)).shadowCheck 2 (collBytes (collState 0x10000 0x200) 0) = .ok ()) ∧
      Checked (collState 0x10000 0x200) (ctxIn (collState 0x10000 0x200)) 2 (.record (collBytes (collState 0x10000 0x200) 0)) 0
        (collState 0x10000 0x200)) ∧
    (Ready (fullQueue 2 (collState 0x10000 0x200)) (abUses 20 21) ∧ 8 ≤ ((fullQueue 2 (collState 0x10000 0x200)).tile 0).engineUsed 2) ∧
    (Ready (gs []) [⟨2, 20, .src false⟩] ∧ ((gs []).tile 0).xu.holder = none ∧ (4 : BitVec 4).toNat < 5) ∧
    (Ready (otherUnit (gs [])) [⟨2, 20, .src false⟩] ∧ ((otherUnit (gs [])).tile 0).xu.holder = some 1) := by
  refine ⟨?_, ⟨ready (by decide +kernel), by decide +kernel, by decide +kernel, acceptable_of (by decide +kernel), .inl ⟨by decide +kernel, rfl⟩⟩,
    ⟨ready (by decide +kernel), by decide +kernel⟩, ⟨ready (by decide +kernel), by decide +kernel, by decide⟩,
    ready (by decide +kernel), by decide +kernel⟩
  simp only [List.mem_cons, List.not_mem_nil, or_false, forall_eq_or_imp, forall_eq]
  exact ⟨⟨ready (by decide +kernel), by decide +kernel⟩, ready (by decide +kernel), by decide +kernel⟩

/-- Ring 3 set up, with `n` elements produced, and an operation that names it. -/
def ringWith (n : Nat) (s : State) : State :=
  s.modTile 0 fun t => { t with rings := t.rings.set (3 : Fin 16) { valid := true, eng := 0, base := 0x1000, lg := 2, esl := 4, prod := BitVec.ofNat 32 n } }
def naming (s : State) : State :=
  s.modTile 0 fun t => { t with ops := [{ id := 0, eng := 0, kind := .eop 0 0 0 0x1003 {} [], stage := .queued, issuer := {} }] }
def descState (k off esl : Nat) : State := withMem 0x100 [0, 0x10, 0, 0, 2, esl] (gs [(4, k), (5, off)])
theorem witness_RingSetupAndQuery :
    (Ready (descState 16 0x100 4) (abUses 20 21) ∧ 16 ≤ ((vw (descState 16 0x100 4)).scalar 2 20).toNat) ∧
    (Ready (descState 15 0x108 4) (abUses 20 21) ∧ Ready (descState 15 0x20000 4) (abUses 20 21) ∧ 0x108 % 16 ≠ 0) ∧
    (Ready (descState 15 0x100 4) (abUses 20 21) ∧ (vw (descState 15 0x100 4)).outsideField = false ∧
      leNat ((descState 15 0x100 4).readSlice 0 0x100 16) = 0x40200001000 ∧ (descState 15 0x100 4).ringNamed 0 15 = false) ∧
    (Ready (descState 15 0x100 9) (abUses 20 21) ∧ leNat ((descState 15 0x100 9).readSlice 0 0x100 16) / 2 ^ 40 % 2 ^ 8 = 9) ∧
    (Ready (naming (ringWith 0 (descState 3 0x100 4))) (abUses 20 21) ∧ (naming (ringWith 0 (descState 3 0x100 4))).ringNamed 0 3 = true) ∧
    (Ready (descState 3 0x100 4) [⟨2, 20, .src false⟩] ∧ ((vw (descState 3 0x100 4)).scalar 2 20).toNat < 16) :=
  ⟨⟨ready (by decide +kernel), by decide +kernel⟩, ⟨ready (by decide +kernel), ready (by decide +kernel), by decide⟩,
   ⟨ready (by decide +kernel), by decide +kernel⟩, ⟨ready (by decide +kernel), by decide +kernel⟩,
   ⟨ready (by decide +kernel), by decide +kernel⟩, ready (by decide +kernel), by decide +kernel⟩
/-- Moves of 1 and of 4 of a ring of 4 elements: with 3 and 4 in it, and of an ordered task. -/
def moveState (n x : Nat) (task : TaskRec := {}) : State := ringWith n (stateOf (ctxOf (only [(4, 3), (5, x)]) [] task))
theorem witness_RingMoves :
    (∀ x ∈ [(4, 1, 0), (3, 1, 0), (0, 1, 1), (4, 4, 1), (0, 5, 1)], let s := moveState x.1 x.2.1 { cls := x.2.2 }
      Ready s (abUses 20 21) ∧ (vw s).outsideField = false ∧ (s.tile 0).engineUsed 0 < 8 ∧ (ctxIn s).buf = [] ∧ (s.tile 0).held = [] ∧
      s.writesOut 0 0 = false ∧ (s.tile 0).mx.queue = [] ∧ (ctxIn s).pend = [] ∧ (vw s).movesAhead 3 true = 0 ∧ (vw s).movesAhead 3 false = 0 ∧
      ((s.tile 0).rings[(3 : Fin 16)].prod - (s.tile 0).rings[(3 : Fin 16)].cons).toNat = x.1 ∧ x.1 ≤ 4) := by
  simp only [List.mem_cons, List.not_mem_nil, or_false, forall_eq_or_imp, forall_eq]
  exact ⟨⟨ready (by decide +kernel), by decide +kernel⟩, ⟨ready (by decide +kernel), by decide +kernel⟩,
    ⟨ready (by decide +kernel), by decide +kernel⟩, ⟨ready (by decide +kernel), by decide +kernel⟩, ready (by decide +kernel), by decide +kernel⟩

/-- Rings 1, 2 and 3 of an engine, with elements of 2 to the `esl` bytes, and register 0 of that engine. -/
def eopState (eng esl map : Nat) (xs : List (Nat × Nat)) (t : Tile := {}) : State :=
  let r : Ring := { valid := true, eng := eng, base := 0x8000, lg := 7, esl := esl }
  stateOf (ctxOf (only xs)) { t with
    rings := ((t.rings.set (1 : Fin 16) r).set (2 : Fin 16) { r with base := 0x10000 }).set (3 : Fin 16) { r with base := 0x18000 }
    eregs := t.eregs.set (Fin.ofNat 5 eng) ((t.eregs[Fin.ofNat 5 eng]).set (0 : Fin 8) (BitVec.ofNat 64 map)) }
theorem ringReady_of {s : State} {eng : Nat} {map : Word} (hr : Ready s (abUses 20 21)) (hc : isCore s.cur.tile = false)
    (h : (!(vw s).outsideField && decide ((ctxIn s).acquireUntil ≤ s.now ∧ (s.tile s.cur.tile).sliceHeld ≤ s.now ∧ (ctxIn s).deferred = []) &&
      decide ((s.tile s.cur.tile).engineUsed eng < 8) &&
      decide (map = ((s.tile s.cur.tile).eregs[Fin.ofNat 5 eng])[(0 : Fin 8)] ∧ map.extractLsb' 15 17 = 0 ∧ map.extractLsb' 56 8 = 0)) = true)
    (hm : ∀ x ∈ (RingMap.of map).used, let r := (s.tile s.cur.tile).rings[Fin.ofNat 16 x.1]
      r.valid = true ∧ r.eng = eng ∧ 1 ≤ x.2 ∧ x.2 ≤ 2 ^ r.lg) : RingReady s (ctxIn s) eng 20 21 map := by
  simp only [Bool.and_eq_true, Bool.not_eq_true', decide_eq_true_eq] at h
  exact ⟨⟨⟨h.1.1.2.1, h.1.1.2.2.1⟩, by simp [CommitRoom, h.1.1.2.2.2], hc, h.1.1.1⟩, hr.2.2, h.1.2, h.2, hm⟩

/-- Berth 0 has the matrix unit and slots 0 and 1. -/
def unitTile : Tile := { mx := { holder := some 0, claims := 3 } }
def in1 (esl n : Nat) (eng : Nat) (xs : List (Nat × Nat)) : State := eopState eng esl (0x1001 + n * 2 ^ 32) xs unitTile
def inWord (n : Nat) : Word := BitVec.ofNat 64 (0x1001 + n * 2 ^ 32)
theorem inReady {eng esl n : Nat} {xs : List (Nat × Nat)} (hr : Ready (in1 esl n eng xs) (abUses 20 21))
    (h : (!(vw (in1 esl n eng xs)).outsideField && decide ((ctxIn (in1 esl n eng xs)).acquireUntil ≤ (in1 esl n eng xs).now ∧
        ((in1 esl n eng xs).tile (in1 esl n eng xs).cur.tile).sliceHeld ≤ (in1 esl n eng xs).now ∧ (ctxIn (in1 esl n eng xs)).deferred = []) && decide (((in1 esl n eng xs).tile (in1 esl n eng xs).cur.tile).engineUsed eng < 8) &&
      decide (inWord n = (((in1 esl n eng xs).tile (in1 esl n eng xs).cur.tile).eregs[Fin.ofNat 5 eng])[(0 : Fin 8)] ∧
        (inWord n).extractLsb' 15 17 = 0 ∧ (inWord n).extractLsb' 56 8 = 0)) = true)
    (hm : ∀ x ∈ (RingMap.of (inWord n)).used, let r := ((in1 esl n eng xs).tile (in1 esl n eng xs).cur.tile).rings[Fin.ofNat 16 x.1]
      r.valid = true ∧ r.eng = eng ∧ 1 ≤ x.2 ∧ x.2 ≤ 2 ^ r.lg) :
    RingReady (in1 esl n eng xs) (ctxIn (in1 esl n eng xs)) eng 20 21 (inWord n) := ringReady_of hr rfl h hm

/-- One row of R225 at a time: ENG and FN with a map and operands that it admits. -/
theorem witness_ringCopyIn : let s := in1 4 1 0 [(4, 4 * 2 ^ 60), (5, 2 ^ 63)]
    RingReady s (ctxIn s) 0 20 21 (inWord 1) ∧ RingOpOk (vw s) (inWord 1) (4 * 2 ^ 60) (2 ^ 63) 0 0 :=
  ⟨inReady (ready (by decide +kernel)) (by decide +kernel) (by decide +kernel), by simp only [RingOpOk, BarWord]; decide +kernel⟩
theorem witness_ringCopyOut : let s := eopState 0 4 0x1000000004300 [(4, 4 * 2 ^ 60), (5, 0x100)] {}
    RingReady s (ctxIn s) 0 20 21 0x1000000004300 ∧ RingOpOk (vw s) 0x1000000004300 (4 * 2 ^ 60) 0x100 0 0 :=
  ⟨ringReady_of (ready (by decide +kernel)) (by decide +kernel) (by decide +kernel) (by decide +kernel), by simp only [RingOpOk, BarWord]; decide +kernel⟩
/-- A trace stream: tile 1 of a field of two has a ring of the matrix engine at the offset. -/
def neighbour : Tile :=
  { owner := 1, rings := (Vector.replicate 16 {}).set 0 { valid := true, eng := 1, base := 0x8000, lg := 7, esl := 4 } }
def traceState : State :=
  let s := in1 4 1 0 [(4, 0x3001000000008000), (5, 2 ^ 63)]
  { s with launches := [(1, { launch1 with ext := (2, 1, 1) })], tiles := s.tiles ++ [(1, neighbour)] }
theorem witness_ringTrace : RingReady traceState (ctxIn traceState) 0 20 21 (inWord 1) ∧
    RingOpOk (vw traceState) (inWord 1) 0x3001000000008000 (2 ^ 63) 0 0 :=
  ⟨ringReady_of (ready (by decide +kernel)) (by decide +kernel) (by decide +kernel) (by decide +kernel), by simp only [RingOpOk, BarWord]; decide +kernel⟩
theorem witness_ringSlotFill : let s := in1 4 1 0 [(4, 0xff00001), (5, 2 ^ 63)]
    RingReady s (ctxIn s) 0 20 21 (inWord 1) ∧ RingOpOk (vw s) (inWord 1) 0xff00001 (2 ^ 63) 0 1 :=
  ⟨inReady (ready (by decide +kernel)) (by decide +kernel) (by decide +kernel), by simp only [RingOpOk, BarWord]; decide +kernel⟩
def accState : State :=
  { in1 6 1 0 [(4, 4 * 2 ^ 60), (5, 0)] with launches := [(1, { launch1 with slices := (1, 0, 0, 0) })] }
theorem witness_ringAccumulate : RingReady accState (ctxIn accState) 0 20 21 (inWord 1) ∧ RingOpOk (vw accState) (inWord 1) (4 * 2 ^ 60) 0 0 2 := by
  refine ⟨ringReady_of (ready (by decide +kernel)) (by decide +kernel) (by decide +kernel) (by decide +kernel), ?_⟩
  simp only [RingOpOk]
  exact ⟨by decide +kernel, by decide +kernel, by decide +kernel, by decide +kernel, by decide +kernel, by decide +kernel, _, rfl, by decide +kernel⟩
/-- 32 deep: 64 by 32 bytes of each operand, 8 elements of 256. -/
theorem witness_ringTileOperation : let s := eopState 1 8 0x80800003021 [(4, 0x110), (5, 32)] unitTile
    RingReady s (ctxIn s) 1 20 21 0x80800003021 ∧ RingOpOk (vw s) 0x80800003021 0x110 32 1 0 :=
  ⟨ringReady_of (ready (by decide +kernel)) (by decide +kernel) (by decide +kernel) (by decide +kernel), by simp only [RingOpOk]; decide +kernel⟩
theorem witness_ringDrain : let s := eopState 1 8 0x40000000004300 [(4, 1), (5, 2 ^ 63)] unitTile
    RingReady s (ctxIn s) 1 20 21 0x40000000004300 ∧ RingOpOk (vw s) 0x40000000004300 1 (2 ^ 63) 1 1 :=
  ⟨ringReady_of (ready (by decide +kernel)) (by decide +kernel) (by decide +kernel) (by decide +kernel), by simp only [RingOpOk, BarWord]; decide +kernel⟩
theorem witness_ringNearField : let s := in1 4 1 3 [(4, 0), (5, 2 ^ 63)]
    RingReady s (ctxIn s) 3 20 21 (inWord 1) ∧ RingOpOk (vw s) (inWord 1) 0 (2 ^ 63) 3 0 :=
  ⟨inReady (ready (by decide +kernel)) (by decide +kernel) (by decide +kernel), by simp only [RingOpOk, BarWord]; decide +kernel⟩
theorem witness_ringConsolidate : let s := eopState 4 5 0x1000100005301 [(4, 0), (5, 2 ^ 63)] {}
    RingReady s (ctxIn s) 4 20 21 0x1000100005301 ∧ RingOpOk (vw s) 0x1000100005301 0 (2 ^ 63) 4 0 := by
  refine ⟨ringReady_of (ready (by decide +kernel)) (by decide +kernel) (by decide +kernel) (by decide +kernel), ?_⟩
  simp only [RingOpOk, BarWord]
  exact ⟨by decide +kernel, by decide +kernel, by decide +kernel, by decide +kernel, by decide +kernel, (1, 1), (3, 1), by decide +kernel⟩
theorem witness_ringInsert : let s := in1 5 1 4 [(4, 0x100), (5, 2 ^ 63)]
    RingReady s (ctxIn s) 4 20 21 (inWord 1) ∧ RingOpOk (vw s) (inWord 1) 0x100 (2 ^ 63) 4 1 :=
  ⟨inReady (ready (by decide +kernel)) (by decide +kernel) (by decide +kernel), by simp only [RingOpOk, BarWord]; decide +kernel⟩
theorem witness_RingOperations : ringOpOf (.eopCopy 20 21 0) = some (20, 21, 0, 0, 0) ∧
    (Ready (fullQueue 0 (gs [])) (abUses 20 21) ∧ 8 ≤ ((fullQueue 0 (gs [])).tile 0).engineUsed 0) ∧
    (∀ map ∈ [2 ^ 15, 2 ^ 63], let s := eopState 0 4 map []
      Ready s (abUses 20 21) ∧ (s.tile 0).engineUsed 0 < 8 ∧ ((s.tile 0).eregs[(0 : Fin 5)])[(0 : Fin 8)] = BitVec.ofNat 64 map) := by
  refine ⟨rfl, ⟨ready (by decide +kernel), by decide +kernel⟩, ?_⟩
  simp only [List.mem_cons, List.not_mem_nil, or_false, forall_eq_or_imp, forall_eq]
  exact ⟨⟨ready (by decide +kernel), by decide +kernel⟩, ready (by decide +kernel), by decide +kernel⟩
/-- A ring of elements of 256 bytes and the template at 0x200; A is a slice number in range, or not. -/
def ringColl (a map : Nat) : State := withMem 0x200 template (eopState 2 8 map [(4, a), (5, 0x200)])
def ringCollBytes (s : State) : List Byte :=
  let t := (vw s).readReleased 0x200 64
  let line := BitVec.ofNat 64 (leNat ((t.drop 8).take 8) / 4096 * 4096 + ((vw s).scalar 2 20).toNat)
  t.take 2 ++ [0] ++ (t.drop 3).take 5 ++ (List.range 8).map (byteOf line.toNat) ++ [0, 0, 0, 0] ++ t.drop 20
theorem witness_RingCollective :
    (RingReady (ringColl 0 0x100001001) (ctxIn (ringColl 0 0x100001001)) 2 20 21 0x100001001 ∧
      Issues (ringColl 0 0x100001001) (ctxIn (ringColl 0 0x100001001)) ∧
      (vw (ringColl 0 0x100001001)).recordCheck 2 (ringCollBytes (ringColl 0 0x100001001)) = .ok () ∧
      leNat ((((vw (ringColl 0 0x100001001)).readReleased 0x200 64).drop 24).take 4) = (vw (ringColl 0 0x100001001)).tile.useBytes (some (1, 1))) ∧
    (RingReady (ringColl 4096 0x100001001) (ctxIn (ringColl 4096 0x100001001)) 2 20 21 0x100001001 ∧
      4096 ≤ ((vw (ringColl 4096 0x100001001)).scalar 2 20).toNat) ∧
    (RingReady (ringColl 0 0) (ctxIn (ringColl 0 0)) 2 20 21 0 ∧ (RingMap.of 0).in0 = none) :=
  ⟨⟨ringReady_of (ready (by decide +kernel)) (by decide +kernel) (by decide +kernel) (by decide +kernel), issues_of (by decide +kernel),
    ok_of (by decide +kernel), by decide +kernel⟩,
   ⟨ringReady_of (ready (by decide +kernel)) (by decide +kernel) (by decide +kernel) (by decide +kernel), by decide +kernel⟩,
   ringReady_of (ready (by decide +kernel)) (by decide +kernel) (by decide +kernel) (by decide +kernel), by decide +kernel⟩

/-! ### The units -/

/-- An entry of the matrix unit's queue, the unit held by berth 0 with slots 0 and 1, and the words of a tile operation. -/
def mxOp (k : MxKind) (slots : List Nat := []) (done : Option Nat := none) : MxOp :=
  { id := 0, kind := k, issuer := {}, cr := {}, slots := slots, ownView := true, doneAt := done }
def unitState (xs : List (Nat × Nat)) (q : List MxOp := []) (off : Nat := 0x100) : State :=
  withMem off [1] (stateOf (ctxOf (only xs)) { mx := { holder := some 0, claims := 3, queue := q } })
theorem unitReady_of {s : State} {us : List Use} (h : Ready s us) (hc : isCore s.cur.tile = false) : UnitReady s (ctxIn s) := ⟨h.2.1, hc⟩

/-- A fill of slot 0 that the matrix copy engine is at work on. -/
def fillingState (x : Nat) : State :=
  (unitState [(4, x)]).modTile 0 fun t => { t with ops := [{ id := 0, eng := 0, kind := .record (1 :: List.replicate 63 0), stage := .queued, issuer := {} }] }
theorem witness_SlotClaims :
    (Ready (gs [(4, 0xffff)]) [⟨2, 20, .src false⟩] ∧ UnitReady (gs [(4, 0xffff)]) (ctxIn (gs [(4, 0xffff)])) ∧
      (let mx := ((gs [(4, 0xffff)]).tile 0).mx; mx.reserved = false ∧ mx.holder = none ∧ claimed (gs [(4, 0xffff)]) = 0 ∧ mx.queue = [])) ∧
    (Ready (gs [(4, 0x10000)]) [⟨2, 20, .src false⟩] ∧ 2 ^ 16 ≤ ((vw (gs [(4, 0x10000)])).scalar 2 20).toNat) ∧
    (Ready (unitState [(4, 1)]) [⟨2, 20, .src false⟩] ∧ claimed (unitState [(4, 1)]) &&& 1 ≠ 0 ∧
      ((unitState [(4, 1)]).tile 0).mx.holder = some 0 ∧ (unitState [(4, 1)]).filling 0 1 = false) ∧
    (Ready (unitState [(4, 1)] [mxOp (.sfill 0 0 []) [0]]) [⟨2, 20, .src false⟩] ∧ (mxOp (.sfill 0 0 []) [0]).names 1 = true) ∧
    (Ready (fillingState 1) [⟨2, 20, .src false⟩] ∧ (fillingState 1).filling 0 1 = true) ∧
    (Ready (gs [(4, 1)]) [⟨2, 20, .src false⟩] ∧ (gs [(4, 1)]).filling 0 0 = false ∧ ((gs [(4, 1)]).tile 0).mx.holder ≠ some 0) :=
  ⟨⟨ready (by decide +kernel), unitReady_of (ready (us := []) (by decide +kernel)) rfl, by decide +kernel⟩, ⟨ready (by decide +kernel), by decide +kernel⟩,
   ⟨ready (by decide +kernel), by decide +kernel⟩, ⟨ready (by decide +kernel), by decide +kernel⟩, ⟨ready (by decide +kernel), by decide +kernel⟩,
   ready (by decide +kernel), by decide +kernel⟩

theorem queueRoom_of {s : State} {curb : Bool} (h : decide ((s.tile s.cur.tile).mx.queue.length < 4 ∧ (s.tile s.cur.tile).mx.entered ≠ some s.now ∧
    (curb = true → (s.tile s.cur.tile).curbUsed < (s.tile s.cur.tile).curbWindow)) = true) : QueueRoom s curb := by
  have h := of_decide_eq_true h
  exact h
/-- SFILL of 16 bytes up to the end of slot 1; MMA at K = 32 and 64; MACC; RQT at the ends of the slice; and a full queue. -/
def fillState (q : List MxOp) : State := unitState [(4, nearAt 0x100), (5, 16 * 2 ^ 32 + 0xff00001)] q
def rqtState : State := unitState [(4, 0x10), (5, 0x1ff80 * 2 ^ 32 + 0x1ff80)]
def four : List MxOp := List.replicate 4 (mxOp (.macc 2))
theorem witness_MatrixQueueEntries :
    (Ready (fillState []) (abUses 20 21) ∧ Quiet (fillState []) (ctxIn (fillState [])) ∧ Near (vw (fillState [])) ((vw (fillState [])).scalar 2 20) 16 16 0x100 ∧
      (vw (fillState [])).nearPoison 0x100 16 = false ∧ QueueRoom (fillState []) false ∧ (claimed (fillState [])).getLsbD 1 = true ∧
      ((vw (fillState [])).scalar 3 21).toNat / 2 ^ 16 % 4096 + 16 ≤ 4096) ∧
    (Ready (fillState four) (abUses 20 21) ∧ Quiet (fillState four) (ctxIn (fillState four)) ∧ ¬ QueueRoom (fillState four) false ∧ 4 ≤ ((fillState four).tile 0).mx.queue.length) ∧
    (Ready (unitState [(4, 0x10), (5, 32)]) (abUses 20 21) ∧ Quiet (unitState [(4, 0x10), (5, 32)]) (ctxIn (unitState [(4, 0x10), (5, 32)])) ∧
      QueueRoom (unitState [(4, 0x10), (5, 32)]) true ∧
      (let s := unitState [(4, 0x10), (5, 32)]
       (∀ k ∈ (mmaSlots (ctxIn s).cr 0x10 32).1 ++ (mmaSlots (ctxIn s).cr 0x10 32).2, k < 16 ∧ (claimed s).getLsbD k = true) ∧
       (s.tile 0).shadowPending 0 = false ∧ (s.tile 0).shadowPending 1 = false)) ∧
    maccOf (.maccExchange 0) = some (4, 0) ∧ ((gs []).tile 0).mx.holder ≠ some 0 ∧
    (Ready (rqtState) (abUses 20 21) ∧ Quiet rqtState (ctxIn rqtState) ∧ QueueRoom rqtState true ∧
      (∀ k, k < 128 → (0x1ff80 + k) % 2 ^ 17 < rqtState.sliceLimit 0)) :=
  ⟨⟨ready (by decide +kernel), quiet_of (by decide +kernel), near_of (by decide +kernel), by decide +kernel, queueRoom_of (by decide +kernel), by decide +kernel⟩,
   ⟨ready (by decide +kernel), quiet_of (by decide +kernel), fun h => absurd h.1 (by decide +kernel), by decide +kernel⟩,
   ⟨ready (by decide +kernel), quiet_of (by decide +kernel), queueRoom_of (by decide +kernel), by decide +kernel⟩, rfl, by decide +kernel,
   ready (by decide +kernel), quiet_of (by decide +kernel), queueRoom_of (by decide +kernel), by decide +kernel⟩
/-- A slot word of 256; a K of 16; runs past slot 15; slots not claimed. -/
theorem witness_MatrixQueueTraps : tileOpOf (.mmaz 1 20 21 0) = some (true, 1, 20, 21, 0) ∧
    (∀ x ∈ [(256, 32), (0x10, 16), (0x10, 4096), (0xff, 2048), (0x32, 32)], Ready (unitState [(4, x.1), (5, x.2)]) (abUses 20 21)) ∧
    (∃ k ∈ (mmaSlots (ctxIn (unitState [])).cr 0xff 2048).1, 16 ≤ k) ∧
    (let s := unitState []
     let slots := (mmaSlots (ctxIn s).cr 0x32 32).1 ++ (mmaSlots (ctxIn s).cr 0x32 32).2
     2 ∈ slots ∧ (claimed s).getLsbD 2 = false ∧ ∀ j ∈ slots, (claimed s).getLsbD j = false → 2 ≤ j) := by
  refine ⟨rfl, ?_, by decide +kernel, by decide +kernel⟩
  simp only [List.mem_cons, List.not_mem_nil, or_false, forall_eq_or_imp, forall_eq]
  exact ⟨ready (by decide +kernel), ready (by decide +kernel), ready (by decide +kernel), ready (by decide +kernel), ready (by decide +kernel)⟩
theorem witness_MatrixStatusAndKey : (Ready (gs [(4, 6)]) (abUses 20 48) ∧ (vw (gs [(4, 6)])).scalar 3 48 = ((gs [(4, 6)]).tile 0).mcapkey ∧
      (vw (gs [(4, 6)])).scalar 2 20 ≠ 0) ∧ (Ready (gs []) (abUses 20 48) ∧ (vw (gs [])).scalar 2 20 = 0) :=
  ⟨⟨ready (by decide +kernel), by decide +kernel⟩, ready (by decide +kernel), by decide +kernel⟩
/-- A coordinate beyond the field; a full send queue; and a message that goes. -/
def mremState (w n : Nat) : State := withMem 0x100 [1] (stateOf { ctxOf (only [(4, nearAt 0x100), (5, w)]) with buf := List.replicate n (.message message0) })
theorem witness_RemoteCommandSend : (mremState 0 0).launch? 1 = some launch1 ∧
    ∀ x ∈ [(1, 0), (0x1000, 0), (0, 8), (0, 7)], Ready (mremState x.1 x.2) (abUses 20 21) ∧ Quiet (mremState x.1 x.2) (ctxIn (mremState x.1 x.2)) ∧
      Near (vw (mremState x.1 x.2)) ((vw (mremState x.1 x.2)).scalar 2 20) 64 64 0x100 ∧ (vw (mremState x.1 x.2)).nearPoison 0x100 64 = false ∧
      (vw (mremState x.1 x.2)).queuedMessages = x.2 := by
  refine ⟨rfl, ?_⟩
  simp only [List.mem_cons, List.not_mem_nil, or_false, forall_eq_or_imp, forall_eq]
  exact ⟨⟨ready (by decide +kernel), quiet_of (by decide +kernel), near_of (by decide +kernel), by decide +kernel⟩,
    ⟨ready (by decide +kernel), quiet_of (by decide +kernel), near_of (by decide +kernel), by decide +kernel⟩,
    ⟨ready (by decide +kernel), quiet_of (by decide +kernel), near_of (by decide +kernel), by decide +kernel⟩,
    ready (by decide +kernel), quiet_of (by decide +kernel), near_of (by decide +kernel), by decide +kernel⟩
theorem witness_MatrixUnitResults : ∀ k ∈ [MxKind.mma true 1 0x10 32, .macc 4, .sfill 0 16 [7]],
    RunsNow (unitState [] [mxOp k [0] (some 100)]) 0 (mxOp k [0] (some 100)) [] := by
  intro k _
  exact ⟨rfl, ⟨100, rfl, Nat.le_refl 100⟩, rfl, rfl, rfl⟩

/-- XORD at its limits; the expansion unit free, and held by berth 1. -/
def xs0 (xs : List (Nat × Nat)) (t : Tile := {}) : State := withMem 0x100 [1] (stateOf (ctxOf (only xs)) t)
theorem expReady_of {s : State} {us : List Use} (h : Ready s us) (hc : isCore s.cur.tile = false)
    (hx : (decide ((s.tile s.cur.tile).xord.toNat ≤ (if (s.tile s.cur.tile).xkind = 0 then 127 else 15) ∧ (s.tile s.cur.tile).xu.reserved = false ∧
      (s.tile s.cur.tile).xu.holder = none ∧ (vw s).outsideField = false ∧ (s.tile s.cur.tile).xu.busyUntil ≤ s.now)) = true) :
    ExpansionReady s (ctxIn s) := by
  have hx := of_decide_eq_true hx
  exact ⟨⟨h.2.1, hc⟩, hx.1, hx.2.1, fun y hy => by simp [hx.2.2.1] at hy, hx.2.2.2⟩
theorem witness_ExpansionRegisters :
    (ExpansionReady (xs0 [(4, nearAt 0x100)] { xord := 127 }) (ctxIn (xs0 [(4, nearAt 0x100)] { xord := 127 })) ∧
      Ready (xs0 [(4, nearAt 0x100)] { xord := 127 }) [⟨2, 20, .src false⟩] ∧ Quiet (xs0 [(4, nearAt 0x100)] { xord := 127 }) (ctxIn (xs0 [(4, nearAt 0x100)] { xord := 127 })) ∧
      Reads (vw (xs0 [(4, nearAt 0x100)] { xord := 127 })) ((vw (xs0 [(4, nearAt 0x100)] { xord := 127 })).scalar 2 20) 1024 64 0x100 ∧
      (Ctx.storing (ctxIn (xs0 [(4, nearAt 0x100)])) [(0x100, List.replicate 1024 0)]).storeEntries ≤ 256) ∧
    ExpansionReady (xs0 [] { xord := 15, xkind := 1 }) (ctxIn (xs0 [] { xord := 15, xkind := 1 })) ∧
    (UnitReady (otherUnit (gs [])) (ctxIn (otherUnit (gs []))) ∧ ((otherUnit (gs [])).tile 0).xord.toNat ≤ 15 ∧
      ((otherUnit (gs [])).tile 0).xu.holder = some 1) :=
  ⟨⟨expReady_of (ready (us := []) (by decide +kernel)) rfl (by decide +kernel), ready (by decide +kernel), quiet_of (by decide +kernel),
    ⟨near_of (by decide +kernel), by decide +kernel⟩, by decide +kernel⟩,
   expReady_of (ready (us := []) (by decide +kernel)) rfl (by decide +kernel),
   unitReady_of (ready (us := []) (by decide +kernel)) rfl, by decide +kernel⟩
/-- Source registers 7 and 8; source clusters 0 and 2 behind tag 1. -/
theorem witness_ExpansionSums :
    (∀ x ∈ [7, 8], ExpansionReady (xs0 [(4, x)]) (ctxIn (xs0 [(4, x)])) ∧ Ready (xs0 [(4, x)]) (abUses 20 21) ∧
      Ready (xs0 [(4, x)]) [⟨2, 20, .src false⟩] ∧ (expTags (xs0 [(4, x)]) (ctxIn (xs0 [(4, x)])))[(0 : Fin 8)] = 0) ∧
    (∀ y ∈ [0, 2], let s := xs0 [(4, 1), (5, y)] { xu := { tags := Vector.replicate 8 1 } }
      ExpansionReady s (ctxIn s) ∧ Ready s (abUses 20 21) ∧ (expTags s (ctxIn s))[(0 : Fin 8)] = 1) := by
  constructor
  · simp only [List.mem_cons, List.not_mem_nil, or_false, forall_eq_or_imp, forall_eq]
    exact ⟨⟨expReady_of (ready (us := []) (by decide +kernel)) rfl (by decide +kernel), ready (by decide +kernel), ready (by decide +kernel), by decide +kernel⟩,
      expReady_of (ready (us := []) (by decide +kernel)) rfl (by decide +kernel), ready (by decide +kernel), ready (by decide +kernel), by decide +kernel⟩
  · simp only [List.mem_cons, List.not_mem_nil, or_false, forall_eq_or_imp, forall_eq]
    exact ⟨⟨expReady_of (ready (us := []) (by decide +kernel)) rfl (by decide +kernel), ready (by decide +kernel), by decide +kernel⟩,
      expReady_of (ready (us := []) (by decide +kernel)) rfl (by decide +kernel), ready (by decide +kernel), by decide +kernel⟩
theorem witness_ExpansionValues :
    (∀ x ∈ [3, 4], let s := xs0 [(4, x)] { xtheta := 0x3f000000 }
      ExpansionReady s (ctxIn s) ∧ Ready s (abUses 20 21) ∧ Ready s [⟨2, 20, .src false⟩] ∧ (s.tile 0).xthetaOk = true) ∧
    (ExpansionReady (xs0 [] { xtheta := 0x80000000 }) (ctxIn (xs0 [] { xtheta := 0x80000000 })) ∧ Ready (xs0 [] { xtheta := 0x80000000 }) [⟨2, 20, .src false⟩] ∧
      ((xs0 [] { xtheta := 0x80000000 }).tile 0).xthetaOk = false) := by
  refine ⟨?_, expReady_of (ready (us := []) (by decide +kernel)) rfl (by decide +kernel), ready (by decide +kernel), by decide +kernel⟩
  simp only [List.mem_cons, List.not_mem_nil, or_false, forall_eq_or_imp, forall_eq]
  exact ⟨⟨expReady_of (ready (us := []) (by decide +kernel)) rfl (by decide +kernel), ready (by decide +kernel), ready (by decide +kernel), by decide +kernel⟩,
    expReady_of (ready (us := []) (by decide +kernel)) rfl (by decide +kernel), ready (by decide +kernel), ready (by decide +kernel), by decide +kernel⟩
/-- Ring 0 of engine 3 with room, full, and not set up; XDIRECT of one target and one source, and words that break their limits. -/
def nearState (prod : Nat) (a b : Nat) : State :=
  xs0 [(4, a), (5, b)] { rings := (Vector.replicate 16 {}).set 0 { valid := true, eng := 3, base := 0x8000, lg := 1, esl := 4, prod := BitVec.ofNat 32 prod } }
theorem witness_NearField :
    (∀ n ∈ [1, 2], ExpansionReady (nearState n 0 0) (ctxIn (nearState n 0 0)) ∧ Quiet (nearState n 0 0) (ctxIn (nearState n 0 0)) ∧ Ready (nearState n 0 0) (abUses 20 21) ∧
      (let r := ((nearState n 0 0).tile 0).rings[(0 : Fin 16)]; r.valid = true ∧ r.eng = 3 ∧ r.esl = 4 ∧ (r.prod - r.cons).toNat = n)) ∧
    Near (vw (nearState 1 0 0)) (nearPtr 0 0x8010) 16 16 0x8010 ∧
    (ExpansionReady (xs0 []) (ctxIn (xs0 [])) ∧ Quiet (xs0 []) (ctxIn (xs0 [])) ∧ Ready (xs0 []) (abUses 20 21) ∧ ((xs0 []).tile 0).rings[(0 : Fin 16)].valid = false) ∧
    (Ready (xs0 [(4, 0x1fff0 * 2 ^ 32), (5, 2 ^ 48 + 2 ^ 32 + 8)]) (abUses 20 21) ∧
      Reads (vw (xs0 [(4, 0x1fff0 * 2 ^ 32), (5, 2 ^ 48 + 2 ^ 32 + 8)])) (nearPtr 0 0) 16 16 0 ∧
      Reads (vw (xs0 [(4, 0x1fff0 * 2 ^ 32), (5, 2 ^ 48 + 2 ^ 32 + 8)])) (nearPtr 0 0x1fff0) 16 16 0x1fff0 ∧
      Reads (vw (xs0 [(4, 0x1fff0 * 2 ^ 32), (5, 2 ^ 48 + 2 ^ 32 + 8)])) (nearPtr 0 8) 8 8 8) ∧
    (0x20000 < 0x1fff0 + 16 * 2 ∧ 256 < 257 ∧ 4096 < 65 * 64) := by
  refine ⟨?_, near_of (by decide +kernel), ⟨expReady_of (ready (us := []) (by decide +kernel)) rfl (by decide +kernel), quiet_of (by decide +kernel), ready (by decide +kernel), by decide +kernel⟩,
    ⟨ready (by decide +kernel), ⟨near_of (by decide +kernel), by decide +kernel⟩, ⟨near_of (by decide +kernel), by decide +kernel⟩,
      near_of (by decide +kernel), by decide +kernel⟩, by decide⟩
  simp only [List.mem_cons, List.not_mem_nil, or_false, forall_eq_or_imp, forall_eq]
  exact ⟨⟨expReady_of (ready (us := []) (by decide +kernel)) rfl (by decide +kernel), quiet_of (by decide +kernel), ready (by decide +kernel), by decide +kernel⟩,
    expReady_of (ready (us := []) (by decide +kernel)) rfl (by decide +kernel), quiet_of (by decide +kernel), ready (by decide +kernel), by decide +kernel⟩

/-- Two records of one group, and a group whose sum leaves s32. -/
theorem witness_Consolidation : ((consolidated false [⟨1, 2, 3, 4, 0⟩, ⟨1, 2, 3, 5, 0⟩]).1.map DeltaRec.mult) = [9] ∧
    (consolidated false [⟨1, 2, 3, 2 ^ 31 - 1, 0⟩, ⟨1, 2, 3, 1, 0⟩]).2 = true := by decide +kernel

/-- Records at 0x100 (KEY 1, VALUE 2, TIME 3, multiplicity 4); B is DEMIT's word, or a number of records. -/
def recordBytes : List Nat := [1] ++ List.replicate 7 0 ++ [2] ++ List.replicate 7 0 ++ [3] ++ List.replicate 7 0 ++ [4] ++ List.replicate 7 0
def deltaLaunch : Launch := { launch1 with handlers := [{ cls := 2 }] }
def deltaAt (w n : Nat) : State :=
  { withMem 0x100 recordBytes (stateOf { ctxOf (only [(4, nearAt 0x100), (5, w)]) with buf := List.replicate n (.message message0) }) with
    launches := [(1, deltaLaunch)] }
theorem starts_of {s : State} {us : List Use} (h : Ready s us) (hc : isCore s.cur.tile = false) (hq : Quiet s (ctxIn s)) : DeltaStarts s (ctxIn s) :=
  ⟨unitReady_of h hc, hq⟩
theorem serves_of {s : State} (h : decide ((s.tile s.cur.tile).consolidatorFree ≤ s.now ∧ (s.tile s.cur.tile).deltaWait = []) = true) : Serves s := by
  have h := of_decide_eq_true h
  exact ⟨h.1, by simp [h.2]⟩
/-- DEMIT's word for one record; the destination, a full send queue, and no destination; DCONS of 0, 1, 256 and 257 records; DFRONT's stages. -/
theorem witness_DeltaRecords :
    (∀ x ∈ [(0x10000, 0), (0x10000, 8), (0x10001, 0)], let s := deltaAt x.1 x.2
      DeltaStarts s (ctxIn s) ∧ Ready s (abUses 20 21) ∧ (ctxIn s).task.cls = 0 ∧ s.launch? 1 = some deltaLaunch ∧
      Reads (vw s) ((vw s).scalar 2 20) 32 32 0x100 ∧ (vw s).queuedMessages = x.2 ∧
      (deltaLaunch.demitTile ((vw s).scalar 3 21) (ctxIn s).task (deltaRecs ((vw s).readNear 0x100 32))).isSome = (x.1 == 0x10000)) ∧
    (∀ n ∈ [0, 1, 256, 257], Ready (deltaAt n 0) (abUses 20 21) ∧ Reads (vw (deltaAt n 0)) ((vw (deltaAt n 0)).scalar 2 20) (32 * n) 32 0x100 ∧
      Serves (deltaAt n 0) ∧ DeltaStarts (deltaAt n 0) (ctxIn (deltaAt n 0))) ∧
    (∀ p ∈ [15, 16], Ready (gs [(4, p)]) [⟨2, 20, .src false⟩] ∧ DeltaStarts (gs [(4, p)]) (ctxIn (gs [(4, p)]))) := by
  refine ⟨?_, ?_, ?_⟩ <;> simp only [List.mem_cons, List.not_mem_nil, or_false, forall_eq_or_imp, forall_eq]
  · exact ⟨⟨starts_of (ready (us := []) (by decide +kernel)) rfl (quiet_of (by decide +kernel)), ready (by decide +kernel), by decide +kernel, rfl,
        ⟨near_of (by decide +kernel), by decide +kernel⟩, by decide +kernel⟩,
      ⟨starts_of (ready (us := []) (by decide +kernel)) rfl (quiet_of (by decide +kernel)), ready (by decide +kernel), by decide +kernel, rfl,
        ⟨near_of (by decide +kernel), by decide +kernel⟩, by decide +kernel⟩,
      starts_of (ready (us := []) (by decide +kernel)) rfl (quiet_of (by decide +kernel)), ready (by decide +kernel), by decide +kernel, rfl,
        ⟨near_of (by decide +kernel), by decide +kernel⟩, by decide +kernel⟩
  · exact ⟨⟨ready (by decide +kernel), ⟨near_of (by decide +kernel), by decide +kernel⟩, serves_of (by decide +kernel),
        starts_of (ready (us := []) (by decide +kernel)) rfl (quiet_of (by decide +kernel))⟩,
      ⟨ready (by decide +kernel), ⟨near_of (by decide +kernel), by decide +kernel⟩, serves_of (by decide +kernel),
        starts_of (ready (us := []) (by decide +kernel)) rfl (quiet_of (by decide +kernel))⟩,
      ⟨ready (by decide +kernel), ⟨near_of (by decide +kernel), by decide +kernel⟩, serves_of (by decide +kernel),
        starts_of (ready (us := []) (by decide +kernel)) rfl (quiet_of (by decide +kernel))⟩,
      ready (by decide +kernel), ⟨near_of (by decide +kernel), by decide +kernel⟩, serves_of (by decide +kernel),
        starts_of (ready (us := []) (by decide +kernel)) rfl (quiet_of (by decide +kernel))⟩
  · exact ⟨⟨ready (by decide +kernel), starts_of (ready (us := []) (by decide +kernel)) rfl (quiet_of (by decide +kernel))⟩,
      ready (by decide +kernel), starts_of (ready (us := []) (by decide +kernel)) rfl (quiet_of (by decide +kernel))⟩

/-- An arrangement of one bucket at 0x1000, its descriptor at 0x200, with `n` entries like the record (or none). -/
def arrState (a b n : Nat) : State :=
  withMem 0x1000 ((List.range n).flatMap fun k => [1] ++ List.replicate 7 0 ++ [2 + k] ++ List.replicate 7 0 ++ [3] ++ List.replicate 7 0 ++ [4] ++ List.replicate 7 0)
    (withMem 0x200 ([0, 0x10, 0, 0, 0, 0, 0, 0] ++ [n]) (withMem 0x100 recordBytes (gs [(4, a), (5, b)])))
def theArr (n : Nat) : Arr := { off := 0x200, base := 0x1000, lgb := 0, count := n, drops := 0, seed := 0, lowt := 0 }
/-- The consolidator busy, and another berth before this one in its line. -/
def waitState (free : Nat) (line : List Nat) : State := (arrState 0 0 0).modTile 0 fun t => { t with consolidatorFree := free, deltaWait := line }
/-- DINS into an empty, a matching and (with another value) a full bucket, and of a record that says nothing; DLOOK; DCOMP at the frontier and beyond. -/
theorem witness_Arrangements :
    (∀ x ∈ [(101, []), (0, [1])], ¬ Serves (waitState x.1 x.2) ∧ DeltaStarts (waitState x.1 x.2) (ctxIn (waitState x.1 x.2)) ∧
      Ready (waitState x.1 x.2) (abUses 20 21)) ∧
    (∀ n ∈ [0, 1, 8], let s := arrState (nearAt 0x100) (nearAt 0x200) n
      DeltaStarts s (ctxIn s) ∧ Serves s ∧ Ready s (abUses 20 21) ∧ Reads (vw s) ((vw s).scalar 2 20) 32 32 0x100 ∧ Reads (vw s) ((vw s).scalar 3 21) 64 1 0x200 ∧
      arrAt (vw s).readNear 0x200 = some (theArr n) ∧ (DeltaRec.ofBytes ((vw s).readNear 0x100 32)).mult ≠ 0 ∧ Reads (vw s) (nearPtr 0 0x1000) 256 1 0x1000 ∧
      (Ctx.buffering (ctxIn s) [.insert 0x200 ((vw s).readNear 0x100 32)
        ((theArr n).insert (vw s).readNear (DeltaRec.ofBytes ((vw s).readNear 0x100 32))).1]).storeEntries ≤ 256) ∧
    (let s := arrState (nearAt 0x140) (nearAt 0x200) 1
     DeltaStarts s (ctxIn s) ∧ Serves s ∧ Ready s (abUses 20 21) ∧ Reads (vw s) ((vw s).scalar 2 20) 32 32 0x140 ∧ Reads (vw s) ((vw s).scalar 3 21) 64 1 0x200 ∧
     arrAt (vw s).readNear 0x200 = some (theArr 1) ∧ (DeltaRec.ofBytes ((vw s).readNear 0x140 32)).mult = 0) ∧
    (let s := arrState 1 (nearAt 0x200) 1
     DeltaStarts s (ctxIn s) ∧ Serves s ∧ Ready s (abUses 20 21) ∧ Reads (vw s) ((vw s).scalar 3 21) 64 1 0x200 ∧ arrAt (vw s).readNear 0x200 = some (theArr 1) ∧
     Reads (vw s) (nearPtr 0 0x1000) 256 1 0x1000) ∧
    (∀ b ∈ [0, 1], let s := arrState (nearAt 0x200) b 1
      DeltaStarts s (ctxIn s) ∧ Serves s ∧ Ready s (abUses 20 21) ∧ Reads (vw s) ((vw s).scalar 2 20) 64 1 0x200 ∧ arrAt (vw s).readNear 0x200 = some (theArr 1) ∧
      frontierCopy (s.tile 0).frontierF 1 0 = 0) := by
  refine ⟨?_, ?_, ⟨starts_of (ready (us := []) (by decide +kernel)) rfl (quiet_of (by decide +kernel)), serves_of (by decide +kernel), ready (by decide +kernel), ⟨near_of (by decide +kernel), by decide +kernel⟩, ⟨near_of (by decide +kernel), by decide +kernel⟩, by decide +kernel⟩,
    ⟨starts_of (ready (us := []) (by decide +kernel)) rfl (quiet_of (by decide +kernel)), serves_of (by decide +kernel), ready (by decide +kernel), ⟨near_of (by decide +kernel), by decide +kernel⟩, by decide +kernel, ⟨near_of (by decide +kernel), by decide +kernel⟩⟩, ?_⟩ <;>
    simp only [List.mem_cons, List.not_mem_nil, or_false, forall_eq_or_imp, forall_eq]
  · exact ⟨⟨fun h => absurd h.1 (by decide +kernel), starts_of (ready (us := []) (by decide +kernel)) rfl (quiet_of (by decide +kernel)), ready (by decide +kernel)⟩,
      fun h => absurd (h.2 1 (by decide +kernel)) (by decide +kernel), starts_of (ready (us := []) (by decide +kernel)) rfl (quiet_of (by decide +kernel)), ready (by decide +kernel)⟩
  · exact ⟨⟨starts_of (ready (us := []) (by decide +kernel)) rfl (quiet_of (by decide +kernel)), serves_of (by decide +kernel), ready (by decide +kernel),
        ⟨near_of (by decide +kernel), by decide +kernel⟩, ⟨near_of (by decide +kernel), by decide +kernel⟩, by decide +kernel, by decide +kernel,
        ⟨near_of (by decide +kernel), by decide +kernel⟩, by decide +kernel⟩,
      ⟨starts_of (ready (us := []) (by decide +kernel)) rfl (quiet_of (by decide +kernel)), serves_of (by decide +kernel), ready (by decide +kernel),
        ⟨near_of (by decide +kernel), by decide +kernel⟩, ⟨near_of (by decide +kernel), by decide +kernel⟩, by decide +kernel, by decide +kernel,
        ⟨near_of (by decide +kernel), by decide +kernel⟩, by decide +kernel⟩,
      starts_of (ready (us := []) (by decide +kernel)) rfl (quiet_of (by decide +kernel)), serves_of (by decide +kernel), ready (by decide +kernel),
        ⟨near_of (by decide +kernel), by decide +kernel⟩, ⟨near_of (by decide +kernel), by decide +kernel⟩, by decide +kernel, by decide +kernel,
        ⟨near_of (by decide +kernel), by decide +kernel⟩, by decide +kernel⟩
  · exact ⟨⟨starts_of (ready (us := []) (by decide +kernel)) rfl (quiet_of (by decide +kernel)), serves_of (by decide +kernel), ready (by decide +kernel), ⟨near_of (by decide +kernel), by decide +kernel⟩, by decide +kernel⟩,
      starts_of (ready (us := []) (by decide +kernel)) rfl (quiet_of (by decide +kernel)), serves_of (by decide +kernel), ready (by decide +kernel), ⟨near_of (by decide +kernel), by decide +kernel⟩, by decide +kernel⟩

/-! ### Control registers, traps, the dictionary -/

/-- Values at the ends of their layouts, and the first beyond. -/
theorem witness_ControlRegisters :
    (Ready (gs [(3, 48)]) [⟨1, 19, .dst false⟩] ∧ Ready (gs [(3, 48)]) [⟨1, 19, .src false⟩] ∧ isCore 0 = false) ∧
    (registerOf (gs []) (ctxIn (gs [])) 0x405 = some 0 ∧ registerOf (gs []) (ctxIn (gs [])) 0x406 = none) ∧
    (Admits 0x000 0x38 ∧ ¬ Admits 0x000 0x39 ∧ Admits 0x301 16 ∧ ¬ Admits 0x301 17 ∧ Admits 0x303 8 ∧ ¬ Admits 0x303 9) ∧
    (0x000 ∈ writableRegs ∧ 0x100 ∉ writableRegs) ∧
    (Ready (otherUnit (gs [])) [⟨1, 19, .src false⟩] ∧ ((otherUnit (gs [])).tile 0).xu.holder = some 1) :=
  ⟨⟨ready (by decide +kernel), ready (by decide +kernel), by decide⟩, by decide +kernel, by simp only [Admits]; decide, by decide,
   ready (by decide +kernel), by decide +kernel⟩
def debugState : State := { gs [] with launches := [(1, { launch1 with debugger := true })] }
theorem witness_SoftwareTraps : (Ready (gs []) [] ∧ (launch1.debugger = false ∧ (gs []).launch? 1 = some launch1)) ∧
    (Ready debugState [] ∧ ∃ l, debugState.launch? 1 = some l ∧ l.debugger = true) :=
  ⟨⟨ready (by decide +kernel), by decide +kernel⟩, ready (by decide +kernel), _, rfl, rfl⟩
/-- A context with 16 rows and one with 896; one inside its handler. -/
def rowsState (n : Nat) (inside : Bool) : State := stateOf { ctxOf (only []) with cr := { mwl := BitVec.ofNat 10 n }, inHandler := inside }
theorem witness_TrapEntry : ∀ x ∈ [(16, false), (896, false), (64, true)], let s := rowsState x.1 x.2
    s.ctx? 0 0 = some (ctxIn s) ∧ isCore 0 = false ∧ s.launch? 1 = some launch1 ∧ (ctxIn s).inHandler = x.2 ∧ launch1.trapEntry ≠ 0 ∧
    (ctxIn s).cr.mwl.toNat = x.1 ∧ Settled s (ctxIn s) := by
  have empty (s : State) (h : (ctxIn s).pend = [] ∧ (ctxIn s).replay = []) : Settled s (ctxIn s) := ⟨by simp [h.1], h.2⟩
  simp only [List.mem_cons, List.not_mem_nil, or_false, forall_eq_or_imp, forall_eq]
  exact ⟨⟨rfl, rfl, rfl, rfl, by decide, by decide +kernel, empty _ (by decide +kernel)⟩, ⟨rfl, rfl, rfl, rfl, by decide, by decide +kernel, empty _ (by decide +kernel)⟩,
    rfl, rfl, rfl, rfl, by decide, by decide +kernel, empty _ (by decide +kernel)⟩
theorem witness_TrapReturn : (Ready (gs []) [] ∧ (ctxIn (gs [])).inHandler = false) ∧ (Ready (rowsState 64 true) [] ∧ (ctxIn (rowsState 64 true)).inHandler = true) :=
  ⟨⟨ready (by decide +kernel), by decide +kernel⟩, ready (by decide +kernel), by decide +kernel⟩
/-- A pointer of window 4 with no mapping; one with a page; other windows and offsets; an ordinary entry of the dictionary and a marker. -/
def dictState (p : Nat) (w : BitVec 32) : State := (gs [(4, p)]).modBerth 0 0 fun x => { x with dict := [(5, w)] }
def mappedState : State :=
  (granules 0 4096).foldl (fun s x => s.modTile (servingCore x.1) fun t => { t with
    core := { t.core with tlb := [{ part := 0, base := 0, size := 65536, pte := 2 ^ 63 + 2 ^ 61 + 2 ^ 60 }] } }) (dictState (4 * 2 ^ 60) 0)
theorem witness_Dictionary :
    (∀ p ∈ [2 ^ 60, 4 * 2 ^ 60 + 32, 4 * 2 ^ 60 + 2 ^ 48 - 64], Ready (dictState p 0) [⟨2, 20, .src false⟩]) ∧
    (Ready (dictState (4 * 2 ^ 60) 0) [⟨2, 20, .src false⟩] ∧ (dictState (4 * 2 ^ 60) 0).extPas 0 .read (granules 0 4096) = none) ∧
    (Ready (mappedState) [⟨2, 20, .src false⟩] ∧ (mappedState.extPas 0 .read (granules 0 4096)).isSome = true) ∧
    (isDictParcel ((0x3e000000 : BitVec 32).extractLsb' 16 16) = false ∧ isDictParcel ((0xfc050000 : BitVec 32).extractLsb' 16 16) = true) := by
  refine ⟨?_, ⟨ready (by decide +kernel), by decide +kernel⟩, ⟨ready (by decide +kernel), by decide +kernel⟩, by decide⟩
  simp only [List.mem_cons, List.not_mem_nil, or_false, forall_eq_or_imp, forall_eq]
  exact ⟨ready (by decide +kernel), ready (by decide +kernel), ready (by decide +kernel)⟩

/-! ### Events -/

theorem witness_RegisterWriteEvent : (gs []).ctx? 0 0 = some (ctxIn (gs [])) ∧ isCore 0 = false ∧ Admits 0x000 0x38 ∧ ¬ Admits 0x000 0x39 ∧
    0x100 ∉ writableRegs ∧ ((otherUnit (gs [])).tile 0).xu.holder = some 1 ∧ (otherUnit (gs [])).ctx? 0 0 = some (ctxIn (gs [])) := by
  simp only [Admits]; decide +kernel
theorem witness_DebuggerEvents : (gs []).launch? 1 = some launch1 := rfl
theorem witness_StewardRequests : (gs []).part? 0 = some { valid := true } ∧ (0 : BitVec 48).toNat % 65536 = 0 ∧
    (2 ^ 48 - 65536 : BitVec 48).toNat + 65536 ≤ 2 ^ 48 := by decide +kernel
/-- Tables of partition 0 that map its page 0. -/
def tableState : State :=
  ((((gs []).writePa 0 (leBytes 8 (2 ^ 63 + 0x10000))).writePa 0x10000 (leBytes 8 (2 ^ 63 + 0x20000))).writePa 0x20000 (leBytes 8 (2 ^ 63 + 0x30000))).writePa
    0x30000 (leBytes 8 (2 ^ 63 + 2 ^ 61 + 2 ^ 60 + 0x90000))
theorem witness_OutsideWrites : (hbmSize - 1 < hbmSize ∧ hbmSize - 1 + [(7 : Byte)].length ≤ hbmSize) ∧
    (4095 < 4096 ∧ 0x1ffff < 2 ^ 17 ∧ 0x1ffff + [(7 : Byte)].length ≤ 2 ^ 17) ∧ (gs []).physOf 0 0 = none ∧
    tableState.physOf 0 0xffff = some 0x9ffff ∧ ((0xffff : BitVec 48).toNat / 65536 = (0xffff + 1 - 1) / 65536) := by decide +kernel

/-- A dead queue entry; an uncovered pending value. -/
def oldQueue : State := stateOf { ctxOf (only []) with q := (ctxOf (only [])).q.push (.scalar 3 50) }
theorem witness_QueueEvents : oldQueue.ctx? 0 0 = some (ctxIn oldQueue) ∧ ((ctxIn oldQueue).q.entry 1).dead 100 = true ∧
    ((ctxIn queueState).q.entry 1).dead 100 = false ∧ (∃ x ∈ (ctxIn loadState).pend, 100 < x.doneAt) :=
  ⟨rfl, by decide +kernel, by decide +kernel, pendingLoad, List.mem_singleton.mpr rfl, by decide⟩
theorem witness_StarvationEvent : Starved { gs [] with now := 256 } 0 0 ∧ ¬ Starved { gs [] with now := 255 } 0 0 :=
  ⟨⟨by decide, ⟨_, rfl, by decide +kernel⟩, by decide +kernel, by decide +kernel, by decide +kernel⟩,
   fun h => absurd h.2.2.2.2 (by decide +kernel)⟩
theorem witness_FetchTraps : Issues (gs []) (ctxIn (gs [])) ∧ (vw (gs [])).specOpen = false ∧ (gs []).cur.dict = none ∧
    ({ gs [] with cur := { dict := some 1023 } } : State).cur.dict = some 1023 := ⟨issues_of (by decide +kernel), by decide +kernel⟩
def noticeAt (k : Nat) (s : State) : State := s.modTile 0 fun t => { t with energyNoticeAt := k }
theorem witness_EnergyEvent : (gs []).ctx? 0 0 = some (ctxIn (gs [])) ∧ (ctxIn (gs [])).ctxnum = ((gs []).tile 0).owner ∧
    (gs []).launch? ((gs []).tile 0).owner = some launch1 ∧ launch1.trapEntry ≠ 0 ∧ (gs []).chron < ((noticeAt 101 (gs [])).tile 0).energyNoticeAt ∧
    ((noticeAt 100 (gs [])).tile 0).energyNoticeAt ≤ (gs []).chron := ⟨rfl, by decide +kernel⟩
theorem witness_PreemptEvent : (gs []).ctx? 0 0 = some (ctxIn (gs [])) ∧ (gs []).launch? 1 = some launch1 ∧ (ctxIn (gs [])).stopped = false ∧
    0 ≠ stopAgain ∧ specState.mayStop 0 0 (ctxIn specState) = false ∧ (gs []).mayStop 0 0 (ctxIn (gs [])) = true ∧ launch1.state ≠ .down ∧
    (gs []).unitsDrained 0 0 = true ∧ Settled (gs []) (ctxIn (gs [])) :=
  ⟨rfl, rfl, by decide +kernel, by decide, by decide +kernel, by decide +kernel, by decide +kernel, by decide +kernel, by simp [Settled, ctxIn, gs]; decide +kernel⟩
def saved0 : Saved := { tile := 0, ctx := ctxOf (only []) }
def resumeState : State := { gs [] with launches := [(1, { launch1 with saved := [saved0] })], tiles := [(0, { owner := 1 })] }
theorem witness_ResumeEvent : resumeState.savedOn 0 0 = some (1, { launch1 with saved := [saved0] }, saved0) ∧ (resumeState.berth 0 3).free = true ∧
    resumeState.launch? 1 = some { launch1 with saved := [saved0] } ∧ saved0.unitsFree (resumeState.tile 0) = true := by decide +kernel

/-- A free tile with a record of its launch in its inbox, in its deque, in a depot; and one in a memory core's inbox. -/
def rec0 (ch : BitVec 4) : TaskRec := { launch := 0, ctxnum := 1, chan := ch, hpc := 0x40 }
def idle (t : Tile) : State :=
  { gs [] with launches := [(1, { launch1 with images := (List.range 4).map fun i => (i, {}) })], tiles := [(0, { t with owner := 1 })] }
theorem witness_TakeWorkEvent :
    (((gs []).berth 0 0).free = false) ∧
    (let s := idle { inbox := [rec0 0] }
     s.launch? 1 ≠ none ∧ (rec0 0).cls ≠ 3 ∧ (s.berth 0 0).free = true ∧ s.exhausted 0 = false ∧ s.mayStart (s.tile 0) (rec0 0) = true ∧
     (rec0 0).marked = false ∧ servesChannel 0 0 0 = true ∧ (s.tile 0).armedOn 0 = false) ∧
    (let s := idle { deque := [rec0 0] }
     (s.berth 0 0).free = true ∧ s.exhausted 0 = false ∧ s.mayStart (s.tile 0) (rec0 0) = true ∧ (s.tile 0).inbox = [] ∧ (0 : Nat) ≠ 3) ∧
    (let s : State := { idle {} with tiles := [(4096, { core := { inbox := [rec0 0] } })] }
     (s.berth 4096 0).free = true ∧ isCore 4096 = true ∧ (s.tile 4096).core.inbox = [rec0 0]) := by decide +kernel
def depotState : State := { idle {} with depots := [(0, [(1, [rec0 0, rec0 1])])] }
theorem witness_DepotEvent : depotState.blockFor 0 = some (0, 1, [rec0 0, rec0 1]) ∧ (depotState.berth 0 0).free = true ∧
    depotState.exhausted 0 = false ∧ depotState.mayStart (depotState.tile 0) (rec0 0) = true ∧ (depotState.tile 0).deque = [] := by decide +kernel
/-- A message that has arrived: into an inbox with a place, into a full one, and behind an overflow list. -/
def arrived (n : Nat) (k : Nat) : State :=
  { idle { inbox := List.replicate n (rec0 0) } with
    flights := [{ id := 5, kind := .message { message0 with kind := k, count := 1 }, issuer := {}, left := 0 }] }
theorem witness_DeliveryEvent : ∀ n ∈ [29, 30], ∀ k ∈ [0, 1, 2, 3],
    ((arrived n k).flight? 5).map Flight.left = some 0 ∧ (arrived n k).launch? 1 ≠ none ∧ ((arrived n k).tile 0).inboxUsed = n ∧
    ((arrived n k).flight? 5).all (fun f => !(arrived n k).messageBefore f { message0 with kind := k, count := 1 }) = true := by decide +kernel
def agingState (now : Nat) : State := { idle { inbox := [rec0 3] } with now := now }
def overflowState : State := idle { channels := (Vector.replicate 16 {}).set 2 { overflow := [rec0 2] } }
theorem witness_InboxEvents : ((∃ r ∈ ((agingState 4096).tile 0).inbox, r.chan.toNat = 3) ∧
      ((agingState 4096).tile 0).channels[chanIx 3].since < 4096) ∧
    ((overflowState.tile 0).inboxUsed < 30 ∧ (overflowState.tile 0).oldestOverflow = some 2 ∧
      (overflowState.tile 0).channels[chanIx 2].overflow = [rec0 2]) :=
  ⟨⟨⟨rec0 3, List.mem_singleton.mpr rfl, by decide⟩, by decide +kernel⟩, by decide +kernel⟩
/-- Two tiles; tile 0 asks tile 1, which has one record or two. -/
def stealState (n : Nat) (asked : Option Nat) : State :=
  { gs [] with launches := [(1, { launch1 with ext := (2, 1, 1) })]
               tiles := [(0, { owner := 1, stealAsked := asked }), (1, { owner := 1, deque := List.replicate n (rec0 0) })] }
theorem witness_StealEvents : (((stealState 0 none).tile 0).stealAsked = none ∧ ((stealState 0 none).victims 0)[0]? = some 1 ∧
      ((stealState 0 none).tile 0).stealWait ≤ 100) ∧
    (∀ n ∈ [1, 2], ((stealState n (some 1)).tile 0).stealAsked = some 1 ∧
      (((stealState n (some 1)).tile 1).deque.filter ((stealState n (some 1)).mayStart ((stealState n (some 1)).tile 1))).length = n) ∧
    isCore 0 = false := by decide +kernel
theorem witness_RegroupingEvent : (idle {}).launch? 1 ≠ none ∧ (∀ a ∈ launch1.field, ∀ b ∈ launch1.field, dieOf a = dieOf b) := by decide +kernel
/-- Continuations on a barrier with a completed phase and with none, and on a channel that has a record. -/
def armedOn (kind num bar : Nat) : Armed := { task := rec0 0, kind := kind, num := num, count := 0, bar := bar, phase := 0, order := 7 }
def armState (a : Armed) (rs : List TaskRec) : State := (idle { armed := [a], inbox := rs }).setBar 0 0x100 complete 1
theorem witness_ContinuationEvents : ∀ x ∈ [(armedOn 0 0 0x100, true), (armedOn 0 0 0x200, false), (armedOn 2 0 0, true)],
    let s := armState x.1 [rec0 0]
    (s.tile 0).armed.find? (fun a => a.order == 7) = some x.1 ∧ s.triggered 0 x.1 = x.2 ∧ (s.tile 0).deque.length < 55 ∧
      (x.1.kind = 2 → (s.tile 0).headOf x.1.num = some (rec0 0)) := by decide +kernel

/-- Trackers: committed, not committed, aborted with a GET out. -/
def trackState (x : Tracker) (fs : List Flight) : State := { idle { trackers := [x] } with flights := fs }
def getFlight : Flight := { id := 5, kind := .get 0 0 0, issuer := {} }
theorem witness_RetirementEvents : ∀ x ∈ [(tracker0, [], false), ({ tracker0 with committed := false }, [], false), (tracker0, [getFlight], true),
      ({ tracker0 with aborted := true }, [getFlight], true), ({ tracker0 with aborted := true }, [], false)],
    let s := trackState x.1 x.2.1
    (s.tile 0).trackers.find? (fun y => y.id == 0) = some x.1 ∧ s.outstanding x.1.issuer = x.2.2 ∧
      (x.1.aborted = true → s.getsOut x.1.issuer = x.2.2) ∧ (s.tile 0).deque.length < 55 := by decide +kernel
/-- An ended task of key (5, 0), entry 0, whose commit is empty or not; and a launch whose last commit is still out. -/
def ended (e : Bool) : Tracker := { tracker0 with task := { rec0 0 with key := some (5, 0), cls := 1 }, committed := false, emptyCommit := e }
theorem witness_GrantEvent : (∀ e ∈ [true, false], let s := trackState (ended e) []
      (∀ l ∈ (s.launch? 1).toList, l.state ≠ .saved ∧ s.commitOpen l = false) ∧ leastKey (s.orderKeys 1) = some ((5, 0), 0)) ∧
    (∀ e ∈ (trackState (ended true) []).tiles, ∀ y ∈ e.2.trackers, Turn 1 ((5, 0), 0) y → e.1 = 0 ∧ y = ended true) ∧
    Turn 1 ((5, 0), 0) (ended true) ∧ ((trackState (ended true) []).tile 0).mx.queue = [] ∧ leastKey ((idle {}).orderKeys 1) = none ∧
    (writeOut (gs [])).commitOpen { launch1 with committing := some (vw (gs [])).issuer } = true ∧
    leastKey ((idle { inbox := [(ended true).task] }).orderKeys 1) = some ((5, 0), 0) := by
  refine ⟨by decide +kernel, ?_, by simp only [Turn]; decide +kernel, by decide +kernel⟩
  intro e he y hy _
  rw [show (trackState (ended true) []).tiles = [(0, { owner := 1, trackers := [ended true] })] from rfl, List.mem_singleton] at he
  subst he
  exact ⟨rfl, List.mem_singleton.mp hy⟩
theorem witness_OrderedFrontierEvent : (idle {}).launch? 1 ≠ none ∧ launch1.state ≠ .saved ∧
    max ((leastKey ((trackState (ended true) []).orderKeys 1)).elim 0 fun x => x.1.1) launch1.pubPhi.toNat < 2 ^ 64 ∧ 0 ∈ launch1.field ∧ 1 ∉ launch1.field := by
  decide +kernel
theorem witness_MarkEvent : let s := idle { inbox := [(ended true).task] }
    leastKey (s.orderKeys 1) = some ((5, 0), 0) ∧ (s.tiles.map Prod.fst) = [0] ∧ (∃ r ∈ (s.tile 0).inbox ++ (s.tile 0).deque, r.orderKey 1 = some ((5, 0), 0)) ∧
    leastKey ((idle {}).orderKeys 1) = none := by decide +kernel
def heldState (r : Nat) : State := idle { held := [{ issuer := {}, release := r, after := false, items := [.store 0x100 [7]] }] }
theorem witness_HoldEvent : (∀ h ∈ ((heldState 101).tile 0).held, (heldState 101).chron < h.release) ∧
    (((heldState 100).tile 0).held.length = 1 ∧ ∀ h ∈ ((heldState 100).tile 0).held, h.release ≤ (heldState 100).chron ∧ h.items = [.store 0x100 [7]] ∧
      h.issuer.tile = 0 ∧ h.issuer.key = none) := by decide +kernel
/-- A delta message that has arrived, and an open point below the input frontier. -/
def deltaMsg : State :=
  { idle { points := [{ ctxnum := 1, time := 3, stage := 2 }], frontierG := [(1, 2, 4)] } with
    flights := [{ id := 5, kind := .message { message0 with kind := 4 }, issuer := {}, left := 0 }] }
theorem witness_DeltaEvents : (deltaMsg.launch? 1 ≠ none) ∧ (deltaMsg.flight? 5).map Flight.kind = some (.message { message0 with kind := 4 }) ∧
    ((deltaMsg.flight? 5).all fun f => !deltaMsg.messageBefore f { message0 with kind := 4 }) = true ∧
    (deltaMsg.tile 0).releasable = some { ctxnum := 1, time := 3, stage := 2 } ∧ (deltaMsg.tile 0).consolidatorFree ≤ deltaMsg.now := by decide +kernel

/-- A state with one flight of the context in berth 0, whose image is image 0. -/
def flying (k : FlightKind) (f : Flight → Flight := id) : State :=
  let s := gs []
  { s with launches := [(1, { launch1 with images := [(0, {})] })], flights := [f { id := 5, kind := k, issuer := { ctxnum := 1 } }],
           tiles := s.tiles.map fun x => (x.1, { x.2 with mainFile := [0, 1].map fun r => { ctxnum := 1, image := 0, row := r, state := .awake, lastTouch := 0, dirty := false, evictable := true } }) }
def read16 (f : Flight) : Flight := { f with performed := true, left := 0, data := List.replicate 16 7 }
theorem ungated {s : State} {i : Issuer} {n : Nat} (k : Nat) (h : (s.tile n).rowGated (i.ctxnum, i.image, k) = false) : NoneGated s i n k 1 := by
  intro r h1 h2
  rwa [show r = k by omega]
theorem witness_GetEvents :
    (Holder (flying (.get 0 0 0) read16) { ctxnum := 1 } 0 0 (ctxIn (gs [])) ∧
      (flying (.get 0 0 0) read16).flight? 5 = some (read16 { id := 5, kind := .get 0 0 0, issuer := { ctxnum := 1 } }) ∧ ctlLen 0 = 16 ∧
      NoneGated (flying (.get 0 0 0) read16) { ctxnum := 1 } 0 0 1) ∧
    ((flying (.get 0 0 0)).flight? 5 ≠ none ∧ (flying (.get 0 0 0)).running? { ctxnum := 1 } = some (ctxIn (gs [])) ∧
      ((flying (.get 0 0 0)).berth 0 0).spec = none) ∧
    ((flying (.get 0 0 0) fun f => { f with failure := some (4, 8) }).flight? 5).map Flight.failure = some (some (4, 8)) :=
  ⟨⟨⟨{ launch1 with images := [(0, {})] }, {}, rfl, rfl, rfl, rfl, rfl, by decide +kernel, by decide +kernel⟩, rfl, by decide, ungated 0 (by decide +kernel)⟩,
   by decide +kernel, by decide +kernel⟩
/-- A performed ACAS whose word was poisoned; posted atomics on a clean word and on a poisoned one. -/
def atomicFlight : Flight := { id := 5, kind := .atomic 0 (3 * 2 ^ 60 + 8) 1, issuer := { ctxnum := 1 }, left := 0 }
theorem witness_WriteEvents :
    (∀ p ∈ [true, false], ((flying (.put 0 0 [7]) fun f => { f with performed := p }).flight? 5).map Flight.performed = some p) ∧
    (Holder (flying (.acas (3 * 2 ^ 60) 0 1 0x100 1) read16) { ctxnum := 1 } 0 0 (ctxIn (gs [])) ∧
      NoneGated (flying (.acas (3 * 2 ^ 60) 0 1 0x100 1) read16) { ctxnum := 1 } 0 1 1) ∧
    (∀ ps ∈ [[], [0]], ((flying (.acas (3 * 2 ^ 60) 0 1 0x100 1) fun f => { f with performed := true, poison := ps }).flight? 5).map Flight.poison = some ps) ∧
    (∀ p ∈ [false, true], let s := { gs [] with flights := [atomicFlight], memPoison := if p then [slicePa 0 8 / 8] else [] }
      s.flightSlice atomicFlight = some (0, 8) ∧ atomicFlight.issuer.key = none ∧ atomicFlight.left = 0 ∧ s.poisoned (slicePa 0 8) 8 = p) :=
  ⟨by decide +kernel, ⟨⟨{ launch1 with images := [(0, {})] }, {}, rfl, rfl, rfl, rfl, rfl, by decide +kernel, by decide +kernel⟩, ungated 1 (by decide +kernel)⟩,
   by decide +kernel, by decide +kernel⟩

/-- An external request at its serving core: new, waiting in its queue, at the head with its page in the TLB, or with a page that forbids it. -/
def req0 (k : ExtKind) : ExtReq := { id := 9, part := 0, ctxnum := 1, va := 0, kind := k, flight := 5, off := 0, src := 0, issuer := { ctxnum := 1 } }
def coreState (k : ExtKind) (q : List Nat) (pte : Option Word) (f : CoreUnit → CoreUnit := id) : State :=
  let u : CoreUnit := {
    queues := (Vector.replicate 2 []).set (Fin.ofNat 2 (chanOf 0)) q,
    tlb := (pte.map fun e => { part := 0, base := 0, size := 65536, pte := e : TlbEntry }).toList }
  ({ gs [] with reqs := [req0 k] }).modTile (servingCore 0) fun t => { t with core := f u }
def pagePte : Word := 2 ^ 63 + 2 ^ 61 + 2 ^ 60
theorem witness_RequestEvents :
    (∀ q ∈ [[9], [], List.replicate 256 8], (coreState (.read 8) q none).req? 9 = some (req0 (.read 8)) ∧
      ((coreState (.read 8) q none).tile (servingCore 0)).core.queues[chanOf 0] = q) ∧
    ((chanOf 0).val < 2 ∧ ((coreState (.read 8) [9] none).tile (servingCore 0)).core.tlb.find? (fun e => e.hits 0 0) = none) ∧
    (∀ k ∈ [ExtKind.read 8, .write [7] [], .atomic 0 1, .acas 0 1, .gather [(0, 4)]], let s := coreState k [9] (some pagePte)
      ((s.tile (servingCore 0)).core.tlb.find? fun e => e.hits 0 0).any (fun e => e.admits (s.useOf (req0 k)) && pteType e.pte != 2 && !s.poisoned (e.pa 0) 8) = true) ∧
    (let s := coreState (.write [7] []) [9] (some (2 ^ 63 + 2 ^ 61))
     ((s.tile (servingCore 0)).core.tlb.find? fun e => e.hits 0 0).all (fun e => e.admits (s.useOf (req0 (.write [7] [])))) = false) := by decide +kernel
theorem witness_TranslationEvents : (∀ x ∈ (tableState.tile 4096).core.tlb, x.hits 0 0 = false) ∧ (tableState.walk 4096 0 0).2.isSome = true := by decide +kernel
theorem witness_ServiceEvent : ∀ n ∈ [63, 64], let s := coreState (.write (List.replicate 64 7) []) [9] (some (2 ^ 63 + 2 ^ 62)) fun u => { u with inbox := List.replicate n (rec0 0) }
    s.req? 9 = some (req0 (.write (List.replicate 64 7) [])) ∧ ((s.tile (servingCore 0)).core.tlb.find? fun e => e.hits 0 0).isSome = true ∧
    (s.tile (servingCore 0)).core.waitingService = [] ∧ (s.tile (servingCore 0)).core.inbox.length = n := by decide +kernel
theorem witness_AccumulationEvent : let s := coreState (.acc (List.replicate 64 7) 0 0 2 []) [] (some pagePte)
    s.req? 9 = some (req0 (.acc (List.replicate 64 7) 0 0 2 [])) ∧ (req0 (.acc (List.replicate 64 7) 0 0 2 [])).accepted = false ∧
    ((s.tile (servingCore 0)).core.tlb.find? fun e => e.hits 0 0).isSome = true ∧
    (s.tile (servingCore 0)).core.held = [] ∧ (s.tile (servingCore 0)).core.spill = [] ∧ (s.tile (servingCore 0)).core.spillNext = [] ∧
    (s.tile (servingCore 0)).core.next.length < 4096 ∧ nextOfLine (s.tile (servingCore 0)).core (1, 0, 0) = 0 ∧
    (1 : Nat) ≠ nextOfLine (s.tile (servingCore 0)).core (1, 0, 0) := by decide +kernel
def packet0 : Packet := { id := 1, at_ := 5, part := 0, ctxnum := 1, stile := 0, cls := 0, dkind := 1, dtile := 5, flits := 1, born := 0, charged := 1, upward := true, inPort := 9, cargo := .request 5 0 8 }
def tokenState : State := { gs [] with packets := [packet0], stew := { share := [(0, 100)] } }
theorem witness_TokenEvent : packet0 ∈ tokenState.packets ∧ tileZ packet0.at_ = 0 ∧ tokenState.activeAt 5 true ≠ [] ∧
    ((tokenState.activeAt 5 true).map (shareOf tokenState)).sum ≤ 100 ∧ tokenState.grants (tokenState.activeAt 5 true) ≠ [] := by decide +kernel

/-- A record's bytes from its 8-byte words, and a tile with one operation of it, at a stage. -/
def words (ws : List Nat) : List Byte := (ws ++ List.replicate (8 - ws.length) 0).flatMap (leBytes 8)
def op0 (eng : Nat) (k : OpKind) (stage : OpStage) : EngineOp := { id := 6, eng := eng, kind := k, stage := stage, issuer := { ctxnum := 1 } }
def engState (n : Nat) (o : EngineOp) (t : Tile := {}) : State := { gs [] with tiles := [(n, { t with owner := 1, ops := [o] })] }
def running : OpStage := .running 0 0
/-- A command of one run of 16 bytes, within the slice or with an end in tile 1's, and how far it has come. -/
def copyOp (op : Nat) (src dst : Nat) (asked put : Nat := 0) : EngineOp :=
  { op0 0 (.record (words [op, src, dst, 16])) running with asked := asked, put := put }
def copyRun (op : Nat) (src dst : Nat) (asked put : Nat := 0) (fs : List Flight := []) : State :=
  { engState 0 (copyOp op src dst asked put) with launches := [(1, { launch1 with ext := (2, 1, 1) })], flights := fs }
def mine : Nat := 3 * 2 ^ 60 + 0x100
def mineToo : Nat := 3 * 2 ^ 60 + 0x400
def theirs : Nat := 0x3001000000000100
def copyRec (op : Nat) : List Byte := words [op, mine, mineToo, 16]
theorem begins_of {s : State} {n : Nat} {o : EngineOp} (h : decide (o.issuer.key = none ∧ o.issuer.tile = n ∧ o.put = 0 ∧ o.asked = 0 ∧ s.opFlights n o.id = [] ∧
    (s.tile n).sliceHeld ≤ s.now) = true) : Begins s n o := by
  have h := of_decide_eq_true h
  exact h
theorem witness_LocalCopies :
    (∀ x ∈ [(0, mineToo), (1, 0), (2, 4 * 2 ^ 60), (3, mineToo)], let s := copyRun x.1 mine x.2
      s.takenCopy 0 6 x.1 = some (copyOp x.1 mine x.2, Copy.ofBytes (words [x.1, mine, x.2, 16])) ∧ Begins s 0 (copyOp x.1 mine x.2) ∧
      s.sourceOf 0 1 mine 16 = .here (.at_ 0x100) ∧ s.poisonIn (slicePa 0 0x100) 16 = [] ∧ (Copy.ofBytes (words [x.1, mine, x.2, 16])).len = 16) ∧
    (copyRun 0 mine mineToo).sinkOf 0 1 mineToo 16 = .here (.at_ 0x400) ∧ 0x100 + 16 ≤ 0x400 ∧
    ((copyRun 2 mine (4 * 2 ^ 60)).engineReqs 0).length + (granules 0 16).length ≤ 256 := by
  refine ⟨?_, by decide +kernel⟩
  simp only [List.mem_cons, List.not_mem_nil, or_false, forall_eq_or_imp, forall_eq]
  exact ⟨⟨by decide +kernel, begins_of (by decide +kernel), by decide +kernel⟩, ⟨by decide +kernel, begins_of (by decide +kernel), by decide +kernel⟩,
    ⟨by decide +kernel, begins_of (by decide +kernel), by decide +kernel⟩, by decide +kernel, begins_of (by decide +kernel), by decide +kernel⟩
/-- What a request for 16 bytes of tile 1's slice, or of external memory, has brought. -/
def fetched (p : Place) (len : Nat := 16) (n : Nat := 0) : Flight :=
  { id := 5, kind := .fetch 6 0 p len, issuer := { ctxnum := 1, tile := n }, data := List.replicate len 7, performed := true }
theorem landed_of {s : State} {n len : Nat} {o : EngineOp} {f : Flight} {p : Place} (h : decide (o.issuer.key = none ∧ o.put = 0 ∧ o.asked = len ∧
    s.opFlights n o.id = [f] ∧ f.kind = .fetch o.id 0 p len ∧ f.performed = true ∧ f.poison = [] ∧ f.data.length = len ∧ len ≤ 1024 ∧ 0 < len ∧
    (s.tile n).sliceHeld ≤ s.now) = true) : Landed s n o f p len := by
  have h := of_decide_eq_true h
  exact h
theorem witness_RemoteCopies :
    (∀ x ∈ [(0, mineToo), (1, 0), (2, 4 * 2 ^ 60)], let s := copyRun x.1 theirs x.2
      s.takenCopy 0 6 x.1 = some (copyOp x.1 theirs x.2, Copy.ofBytes (words [x.1, theirs, x.2, 16])) ∧ Begins s 0 (copyOp x.1 theirs x.2) ∧
      s.sourceOf 0 1 theirs 16 = .remote (.slice 1 0x100) ∧ 16 ≤ (Place.slice 1 0x100).room ∧ s.mayAsk 0 (.slice 1 0x100) 16 = true ∧
      (s.copyHaul 0 1 (Copy.ofBytes (words [x.1, theirs, x.2, 16]))).chases = none) ∧
    (let s := copyRun 0 theirs mineToo 16 0 [fetched (.slice 1 0x100)]
     Landed s 0 (copyOp 0 theirs mineToo 16) (fetched (.slice 1 0x100)) (.slice 1 0x100) 16 ∧
       (s.takenCopy 0 6 0).map Prod.fst = some (copyOp 0 theirs mineToo 16) ∧ s.sinkOf 0 1 mineToo 16 = .here (.at_ 0x400)) ∧
    (let s := copyRun 0 mine theirs
     Begins s 0 (copyOp 0 mine theirs) ∧ s.sinkOf 0 1 theirs 16 = .remote (.slice 1 0x100) ∧ s.sourceOf 0 1 mine 16 = .here (.at_ 0x100) ∧
       s.poisonIn (slicePa 0 0x100) 16 = [] ∧ s.mayAsk 0 (.slice 1 0x100) 16 = true) ∧
    ∀ x ∈ [(0, mineToo), (1, 0), (2, 4 * 2 ^ 60), (3, mineToo)], let s := copyRun x.1 theirs x.2 16 16
      s.takenCopy 0 6 x.1 = some (copyOp x.1 theirs x.2 16 16, Copy.ofBytes (words [x.1, theirs, x.2, 16])) ∧ s.opFlights 0 6 = [] ∧
      (s.tile 0).sliceHeld ≤ s.now := by
  refine ⟨?_, ⟨landed_of (by decide +kernel), by decide +kernel⟩, ⟨begins_of (by decide +kernel), by decide +kernel⟩, by decide +kernel⟩
  simp only [List.mem_cons, List.not_mem_nil, or_false, forall_eq_or_imp, forall_eq]
  exact ⟨⟨by decide +kernel, begins_of (by decide +kernel), by decide +kernel⟩, ⟨by decide +kernel, begins_of (by decide +kernel), by decide +kernel⟩,
    by decide +kernel, begins_of (by decide +kernel), by decide +kernel⟩
/-- One element of 4 bytes of external memory, to or from the core's own slice. -/
def layoutRec (op : Nat) : List Byte := words [op + 2 * 256, 4 * 2 ^ 60, 0, 0, 0x1000100010001, nearAt 0x400]
def layoutOp (op : Nat) (asked put : Nat := 0) : EngineOp :=
  { op0 0 (.record (layoutRec op)) running with asked := asked, put := put, issuer := { ctxnum := 1, tile := 4096 } }
def layoutRun (op : Nat) (asked put : Nat := 0) (fs : List Flight := []) : State := { engState 4096 (layoutOp op asked put) with flights := fs }
theorem witness_LayoutEvents :
    (∀ op ∈ [0, 1], let s := layoutRun op
      s.takenLayout 4096 6 op = some (layoutOp op, Layout.ofBytes (layoutRec op)) ∧ Begins s 4096 (layoutOp op) ∧
      (Layout.ofBytes (layoutRec op)).count = 1 ∧ (Layout.ofBytes (layoutRec op)).size = 4 ∧ (Layout.ofBytes (layoutRec op)).affine 0 % 256 + 4 ≤ 256 ∧
      (s.engineReqs 4096).length < 256 ∧ s.poisonIn (slicePa 4096 0x400) 4 = [] ∧ s.storeOut 4096 6 0 = false ∧
      s.sinkOf 4096 1 (nearAt 0x400) 4 = .here (.at_ 0x400) ∧ s.sourceOf 4096 1 (nearAt 0x400) 4 = .here (.at_ 0x400)) ∧
    (let s := layoutRun 0 4 0 [fetched (.ext 0) 4 4096]
     Landed s 4096 (layoutOp 0 4) (fetched (.ext 0) 4 4096) (.ext 0) 4 ∧ (s.takenLayout 4096 6 0).map Prod.fst = some (layoutOp 0 4)) ∧
    ∀ op ∈ [0, 1], let s := layoutRun op 4 4
      (s.takenLayout 4096 6 op).map Prod.fst = some (layoutOp op 4 4) ∧ s.opFlights 4096 6 = [] ∧ (s.tile 4096).sliceHeld ≤ s.now := by
  refine ⟨?_, ⟨landed_of (by decide +kernel), by decide +kernel⟩, by decide +kernel⟩
  simp only [List.mem_cons, List.not_mem_nil, or_false, forall_eq_or_imp, forall_eq]
  exact ⟨⟨by decide +kernel, begins_of (by decide +kernel), by decide +kernel⟩, by decide +kernel, begins_of (by decide +kernel), by decide +kernel⟩
/-- A queued copy whose window holds, one whose window does not, and ring moves that fit and do not. -/
def queued (k : OpKind) : State := engState 0 (op0 0 k .queued) ({ rings := (Vector.replicate 16 {}).set 3 { valid := true, eng := 0, base := 0x1000, lg := 1, esl := 4 } })
theorem witness_TakeCommandEvent : ((gs []).tile 0).nextOpOf 0 = none ∧
    (∀ k ∈ [OpKind.record (copyRec 0), .record (words [0, 6 * 2 ^ 60, 0, 16]), .ringMove 3 2 true, .ringMove 3 3 true, .ringMove 3 1 false],
      ((queued k).tile 0).nextOpOf 0 = some (op0 0 k .queued) ∧ (queued k).op? 0 6 = some (op0 0 k .queued)) ∧
    (∀ l ∈ ((queued (.ringMove 3 2 true)).launch? 1).toList, l.state ≠ .down) ∧
    isOk ((queued (.record (copyRec 0))).checkTaken 0 (op0 0 (.record (copyRec 0)) .queued)) = true ∧
    isOk ((queued (.record (words [0, 6 * 2 ^ 60, 0, 16]))).checkTaken 0 (op0 0 (.record (words [0, 6 * 2 ^ 60, 0, 16])) .queued)) = false ∧
    (let r := ((queued (.ringMove 3 2 true)).tile 0).ring 3; ¬ r.size < r.occ + 2 ∧ r.size < r.occ + 3 ∧ r.occ < 1) := by decide +kernel
/-- Operations not begun, not finished, and finished, with no barrier and with one. -/
theorem witness_OperationEndEvent : (∀ x ∈ [(0, 0), (16, 101), (16, 100)], let o := op0 0 (.record (copyRec 0)) (.running x.1 x.2)
      (engState 0 o).op? 0 6 = some o ∧ (engState 0 o).opFlights 0 6 = [] ∧ (engState 0 o).countsOf 0 o = []) ∧
    ({ engState 0 (op0 0 (.record (copyRec 0)) (.running 16 100)) with flights := [fetched (.slice 1 0)] }).opFlights 0 6 ≠ [] ∧
    (let o := op0 0 (.record (words [256, 3 * 2 ^ 60 + 0x100, 3 * 2 ^ 60 + 0x400, 16, 0x200])) (.running 16 100)
     (engState 0 o).countsOf 0 o = [(0, 0x200, 16)]) := by decide +kernel
/-- A ring operation that its rings allow: a copy out of ring 3, a drain, and a trace stream. -/
def fireOp (eng fn : Nat) (a map : Word) : EngineOp := { op0 eng (.eop fn a (2 ^ 63) map {} []) .queued with checked := true }
def fireState (eng fn : Nat) (a map : Word) : State :=
  { engState 0 (fireOp eng fn a map) { rings := (Vector.replicate 16 {}).set 3 { valid := true, eng := eng, base := 0x1000, lg := 6, esl := if eng = 1 then 8 else 4, prod := if eng = 1 then 0 else 2 } }
    with launches := [(1, { launch1 with ext := (2, 1, 1) })] }
def outState : State := fireState 0 0 (3 * 2 ^ 60 + 0x400) 0x100001003
def outOp : EngineOp := fireOp 0 0 (3 * 2 ^ 60 + 0x400) 0x100001003
def drainState : State := fireState 1 1 0 0x40000000004300
def drainOp : EngineOp := fireOp 1 1 0 0x40000000004300
theorem clean_of {s : State} {n count : Nat} {r : Ring} (h : decide (3 ≤ r.esl ∧ ∀ i < count, ∀ j < 2 ^ r.esl,
    s.memPoison.contains ((slicePa n (r.elem (r.cons.toNat + i)) + j) / 8) = false) = true) : CleanRing s n r count := by
  have h := of_decide_eq_true h
  exact ⟨h.1, fun i j hi hj => h.2 i hi j hj⟩
/-- Two streams to the ring of tile 1, the second sender behind the first. -/
def streamOp : EngineOp := fireOp 0 0 0x3001000000008000 0x100001003
def traceFire : State :=
  let s := fireState 0 0 0x3001000000008000 0x100001003
  { s with launches := [(1, { launch1 with ext := (3, 1, 1) })], tiles := s.tiles ++ [(1, neighbour), (2, s.tile 0)] }
theorem witness_FiringEvents : ((gs []).fires 0 6 = none ∧ (gs []).goesOn 0 6 = none) ∧
    (outState.fires 0 6 = some outOp ∧ outState.op? 0 6 = some outOp ∧ outState.streamOf 0 outOp = none ∧
      (RingMap.of 0x100001003).in0 = some (3, 1) ∧ (RingMap.of 0x100001003).out = none ∧ outState.sinkOf 0 1 (3 * 2 ^ 60 + 0x400) 16 = .here (.at_ 0x400) ∧
      0x400 + 16 ≤ ((outState.tile 0).ring 3).elem 0 ∧ 1 ≤ ((outState.tile 0).ring 3).size) ∧
    Begins outState 0 outOp ∧ CleanRing outState 0 ((outState.tile 0).ring 3) 1 ∧
    (drainState.fires 0 6 = some drainOp ∧ drainState.op? 0 6 = some drainOp ∧ (drainState.tile 0).mxLate 100 = true ∧ drainState.firesLater 0 drainOp = false) ∧
    (∀ n ∈ [0, 2], traceFire.fires n 6 = some streamOp ∧ traceFire.op? n 6 = some streamOp ∧ traceFire.streamOf n streamOp = some (1, 0) ∧
      traceFire.streamAhead n 1 0 = (n == 0)) ∧
    (1 ≤ ((traceFire.tile 1).ring 0).size ∧ ((traceFire.tile 1).ring 0).esl = ((traceFire.tile 2).ring 3).esl ∧ streamOp.issuer.key = none) ∧
    CleanRing traceFire 2 ((traceFire.tile 2).ring 3) 1 :=
  ⟨by decide +kernel, by decide +kernel, begins_of (by decide +kernel), clean_of (by decide +kernel), by decide +kernel, by decide +kernel, by decide +kernel,
   clean_of (by decide +kernel)⟩
/-- Consolidator commands of one record, the consolidator free and busy. -/
def consRec (op : Nat) : List Byte := words [op, 0x100 + 2 ^ 32, 0x400 + (if op = 2 then 0 else 2 ^ 32), 0x500]
def consState (op free : Nat) : State := engState 0 (op0 4 (.record (consRec op)) running) { consolidatorFree := free }
theorem witness_ConsolidatorEvents : ∀ op ∈ [0, 1, 2], ∀ free ∈ [100, 101],
    (consState op free).takenCons 0 6 op = some (op0 4 (.record (consRec op)) running, Cons.ofBytes (consRec op)) ∧
    (consState op free).consBusy 0 = decide (free = 101) := by decide +kernel

theorem witness_UnitEvents : nextEntry ((gs []).tile 0).mx.queue = none ∧
    nextEntry ((unitState [] [mxOp (.macc 2)]).tile 0).mx.queue = some (mxOp (.macc 2)) ∧ ((unitState [] [mxOp (.macc 2)]).tile 0).mx.freeAt ≤ 100 ∧
    (mxOp (.rqt false 0 0)).ownView = true ∧ (mxOp (.rqt false 0 0)).scaleSources ≠ ([], []) ∧
    (let s := (unitState [] [mxOp (.rqt false 0 0)]).modTile 0 fun t => { t with sliceHeld := 101 }
     nextEntry (s.tile 0).mx.queue = some (mxOp (.rqt false 0 0)) ∧ s.now < (s.tile 0).sliceHeld) := by
  decide +kernel
/-- A remote MMA at K = 32 with the key 9: accepted, and refused with another key; and its reply. -/
def remoteMsg (op key : Nat) : Message := { message0 with kind := 5, payload := words [op, key, 0x10, 32] }
def remoteState (m : Message) : State :=
  { engState 0 (op0 0 (.ringMove 0 0 true) .held) { mcapkey := 9, mx := { holder := some 0, claims := 3 } } with
    flights := [{ id := 5, kind := .message m, issuer := {}, left := 0 }] }
def reasonOf (m : Message) : Nat := ((remoteState m).tile 0).remoteReason m.payload (remoteRegs m.payload 0)
theorem witness_RemoteEvents : (∀ op ∈ [0, 1, 2], ((remoteState (remoteMsg op 9)).flight? 5).map Flight.kind = some (.message (remoteMsg op 9)) ∧
      ((remoteState (remoteMsg op 9)).flight? 5).all (fun f => !(remoteState (remoteMsg op 9)).messageBefore f (remoteMsg op 9)) = true) ∧
    reasonOf (remoteMsg 0 9) = 0 ∧ reasonOf (remoteMsg 0 8) = 1 ∧ ((remoteState (remoteMsg 0 9)).tile 0).mxLate 100 = true ∧
    ((remoteState (remoteMsg 0 9)).tile 0).curbRoom = true ∧
    (∀ p ∈ [true, false], ((flying (.mxReply 0 0x100 1) fun f => { f with performed := p }).flight? 5).map Flight.performed = some p) := by decide +kernel
/-- Collective commands of one slice of 256 bytes, taken; and one whose source is an accumulator tile. -/
def collRec (op srck : Nat) : List Byte := words [op + 4 * 256 + srck * 65536, 0x10000, 0x1000 + 0x2000 * 2 ^ 32, 256 + 0x300 * 2 ^ 32, 0x340]
def collAt (op srck : Nat) (stage : OpStage) (u : CollectiveUnit := {}) : State := engState 0 (op0 2 (.record (collRec op srck)) stage) { coll := u }
theorem witness_SourceEvents : (∀ op ∈ [0, 1, 2, 3], let s := collAt op 0 running
      s.op? 0 6 = some (op0 2 (.record (collRec op 0)) running) ∧ (op0 2 (.record (collRec op 0)) running).coll? = some (Coll.ofBytes (collRec op 0)) ∧
      (Coll.ofBytes (collRec op 0)).op = op ∧ (s.tile 0).coll.partialOf 6 = none ∧ (s.tile 0).sliceHeld ≤ s.now ∧ (Coll.ofBytes (collRec op 0)).lb = false) ∧
    (Coll.ofBytes (words [4 * 256 + 2 ^ 24 * 3, 0, 0, 0, 0])).lb = true ∧
    (∀ k ∈ [1, 2], ∀ stage ∈ [OpStage.held, .queued], (Coll.ofBytes (collRec 0 k)).srck = k ∧ (op0 2 (.record (collRec 0 k)) stage).waiting = true ∧
      ((collAt 0 k stage).tile 0).coll.shadow[Fin.ofNat 2 (k - 1)] = none ∧ ((collAt 0 k stage).tile 0).mx.queue = [] ∧
      (op0 2 (.record (collRec 0 k)) stage).counts = 0) := by decide +kernel
/-- A command of tile `n` that is to be announced at tile 0, and its announcement on the way and there. -/
def collBy (n : Nat) (fs : List Flight := []) : State :=
  { engState n { op0 2 (.record (collRec 0 0)) running with issuer := { ctxnum := 1, tile := n } } { coll := { partials := [{ op := 6, bytes := List.replicate 256 1 }] } } with
    launches := [(1, { launch1 with ext := (2, 1, 1) })], flights := fs }
def announcing (left : Nat) : Flight := { id := 5, kind := .announce 6 0 (collRec 0 0), issuer := { ctxnum := 1, tile := 1 }, left := left }
theorem witness_AnnounceEvents :
    (∀ n ∈ [0, 1], let o : EngineOp := { op0 2 (.record (collRec 0 0)) running with issuer := { ctxnum := 1, tile := n } }
      (collBy n).announcement n 6 = none ∧ (collBy n).op? n 6 = some o ∧ o.issuer.away = none ∧ o.coll? = some (Coll.ofBytes (collRec 0 0)) ∧
      ((collBy n).hitchLine 1 0).filter (fun h => h != 0) = none ∧ (collBy n).rootOf 1 n 0 (Coll.ofBytes (collRec 0 0)).root = some 0 ∧
      (((collBy n).tile n).coll.partialOf 6).isSome = true ∧ (collBy n).announceBlocked n o (Coll.ofBytes (collRec 0 0)) = false) ∧
    ∀ left ∈ [0, 1], (collBy 1 [announcing left]).announcement 1 6 = some (announcing left) := by decide +kernel
/-- Rounds at tile 0: to be started, with a slice of its own or of tile 1 to fold, folded, failed, and with a receiver. -/
def round0 (nsl : Nat) (tile : Nat := 0) : Round :=
  { id := 0, ctxnum := 1, axis := 0, parts := (List.range nsl).map fun k => (k, tile, 6 + k, words [4 * 256, k + nsl * 65536, 0x1000 + 0x2000 * 2 ^ 32, 256, 0x340], { ctxnum := 1 }),
    acc := List.replicate 256 0, nextSlice := 1, started := false, failed := false, poison := [], deliver := [], folded := false }
def roundState (r : Round) (fs : List Flight := []) : State :=
  { collAt 0 0 running { partials := [{ op := 6, bytes := List.replicate 256 1 }, { op := 7, bytes := List.replicate 256 1 }], rounds := [r] } with flights := fs }
def pulling (p : Bool) : Flight := { id := 5, kind := .pull 0 1 7 none, issuer := { ctxnum := 1 }, data := List.replicate 256 1, performed := p }
theorem witness_PullEvents :
    (∀ r ∈ [round0 1, { round0 2 with started := true }, { round0 1 with started := true }, { round0 1 with failed := true }, { round0 2 with failed := true, parts := (round0 1).parts }],
      r.lead.isSome = true ∧ r.folded = false ∧ r.hasSlice 0 = true ∧ ((roundState r).tile 0).coll.rounds = [r]) ∧
    ((roundState (round0 1)).tile 0).storeFits 256 = true ∧
    (((roundState (round0 1)).modColl 0 fun u => { u with partials := List.replicate 256 { op := 9, bytes := List.replicate 256 1 } }).tile 0).storeFits 256 = false ∧
    (let r := { round0 2 with started := true }
     (r.parts.find? fun p => p.1 == r.nextSlice).map (fun p => (p.2.1, p.2.2.1)) = some (0, 7) ∧ ((roundState r).tile 0).coll.partialOf 7 ≠ none) ∧
    (let r := { round0 2 1 with started := true }
     (r.parts.find? fun p => p.1 == r.nextSlice).map (fun p => (p.2.1, p.2.2.1)) = some (1, 7) ∧ (roundState r).pullOf 0 0 1 7 = none ∧
      ∀ p ∈ [true, false], (roundState r [pulling p]).pullOf 0 0 1 7 = some (pulling p)) := by decide +kernel
def delivering (p : Bool) : Flight := { id := 5, kind := .deliver 0 1 0x2000 0x340 (List.replicate 256 1), issuer := { ctxnum := 1 }, performed := p }
theorem witness_ResultEvents :
    (∀ d ∈ [0, 1], let r := { round0 1 with deliver := [d], folded := true }
      (roundState r).deliveryTo 0 0 d = none ∧ ((roundState r).tile 0).coll.rounds.find? (fun x => x.id == 0) = some r ∧ r.lead.isSome = true ∧
      (∀ p ∈ r.parts, p.2.2.2.2.key = none) ∧ r.parts ≠ [] ∧ (roundState r).hitchLine 1 0 = none) ∧
    (∀ d ∈ [0, 1], slicePa d 0x340 + 16 ≤ slicePa d 0x2000) ∧
    ∀ p ∈ [true, false], (roundState (round0 1) [delivering p]).deliveryTo 0 0 1 = some (delivering p) ∧ (delivering p).issuer.key = none := by decide +kernel


/-- Packets: one that waits, one without an entry, one in flight that wins its output, one behind another, one at its tile. -/
def fab (ps : List Packet) : State := { gs [] with packets := ps }
def packet1 : Packet := { id := 1, at_ := 0, part := 0, ctxnum := 1, stile := 0, cls := 0, dkind := 0, dtile := 2, flits := 1, born := 0, stag := some 0, since := 100, cargo := .request 5 0 8 }
theorem witness_RoundTheFabric : (∃ p ∈ (fab [packet1]).packets, p.stile = (fab [packet1]).chron / 1024 % 4096 ∧ p.stag ≠ none) ∧
    (∀ p ∈ (fab [{ packet1 with stile := 1 }]).packets, ¬ (p.stile = (fab [packet1]).chron / 1024 % 4096 ∧ p.stag ≠ none)) := by decide +kernel
/-- A source whose 32 entries are taken. -/
def tagsTaken : List Packet := (List.range 32).map fun k => { packet1 with id := 10 + k, at_ := 9, stag := some k }
theorem witness_HopEvent :
    (∀ p ∈ [{ packet1 with since := 101 }, packet1, { packet1 with stag := none }, { packet1 with dtile := 0 }],
      (fab [p]).packets.find? (fun q => q.id == 1) = some p ∧ p.cls ≤ 10 ∧ p.dkind ≤ 2 ∧ p.dtile < 4096 ∧ p.inPort = 7) ∧
    (∀ p ∈ [{ packet1 with cls := 11 }, { packet1 with dkind := 3 }, { packet1 with dtile := 4096 }], 10 < p.cls ∨ 2 < p.dkind ∨ 4096 ≤ p.dtile) ∧
    ((fab [packet1]).isHead packet1 = true ∧ ((fab [packet1]).choice packet1).any (fun c => decide (c.port < 6) && !(fab [packet1]).beaten packet1 c.port) = true) ∧
    (fab [{ packet1 with stag := none }]).freeTag 0 = some 0 ∧ (fab tagsTaken).freeTag 0 = none ∧
    (fab [packet1, { packet1 with id := 2, since := 99 }]).isHead packet1 = false ∧
    (let q := { packet1 with id := 2, inPort := 2, dtile := 2, hops := 3 }
     ((fab [packet1, q]).choice packet1).any (fun c => (fab [packet1, q]).beaten packet1 c.port) = true) ∧
    (let p := { packet1 with dtile := 0, inPort := 1 }
     (fab [p]).isHead p = true ∧ ((fab [p]).choice p).any (fun c => decide (10 ≤ c.port) && !(fab [p]).beaten p c.port) = true) ∧
    (let p := { packet1 with dtile := 0, dkind := 1 }
     (fab [p]).heldForPort p = false ∧ ((fab [p]).choice p).any (fun c => decide (10 ≤ c.port) && !(fab [p]).beaten p c.port) = true ∧ p.charged = 0) := by decide +kernel
/-- The third replay of a link that did not help; a packet on its way over a link. -/
def linkState (at_ inPort since : Nat) (replays : List (Nat × Nat)) : State :=
  (fab [{ packet1 with at_ := at_, inPort := inPort, since := since }]).modTile at_ fun t => { t with router := { t.router with replays := replays } }
theorem witness_LinkEvents : (fab [packet1]).packets.find? (fun q => q.id == 1) = some packet1 ∧
    (let s := linkState 0 1 100 [(1, 0), (1, 50), (1, 100), (2, 100)]
     s.packets.length = 1 ∧ ((s.tile 0).router.replays.filter fun x => decide (s.chron < x.2 + 1000000) && x.1 == 1).length = 3) ∧
    (let s := linkState (Machine.neighbour 0 0) (opposite 0) 101 []
     Machine.neighbour 0 0 ≠ 0 ∧ ∀ p ∈ s.packets, p.at_ = Machine.neighbour 0 0 ∧ p.inPort = opposite 0 ∧ s.now < p.since) := by decide +kernel
/-- A package of a hitch whose packet is to leave by rein 0; and one whose other reins of that pair have failed. -/
def reinState (down : List Nat) : State :=
  let s := fab [{ packet1 with dkind := 2, device := 1, rein := some 0 }]
  { s with hitchPos := some 0, parts := [(0, { valid := true, hpos := some 0, dies := 1 })], stew := { s.stew with reinsDown := down } }
theorem witness_ReinEvents : (0 : Nat) < reinCount ∧ 0 ∉ (reinState []).stew.reinsDown ∧ 0 ∈ (reinState [0]).stew.reinsDown ∧
    (reinState []).hitchPos = some 0 ∧ hitchPeer 0 (0 / 8) = 1 ∧ (reinState [0]).reinFor 1 0 = some 1 ∧
    (∀ p ∈ (reinState []).packets, p.rein = some 0 ∧ p.dkind = 2 ∧ p.device = 1) ∧ (∀ k, k < 8 → 8 * (0 / 8) + k ∈ [1, 2, 3, 4, 5, 6, 7] ++ [0]) := by decide +kernel

/-- Entries of a main file that have rested for 2^16 cycles and for 2^20 more, and a context whose image is in memory. -/
def restState (e : RowEntry) (now : Nat) (wbs : List WriteBack := []) (locator : Word := 0) : State :=
  let s := gs []
  { s with now := now, launches := [(1, { launch1 with images := [(0, { locator := locator })] })],
           tiles := s.tiles.map fun x => (x.1, { x.2 with mainFile := [e], writeBack := wbs }) }
def entry0 : RowEntry := { ctxnum := 1, image := 0, row := 3, state := .awake, lastTouch := 0, dirty := true, evictable := true }
def writeBack0 : WriteBack := { ctxnum := 1, image := 0, row := 3, due := 100, dirty := true }
theorem witness_RowEvents : ((restState entry0 65536).tile 0).mainFile[0]? = some entry0 ∧ entry0.lastTouch + 65536 ≤ 65536 ∧
    (let s := restState { entry0 with state := .drowsy } (65536 + 2 ^ 20) [] (0xe * 2 ^ 60)
     (s.tile 0).mainFile[0]? = some { entry0 with state := .drowsy } ∧ (s.tile 0).writingBack < 4 ∧ winOf (0xe * 2 ^ 60) = 0xe) ∧
    ¬ ((restState { entry0 with state := .drowsy } (65536 + 2 ^ 20) ((List.range 4).map fun k => { writeBack0 with row := k, due := 2 ^ 30 })).tile 0).writingBack < 4 ∧
    (restState entry0 65536).ctx? 0 0 = some (ctxIn (gs [])) ∧ isCore 0 = false ∧ 63 < (ctxIn (gs [])).cr.mwl.toNat ∧
    (restState entry0 65536).launch? 1 = some { launch1 with images := [(0, {})] } ∧ lookup 0 [(0, ({} : Image))] = some {} ∧
    (let s := restState entry0 100 [writeBack0] (0xe * 2 ^ 60)
     (s.tile 0).writeBack = [writeBack0] ∧ writeBack0.due ≤ s.now ∧ (s.imagePa 0 (0xe * 2 ^ 60) (256 * 3)).isSome = true ∧ s.ctx? 0 0 = some (ctxIn (gs [])) ∧
     (ctxIn (gs [])).ctxnum = 1 ∧ (ctxIn (gs [])).image = 0) := by decide +kernel
def rebuilding (b : Bool) (k : Option Nat := none) (lost : List Nat := []) : State :=
  (gs []).modTile 0 fun t => { t with rebuild := b, failedBank := k, lostWords := lost }
theorem witness_ErrorEvents : siteOf 0 ≠ .none ∧ hbmSize - 1 < hbmSize ∧ siteOf (2 ^ 45 + 2 ^ 13 * 4095 + 4 * 2047) = .tag 4095 2047 ∧
    ((rebuilding false).tile 0).rebuild = false ∧
    (((rebuilding true).tile 0).rebuild = true ∧ ((rebuilding true).tile 0).failedBank = none ∧ ((rebuilding true).tile 0).lostWords = []) ∧
    (((rebuilding true (some 3)).tile 0).failedBank = some 3 ∧ rebuildBank 0 ≠ 3 ∧ 0 ∉ ((rebuilding true (some 3)).tile 0).lostWords ∧
      ∃ m, m < 1792 ∧ m / 7 = 0 ∧ rebuildBank m = 3) := ⟨by decide +kernel, by decide +kernel, by decide +kernel, by decide +kernel, by decide +kernel,
  by decide +kernel, by decide +kernel, by decide +kernel, 3 - rebuildBank 0, by decide +kernel⟩

/-- A launch record of one tile whose estimate is 1000. -/
def recordWords : List Nat :=
  [2 ^ 32, 0x1010101 + 2 ^ 32, 0, 0, 1000, 0, 0, 0xffffffff] ++ List.replicate 32 0
/-- The smallest object: a header and a string table; and one with a LAUNCH section of that record. -/
def plainObject : List Byte :=
  ([0x0001000100464f53, 0x0b16 + 2 ^ 16 + 64 * 2 ^ 32, 0xffff0000 + 64 * 2 ^ 32, 0, 97, 0, 0, 0] ++ [10 * 2 ^ 32, 96, 1, 0]).flatMap (leBytes 8) ++ [0]
def launchObject : List Byte :=
  ([0x0001000100464f53, 0x0b16 + 2 * 2 ^ 16 + 64 * 2 ^ 32, 0xffff0000 + 64 * 2 ^ 32, 0, 456, 0, 0, 0] ++ [10 * 2 ^ 32, 128, 1, 0] ++
    [6 * 2 ^ 32, 136, 320, 0] ++ [0] ++ recordWords).flatMap (leBytes 8)
def partState (p : Partition) : State := { gs [] with parts := [(0, p)], launches := [] }
theorem witness_ObjectEvents : objectOk (plainObject.drop 1) = false ∧ objectOk plainObject = true ∧
    signatureOk { policy := 256 } plainObject = false ∧ signatureOk {} plainObject = true ∧ (loadedOf 0 plainObject).ext = [] ∧
    ((loadedOf 0 plainObject).dict = [] ∧ ((partState {}).storeFrames (((loadedOf 0 plainObject).regions.map Prod.snd).sum)).isSome = true) ∧
    (objectOk launchObject = true ∧ signatureOk {} launchObject = true ∧ meets 0 65536 0 320 = true ∧ (loadedOf 0 launchObject).ext = [(0, 320)]) ∧
    (({ objects := [{ id := 0 }] } : Partition).objects.find? (fun o => o.id == 0) = some { id := 0 } ∧ ∃ l ∈ (gs []).launches, l.2.part = 0 ∧ l.2.object = 0) ∧
    ((partState {}).launches = []) := by decide +kernel
/-- That record at address 0 of a mapped page, with one handler behind it; the pool at its estimate, and below. -/
def recordState (q : QueueEntry) (pool : Nat) (dies : BitVec 64) (imgdies : BitVec 64 := 0) : State :=
  let handler : List Byte := ([0, 0, 24 * 2 ^ 48 + 1 * 2 ^ 32, 8, 0].map (leBytes 8)).flatten
  let s := (tableState.writePa 0x90000 (recordWords.flatMap (leBytes 8))).writePa 0x90200 (handler.drop 8)
  { (s.writePa 0x90010 (leBytes 8 0x200)) with
    launches := []
    parts := [(0, { valid := true, dies := dies, imgdies := imgdies, pool := pool, queue := [q],
                    objects := [{ id := 0, regions := [(0, 4096)], launches := [(0, 65536)] }] })] }
/-- The record of an entry as step 1 fetches it. -/
def fetchedOf (p : Word) : Option Fetched := ((recordState { id := 0, record := p, request := none } 1000 0).fetchRecord 0 p).toOption
def entryQ (f : Option Fetched) (st : Option LaunchStatus := none) : QueueEntry := { id := 0, record := 4 * 2 ^ 60, request := none, fetched := f, status := st }
theorem witness_QueueingEvents :
    (∀ n ∈ [63, 64], ((launchState 4 n).part? 0).map Partition.waiting = some n) ∧
    ((recordState (entryQ (fetchedOf (4 * 2 ^ 60))) 1000 0).part? 0).bind Partition.head? = some (entryQ (fetchedOf (4 * 2 ^ 60))) ∧
    ((recordState (entryQ none) 1000 0).part? 0).bind Partition.head? = some (entryQ none) ∧
    ((partState {}).part? 0).map Partition.head? = some none ∧ ({} : Partition).valid = false ∧ ({} : Partition).hpos = none ∧ ({} : Partition).down = false ∧
    (fetchedOf (4 * 2 ^ 60)).isSome = true ∧ (fetchedOf (3 * 2 ^ 60)).isSome = false := by decide +kernel
/-- The pool below the estimate, for an entry new and held; no origin; an origin but no frames; and all that a placement needs. -/
def admitting (pool : Nat) (dies imgdies : BitVec 64) (st : Option LaunchStatus := none) : State :=
  recordState (entryQ (fetchedOf (4 * 2 ^ 60)) st) pool dies imgdies
theorem witness_AdmissionEvent :
    ((fetchedOf (4 * 2 ^ 60)).map Fetched.energy = some 1000 ∧ (fetchedOf (4 * 2 ^ 60)).map Fetched.ext = some (1, 1, 1) ∧
      (fetchedOf (4 * 2 ^ 60)).map Fetched.object = some 0) ∧
    (∀ st ∈ [none, some LaunchStatus.held], ((admitting 999 0 0 st).part? 0).bind Partition.head? = some (entryQ (fetchedOf (4 * 2 ^ 60)) st)) ∧
    (∀ x ∈ (admitting 1000 0 0).parts, x.2.down = false ∧ x.2.pool = 1000 ∧ (admitting 1000 0 0).firstFit x.2 (1, 1, 1) = none) ∧
    (((admitting 1000 1 0).part? 0).map (fun x => (admitting 1000 1 0).firstFit x (1, 1, 1)) = some (some 1) ∧
      ((admitting 1000 1 0).part? 0).map (fun x => ((admitting 1000 1 0).takeFrames 0 x (contextsOf (boxAt 1 (1, 1, 1))).length).isSome) = some false) ∧
    (((admitting 1000 1 2).part? 0).map (fun x => (admitting 1000 1 2).firstFit x (1, 1, 1)) = some (some 1) ∧ (admitting 1000 1 2).freeNumber = some 1 ∧
      ((admitting 1000 1 2).part? 0).all (fun x => (x.objects.find? fun y => y.id == 0).isSome) = true ∧
      ((admitting 1000 1 2).part? 0).map (fun x => ((admitting 1000 1 2).takeFrames 0 x (contextsOf (boxAt 1 (1, 1, 1))).length).isSome) = some true) := by
  decide +kernel
theorem witness_HitchEvent : (partState { hpos := some 0 }).part? 0 = some { hpos := some 0 } ∧ ({ hpos := some 0 } : Partition).hpos ≠ none := by decide +kernel
/-- A request block's entry with a status to tell; a launch with nothing left to do. -/
def tellState (st : LaunchStatus) : State :=
  partState { queue := [{ id := 3, record := 0, request := some (0, 0x200, 0x100), tell := [st] }] }
theorem witness_LaunchEnds : (∀ st ∈ [LaunchStatus.held, .placed], (((tellState st).part? 0).bind fun x => x.queue.find? fun q => q.id == 3).map QueueEntry.tell = some [st]) ∧
    0x100 + 16 ≤ 0x200 ∧ ((idle {}).launch? 1).all (fun l => l.state == .running && !(idle {}).working 1) = true ∧
    (gs []).working 1 = true ∧
    ((idle {}).part? 0).bind (fun p => p.queue.find? fun q => q.id == 0) = none := by decide +kernel

theorem witness_SaveEvent : ((idle {}).launch? 1).all (fun l => l.state != .saved) = true ∧ (idle {}).berthsOf 1 = [] ∧ ((idle {}).beginSave 1).unsaved 1 = false ∧
    ((writeOut (gs [])).beginSave 1).unsaved 1 = true := by decide +kernel
/-- A saved launch, a partition with die 0 and frames, with die 0 and none, and with no die. -/
def savedState (dies imgdies : BitVec 64) : State :=
  { gs [] with launches := [(1, { launch1 with state := .saved, savedTiles := [(0, {})] })], parts := [(0, { valid := true, dies := dies, imgdies := imgdies })], tiles := [] }
theorem witness_RestoreEvent : ((savedState 1 0).savedLaunch 0 1).isSome = true ∧
    ((savedState 1 0).part? 0).map (fun x => (savedState 1 0).firstFit x (1, 1, 1)) = some (some 0) ∧
    ((savedState 1 0).part? 0).map (fun x => ((savedState 1 0).takeFrames 0 x (contextsOf (boxAt 0 (1, 1, 1))).length).isSome) = some false := by decide +kernel
theorem witness_RestoreFrames : ((savedState 1 2).part? 0).map (fun x => (savedState 1 2).firstFit x (1, 1, 1)) = some (some 0) ∧
    ((savedState 1 2).part? 0).map (fun x => ((savedState 1 2).takeFrames 0 x (contextsOf (boxAt 0 (1, 1, 1))).length).isSome) = some true := by decide +kernel
theorem witness_RestoreNoFit : ((savedState 0 0).part? 0).map (fun x => (savedState 0 0).firstFit x (1, 1, 1)) = some none := by decide +kernel
theorem witness_DownEvents : (gs []).part? 0 = some { valid := true } ∧ 63 ∉ (gs []).stew.deadDies ∧ ([0] : List Nat) ≠ [1] := by decide +kernel
theorem witness_StewardEvents : (after (.powerOn [] 0) State.reset).stew.kernelUp = true ∧
    (let s := after (.stewardWatchdog true) (after (.powerOn [] 0) State.reset); s.stew.kernelUp = false ∧ s.stew.bootStatus = 7 ∧ s.registryOk = true ∧
      ({ s with stew := { s.stew with registry := [(0, 1)] } }).registryOk = false) := by decide +kernel
def registryEntry (p : Nat) : BitVec 2048 := BitVec.ofNat 2048 (p + 3 * 2 ^ 8 + 0xff * 2 ^ 16 + 2 * 2 ^ 64)
theorem witness_SetupEvent : (partState {}).setupRefused 63 3 0xff 2 0 0 = false ∧ (partState {}).setupRefused 63 3 0xff 2 0 64 = false ∧
    (partState {}).setupRefused 64 3 0xff 2 0 0 = true ∧ (partState {}).setupRefused 63 3 4 2 0 0 = true ∧ (partState {}).setupRefused 63 3 0xff 2 7 0 = true ∧
    (partState {}).setupRefused 63 3 0xff 2 0 63 = true ∧ (registryEntry 63).extractLsb' 64 64 = 2 ∧
    (registryEntry 63).extractLsb' 0 8 = 63 := by decide +kernel
theorem witness_EnergyEvents : 63 ∉ (gs []).stew.deadDies ∧ lookup 63 [(63, 5)] = some 5 ∧ 63 ∉ (gs []).reck.hot ∧
    (∀ i, i < 16 → i ≠ 3 → (lookup (16 * 5 + i) (gs []).reck.readings).getD 0 < 95) := by decide +kernel
theorem witness_HoldupEvent : ∀ e ∈ (partState {}).launches, e.2.state = .saved := by decide +kernel

/-! ### The whole machine -/

/-- An operand of each refused code; a row of no window; an old entry; a register that is not covered, with SCBCHK and without. -/
def pendingG (chk : Bool) : State :=
  stateOf { ctxOf (only []) with
    cr := { mwl := 64, scbchk := chk }, pend := [{ pendingLoad with dest := .g 4 0, due := 40, interlocked := true }] }
theorem witness_OperandTraps : (∃ f, scalarPair (.add 19 20 21 0) = some (19, 20, 21, 0, 1, f)) ∧
    (∀ s ∈ [gs [], oldQueue, pendingG true, pendingG false], issuing s = true ∧ (vw s).specOpen = false) ∧
    (∀ x ∈ [50, 55], 50 ≤ x ∧ x < 56) ∧ (vw (gs [])).rowOf (Opnd.of 80) = some 16 ∧
    (vw (stateOf { ctxOf (only []) with cr := { mwl := 24 } })).rowValid 24 = false ∧
    ((ctxIn oldQueue).shortfall (.slot ((ctxIn oldQueue).q.slotOf 1)) = 0 ∧ ((ctxIn oldQueue).q.slots[(ctxIn oldQueue).q.slotOf 1]).dead 100 = true) ∧
    ((ctxIn (pendingG true)).cr.scbchk = true ∧ (ctxIn (pendingG true)).shortfall (.g 4) ≠ 0) ∧
    ((ctxIn (pendingG false)).cr.scbchk = false ∧ (ctxIn (pendingG false)).awaits 100 (.g 4) = true) :=
  ⟨⟨_, rfl⟩, by decide +kernel, by decide +kernel, by decide +kernel, by decide +kernel, by decide +kernel, by decide +kernel, by decide +kernel⟩
theorem witness_EncodingRoundTrip : ∀ i ∈ [Instr.add 127 127 127 7, .ldi 0 0x2000 0, .jl (BitVec.ofInt 21 (-1)) 7, .dictionaryParcel 1023],
    i.wellFormed = true ∧ encode i ≠ [] := by decide +kernel
/-- A step that fetches; one that replays; one with an event; one where nobody issues. -/
def fetchState : State := State.reset.withFetchWord 32 0x29260028
theorem witness_StepRunsDecoded :
    (let s := { fetchState with steps := fetchState.steps + 1 }
     fetchState.halted = false ∧ s.nextEvent.isNone = true ∧ s.pick = some (0, 0) ∧ (fetchState.berth 0 0).preemptReq = none ∧
     (fetchState.berth 0 0).latch = none ∧ (ctxIn fetchState).replay = [] ∧ s.boundaryTrap 0 0 (ctxIn fetchState) = none ∧
     ((fetchState.fetchAt (ctxIn fetchState) 0).toOption.bind fun bs => (decode bs).toOption) = some (.ldi 19 5 0, [])) ∧
    (idle {}).nextEvent.isNone = true ∧ (idle {}).pick = none ∧ ({ gs [] with timed := [(100, .tokenRefill)] } : State).nextEvent.isSome = true := by decide +kernel
theorem witness_replayWord : (decodeWord (0x29260028 : BitVec 32)).toOption = some (.ldi 19 5 0) := by decide
theorem witness_MemoryCanonical : Mem.wf fetchState.mem = true ∧ (match step fetchState with | .next _ => true | _ => false) = true := by decide +kernel

/-! ### The conditions of commands beside their operands: no hold, room in the commit buffer, and commands behind an open branch -/

def quietRoom (s : State) : Bool :=
  decide ((ctxIn s).acquireUntil ≤ s.now) && decide ((s.tile s.cur.tile).sliceHeld ≤ s.now) && decide ((ctxIn s).deferred = [])
theorem quietRoom_of {s : State} (h : quietRoom s = true) : Quiet s (ctxIn s) ∧ CommitRoom (ctxIn s) := by
  simp only [quietRoom, Bool.and_eq_true, decide_eq_true_eq] at h
  exact ⟨⟨h.1.1, h.1.2⟩, by simp [CommitRoom, h.2]⟩
theorem witness_commandConditions :
    ∀ s ∈ [pushState 0 4 0, pushState 0 3 1, pushState 0 6 1, pushState 4 4 0, fullQueue 0 (gs []), collState 0x10000 8, collState 0x10000 0x20000,
      collState 0x10000 0x200, fullQueue 2 (collState 0x10000 0x200), descState 16 0x100 4, descState 15 0x108 4, descState 15 0x20000 4,
      descState 15 0x100 4, descState 15 0x100 9, naming (ringWith 0 (descState 3 0x100 4)), descState 3 0x100 4, moveState 4 1, moveState 3 1,
      moveState 0 1 { cls := 1 }, moveState 4 4 { cls := 1 }, moveState 0 5 { cls := 1 }, eopState 0 4 (2 ^ 15) [], eopState 0 4 (2 ^ 63) [],
      ringColl 0 0x100001001, ringColl 4096 0x100001001, ringColl 0 0], Quiet s (ctxIn s) ∧ CommitRoom (ctxIn s) := by
  intro s hs
  refine quietRoom_of ?_
  revert s
  decide +kernel

/-- An open branch in berth 0, and `n` commands in its commit buffer. -/
def behindBranch (n : Nat) (s : State) : State :=
  (s.modBerth 0 0 fun x => { x with spec := (specState.berth 0 0).spec }).modCtx 0 0 fun c =>
    { c with deferred := (natsFrom 0 n).map fun i => .command 0 i }
def readyBehind (s : State) (us : List Use) : Bool := issuing s && (vw s).specOpen && okUnit ((vw s).check us [] none) && okUnit ((vw s).keepRoom us)
theorem behind {s : State} {us : List Use} (h : readyBehind s us = true) : Issues s (ctxIn s) ∧ (vw s).specOpen = true ∧ Clear (vw s) us := by
  simp only [readyBehind, Bool.and_eq_true] at h
  exact ⟨issues_of h.1.1.1, h.1.1.2, ok_of h.1.2, ok_of h.2⟩
theorem noRoom_of {s : State} (h : decide (2 ≤ ((ctxIn s).deferred.flatMap Deferred.commands).length) = true) : ¬ CommitRoom (ctxIn s) :=
  Nat.not_lt.mpr (of_decide_eq_true h)
theorem witness_speculativeCommands :
    (Issues (behindBranch 1 (pushState 0 4 0)) (ctxIn (behindBranch 1 (pushState 0 4 0))) ∧ (vw (behindBranch 1 (pushState 0 4 0))).specOpen = true ∧
      Clear (vw (behindBranch 1 (pushState 0 4 0))) [⟨2, 24, .octet false⟩]) ∧
    ((vw (behindBranch 1 (pushState 0 4 0))).recordCheck 0 (bytesOf (behindBranch 1 (pushState 0 4 0))) = .ok () ∧
      (vw (behindBranch 1 (pushState 0 4 0))).shadowCheck 0 (bytesOf (behindBranch 1 (pushState 0 4 0))) = .ok ()) ∧
    (Issues (behindBranch 2 (pushState 0 4 0)) (ctxIn (behindBranch 2 (pushState 0 4 0))) ∧ (vw (behindBranch 2 (pushState 0 4 0))).specOpen = true ∧
      Clear (vw (behindBranch 2 (pushState 0 4 0))) [⟨2, 24, .octet false⟩]) ∧ ¬ CommitRoom (ctxIn (behindBranch 2 (pushState 0 4 0))) ∧
    ((vw (behindBranch 2 (pushState 0 4 0))).recordCheck 0 (bytesOf (behindBranch 2 (pushState 0 4 0))) = .ok () ∧
      (vw (behindBranch 2 (pushState 0 4 0))).shadowCheck 0 (bytesOf (behindBranch 2 (pushState 0 4 0))) = .ok ()) ∧
    (Issues (behindBranch 2 (collState 0x10000 0x200)) (ctxIn (behindBranch 2 (collState 0x10000 0x200))) ∧
      (vw (behindBranch 2 (collState 0x10000 0x200))).specOpen = true ∧ Clear (vw (behindBranch 2 (collState 0x10000 0x200))) (abUses 20 21)) ∧
    ¬ CommitRoom (ctxIn (behindBranch 2 (collState 0x10000 0x200))) :=
  ⟨behind (by decide +kernel), acceptable_of (by decide +kernel), behind (by decide +kernel), noRoom_of (by decide +kernel),
   acceptable_of (by decide +kernel), behind (by decide +kernel), noRoom_of (by decide +kernel)⟩
theorem witness_speculativeRings :
    (Issues (behindBranch 0 (descState 15 0x100 4)) (ctxIn (behindBranch 0 (descState 15 0x100 4))) ∧
      (vw (behindBranch 0 (descState 15 0x100 4))).specOpen = true ∧ Clear (vw (behindBranch 0 (descState 15 0x100 4))) (abUses 20 21)) ∧
    (behindBranch 0 (descState 15 0x100 4)).ringNamed 0 15 = false ∧
    (Issues (behindBranch 1 (moveState 3 1)) (ctxIn (behindBranch 1 (moveState 3 1))) ∧ (vw (behindBranch 1 (moveState 3 1))).specOpen = true ∧
      Clear (vw (behindBranch 1 (moveState 3 1))) (abUses 20 21)) ∧
    (decide ((vw (behindBranch 1 (moveState 3 1))).movesAhead 3 true + 1 ≤ 1) && isOk ((vw (behindBranch 1 (moveState 3 1))).checkSegment)) = true ∧
    (Issues (behindBranch 2 (moveState 3 1)) (ctxIn (behindBranch 2 (moveState 3 1))) ∧ (vw (behindBranch 2 (moveState 3 1))).specOpen = true ∧
      Clear (vw (behindBranch 2 (moveState 3 1))) (abUses 20 21)) ∧ ¬ CommitRoom (ctxIn (behindBranch 2 (moveState 3 1))) :=
  ⟨behind (by decide +kernel), by decide +kernel, behind (by decide +kernel), by decide +kernel, behind (by decide +kernel), noRoom_of (by decide +kernel)⟩
/-- A RINGP behind a write that is out waits for it; one with nothing out moves at once. -/
def moveWaits (s : State) : Option Bool := match (vw s).checkSegment with
  | .ok w => some ((w.closeSegment 0).s.moveWaits w.issuer)
  | .error _ => none
theorem witness_ringMoveWaits : moveWaits (moveState 3 1) = some false ∧ moveWaits (writeOut (moveState 3 1)) = some true ∧
    readyBehind (behindBranch 0 (writeOut (moveState 3 1))) (abUses 20 21) = true := by decide +kernel
/-- The sends and SPAWN need no acquire in progress. -/
theorem witness_sendConditions : ∀ s ∈ [fieldState [(4, 1)] 0, fieldState [(4, 0x10000)] 0, fieldState [(4, 0x10000)] 8, gs []], (ctxIn s).acquireUntil ≤ s.now := by decide +kernel

/-! ### Clauses of events: memory cores, contexts to resume, depots, regrouping, grants and holds -/

/-- A task in berth 0 of the memory core 4096. -/
def coreBerth : State := { gs [] with tiles := [(4096, { core := {}, owner := 1, berths := ((gs []).tile 0).berths })] }
theorem witness_coreEvents : coreBerth.ctx? 4096 0 = some (ctxIn (gs [])) ∧ isCore 4096 = true ∧ coreBerth.launch? 1 = some launch1 ∧
    (ctxIn (gs [])).stopped = false ∧ 16 ≤ (ctxIn (gs [])).cr.mwl.toNat ∧ (ctxIn (gs [])).cr.mwl.toNat ≤ 896 := ⟨rfl, by decide +kernel⟩
/-- A saved context waits to resume on the tile; none waits on an idle one. -/
theorem witness_resumes : (let s : State := { idle { inbox := [rec0 0] } with agenda := [.contextResume 0 0 0] }
      (s.berth 0 0).free = true ∧ isCore 0 = false ∧ s.resumes 0 0 = true) ∧
    (∀ t ∈ [({ inbox := [rec0 0] } : Tile), { deque := [rec0 0] }], (idle t).resumes 0 0 = false ∧ ∀ x ∈ ((idle t).tile 0).deque, x.marked = false) := by
  decide +kernel
/-- A request for a block that is to be sent, has reached its depot, and has come back with the block; and one of a memory core. -/
def blockState (rs : List TaskRec) : State := { depotState with flights := [{ id := 5, kind := .block 0 0 rs, issuer := {}, performed := true, left := 0 }] }
theorem witness_depotPhases : depotState.fetchOf 0 0 = none ∧
    (∀ rs ∈ [[], [rec0 0, rec0 1]], ((blockState rs).fetchOf 0 0).map Flight.kind = some (.block 0 0 rs) ∧
      ((blockState rs).fetchOf 0 0).map Flight.performed = some true ∧ (blockState rs).blockFor 0 = some (0, 1, [rec0 0, rec0 1])) ∧
    (let s : State := { depotState with depots := [(4096, [(1, [rec0 0, rec0 1])])], tiles := [(4096, {})] }
     isCore 4096 = true ∧ (s.berth 4096 0).free = true ∧ s.exhausted 4096 = false ∧ s.mayStart (s.tile 4096) (rec0 0) = true ∧
       (s.tile 4096).deque = [] ∧ s.blockFor 4096 = some (4096, 1, [rec0 0, rec0 1])) := by decide +kernel
/-- Two tiles on neighbouring dies, the first with three records more than a threshold of 2. -/
def unevenField : Launch := { launch1 with origin := 7, ext := (2, 1, 1) }
def unevenState : State :=
  { gs [] with launches := [(1, unevenField)], parts := [(0, { valid := true, balance := 2 })]
               tiles := [(7, { owner := 1, deque := List.replicate 3 (rec0 0) }), (8, { owner := 1 })] }
theorem witness_regroupingMoves : unevenState.launch? 1 = some unevenField ∧ unevenField.field = [7, 8] ∧ neighbourDies (dieOf 7) (dieOf 8) = true ∧
    ((unevenState.part? 0).map Partition.balance) = some 2 ∧ 2 < unevenState.queuedOn 1 (dieOf 7) - unevenState.queuedOn 1 (dieOf 8) := by
  decide +kernel
/-- A thief and its victim are two tiles. -/
theorem witness_stealPair : ((stealState 2 (some 1)).tile 0).stealAsked = some 1 ∧ 1 ≠ 0 := by decide +kernel
/-- A write of an earlier unit that has not been performed, of the scope of a hold's destination. -/
def heldBehind : State :=
  { idle { held := [{ issuer := { ctxnum := 1, unit := 1 }, release := 100, after := false, items := [.store 0x100 [7]] }] } with
    flights := [{ id := 5, kind := .put (3 * 2 ^ 60 + 8) 0 [7], issuer := { ctxnum := 1, unit := 0, scope := 2 } }] }
theorem witness_holdBehind : (heldBehind.tile 0).held.map Held.release = [100] ∧ 100 ≤ heldBehind.chron ∧
    (∀ f ∈ heldBehind.flights, f.issuer.tile = 0 ∧ f.issuer.berth = 0 ∧ f.issuer.unit < 1 ∧ heldBehind.unperformed f = true ∧
      inScope f.issuer.scope 0 (.slice 0 0x100) = true) := by decide +kernel
/-- A consolidator that nothing occupies and no berth waits for. -/
theorem witness_consolidatorFree : deltaMsg.consBusy 0 = false := by decide +kernel

end Sys2Proof.Tests
end

section
/-! SUPPORT. SEL, BFI and the divide family: their values as R128, R133 and R135 give them, and the busy divider. -/
namespace Sys2Proof.Machine
open Sys2Proof.Claims

/-! ## Values -/

/-- R135: the mask of a field, built in place or shifted to it. -/
theorem ofNat_shiftLeft (n pos : Nat) : (BitVec.ofNat 64 n <<< pos : Word) = BitVec.ofNat 64 (n * 2 ^ pos) := by
  apply BitVec.eq_of_toNat_eq
  simp [Nat.shiftLeft_eq]

theorem bfi_rule (z x y : Word) : bfi z x y =
    (let pos := (y.extractLsb' 0 6).toNat
     let we := min (y.extractLsb' 8 7).toNat (64 - pos)
     let m : Word := BitVec.ofNat 64 ((2 ^ we - 1) * 2 ^ pos)
     if we = 0 then z else (z &&& ~~~m) ||| ((x <<< pos) &&& m)) := by
  simp only [bfi, fieldWidth, fieldPos, ofNat_shiftLeft]

/-- R128: the quotient that overflows. -/
theorem overflow_quotient : BitVec.ofInt 64 ((0x8000000000000000 : Word).toInt.tdiv (-1 : Word).toInt) = 0x8000000000000000 := by decide

/-- R128: the remainder of a division by −1. -/
theorem remainder_neg_one (x : Int) : x - (-1 : Word).toInt * x.tdiv (-1 : Word).toInt = 0 := by
  have e : (-1 : Word).toInt = -1 := by decide
  rw [e, Int.tdiv_neg, Int.tdiv_one]
  omega

theorem divS_rule (x y : Word) : divS x y = if y = 0 then 0xffffffffffffffff
    else if x = 0x8000000000000000 ∧ y = -1 then 0x8000000000000000 else BitVec.ofInt 64 (x.toInt.tdiv y.toInt) := by
  unfold divS
  split
  · rfl
  · split
    · next h => rw [h.1, h.2, overflow_quotient]
    · rfl

theorem remS_rule (x y : Word) : remS x y = if y = 0 then x
    else if y = -1 then 0 else BitVec.ofInt 64 (x.toInt - y.toInt * x.toInt.tdiv y.toInt) := by
  unfold remS
  split
  · rfl
  · split
    · next h => rw [h, remainder_neg_one]; rfl
    · rfl

theorem divLatency_rule (signed : Bool) (x y : Word) : divLatency signed x y = 4 + if y = 0 then 0 else
    (if x = 0 then 0 else Nat.log2 (if signed then x.toInt.natAbs else x.toNat) + 1) := by
  have e : (if signed then x.toInt.natAbs else x.toNat) = 0 ↔ x = 0 := by
    cases signed
    · simp [BitVec.toNat_eq]
    · simp [← BitVec.toInt_inj]
  unfold divLatency sigBits
  split
  · rfl
  · simp only [e]

/-! ## What each instruction runs -/

theorem exec_scalarThree {i : Instr} {d a b : BitVec 7} {sc : BitVec 3} {f : Word → Word → Word → Word}
    (h : scalarThree i = some (d, a, b, sc, f)) (s : State) : exec i s = runView (scalar3 f 1 d a b sc) s := by
  unfold scalarThree at h
  split at h <;> cases h
  · rfl
  · rw [← funext fun z => funext fun x => funext (bfi_rule z x)]; rfl

theorem exec_scalarDivide {i : Instr} {d a b : BitVec 7} {sc : BitVec 3} {signed : Bool} {f : Word → Word → Word}
    (h : scalarDivide i = some (d, a, b, sc, signed, f)) (s : State) : exec i s = runView (divide signed f d a b sc) s := by
  unfold scalarDivide at h
  split at h <;> cases h
  · rw [← funext fun x => funext (divS_rule x)]; rfl
  · rw [← funext fun x => funext (remS_rule x)]; rfl
  · rfl
  · rfl

/-! ## The busy divider -/

/-- The divider's release time is no part of what a result reads: it may be set before the result or after it. -/
theorem View.result_divFree (v : View) (k : Nat) (d : BitVec 7) (x : Val) (l : Nat) (ops : Captured) (inter rep : Bool)
    (h : v.s.cur.replay = none) :
    (v.result d x l ops inter rep).modCtx (fun c => { c with divFree := k }) =
      (v.modCtx fun c => { c with divFree := k }).result d x l ops inter rep := by
  have ht : (v.modCtx fun c => { c with divFree := k }).target d = v.target d := rfl
  unfold View.result
  rw [ht]
  cases v.target d with
  | queue | g _ => simp only [View.pushVal, View.modCtx_s, h]; rfl
  | mask _ | discard => rfl
  | row n =>
    simp only [View.pushVal, View.modCtx_s, h]
    by_cases hn : n < 896 <;> cases x <;> simp only [View.setRow, View.unpoisonRow, hn, if_true, if_false] <;> rfl

theorem divide_gives {signed : Bool} {f : Word → Word → Word} {d a b : BitVec 7} {sc : BitVec 3} {s : State} {c : Ctx} (hi : Issues s c)
    (h : Clear (s.view c) (usesDAB d a b)) (hfree : c.divFree ≤ s.now) :
    Gives (runView (divide signed f d a b sc) s)
      (s.view { c with divFree := s.now + divLatency signed ((s.view c).scalar 2 a) ((s.view c).scalar 3 b) }) d
      (.scalar (f ((s.view c).scalar 2 a) ((s.view c).scalar 3 b))) sc := by
  generalize hl : divLatency signed ((s.view c).scalar 2 a) ((s.view c).scalar 3 b) = l
  have hready : waitUntil (decide ((s.view c).ctx.divFree ≤ (s.view c).now)) = .ok () := by simp [waitUntil, View.now, hfree]
  have hfresh : ((s.view c).touchSources (usesDAB d a b)).s.cur.replay = none := by rw [View.touchSources_s]; exact hi.fresh
  refine runView_gives _ (((s.view c).touchSources (usesDAB d a b)).modCtx fun c => { c with divFree := s.now + l }) (l := l)
    (ops := (s.view c).capture (s.view c).etype (usesDAB d a b) none) (inter := true) (rep := true) hi rfl ?_ ?_ ?_
  · rw [View.modCtx_s, View.touchSources_s]; rfl
  · rw [View.modCtx_ctx, View.touchSources_ctx]; rfl
  · rw [← View.result_divFree _ _ _ _ _ _ _ _ hfresh]
    simp only [divide, h.check, h.room, hready, hl]
    rfl

/-- R71: while the berth's divider is busy, a division waits. -/
theorem divide_waits {signed : Bool} {f : Word → Word → Word} {d a b : BitVec 7} {sc : BitVec 3} {s : State} {c : Ctx} (hi : Issues s c)
    (h : Clear (s.view c) (usesDAB d a b)) (hbusy : s.now < c.divFree) :
    runView (divide signed f d a b sc) s = .next (holdIssue s) := by
  have hwait : waitUntil (decide ((s.view c).ctx.divFree ≤ (s.view c).now)) = .error .hold := by simp [waitUntil, View.now, Nat.not_le.mpr hbusy]
  refine runView_hold hi.ctx ?_
  simp only [divide, h.check, h.room, hwait]
  rfl

theorem scalarThreeResult : ScalarThreeResult := by
  intro i d a b sc f hf s c hi h
  rw [exec_scalarThree hf]
  exact scalar3_gives hi h rfl

theorem divideResult : DivideResult := by
  intro i d a b sc signed f hf s c hi h x y l
  have hl : l = divLatency signed x y := (divLatency_rule signed x y).symm
  rw [exec_scalarDivide hf, hl]
  exact ⟨divide_gives hi h, divide_waits hi h⟩

/-- Settles O3: SEL and BFI read D before they write it, and the divide family holds its divider until its result exists. -/
theorem scalarThreeAndDivide : Obligations.ScalarThreeAndDivide := ⟨scalarThreeResult, divideResult⟩

end Sys2Proof.Machine
end

section
/-! SUPPORT. Branches, LOOP, jumps, NOP and YIELD (R139 to R147): what each runs, and what its issue leaves. -/
namespace Sys2Proof.Machine
open Sys2Proof.Claims

/-! ## Addresses and values -/

/-- R63: an offset in parcels counts from the instruction's own address. -/
theorem View.targetOf_parcelsFrom {n : Nat} {s : State} {c : Ctx} (hi : Issues s c) (off : BitVec n) :
    (s.view c).targetOf off = parcelsFrom c.pc off := by
  rw [View.targetOf_eq hi, parcelsFrom, BitVec.ofInt_add, BitVec.ofInt_natCast, BitVec.ofNat_toNat, BitVec.setWidth_eq]

/-- R9, R142: a register target has bit 0 cleared. -/
theorem jumpAddress_rule (x : Word) : jumpAddress x = BitVec.ofNat 48 (x.toNat / 2 * 2) := by
  apply BitVec.eq_of_toNat_eq
  simp only [jumpAddress, BitVec.toNat_append, BitVec.extractLsb'_toNat, BitVec.toNat_ofNat, Nat.shiftRight_eq_div_pow,
    Nat.shiftLeft_eq, Nat.zero_mod, Nat.or_zero]
  omega

theorem View.link_rule {s : State} {c : Ctx} (hi : Issues s c) :
    (s.view c).link = BitVec.ofNat 64 (c.pc + BitVec.ofNat 48 s.cur.len).toNat := by
  rw [View.link_eq hi, BitVec.zeroExtend, BitVec.ofNat_toNat]

/-- R140: one step of a counter. -/
theorem counter_step (x : Word) : x - 1 = BitVec.ofInt 64 (x.toInt - 1) := by
  rw [Int.sub_eq_add_neg, BitVec.ofInt_add, BitVec.ofInt_toInt, BitVec.sub_eq_add_neg]; rfl

/-! ## Conditional branches (R139) -/

/-- A branch on a condition over A and q1, with the operands it reads. -/
def branchOn (us : List Use) (holds : Word → Word → Bool) (a : BitVec 7) (off : BitVec 14) (sc : BitVec 3) (v : View) : Ex View := do
  v.resolved
  v.check us [] none
  .ok (v.transfer ((v.touchSources us).advance sc) (holds (v.scalar 2 a) (v.scalar 3 0)) (v.targetOf off) sc)

theorem condBranch_eq {k : Cond} {holds : Word → Word → Bool} (h : ∀ x q, k.holds x q = holds x q) (a : BitVec 7) (off : BitVec 14)
    (sc : BitVec 3) : condBranch k a off sc = branchOn [⟨2, a, .src false⟩, ⟨3, 0, .src false⟩] holds a off sc := by
  rw [← funext fun x => funext (h x)]; rfl

theorem zeroBranch_eq {onZero : Bool} {holds : Word → Word → Bool} (h : ∀ x q, ((x == 0) == onZero) = holds x q) (a : BitVec 7)
    (off : BitVec 14) (sc : BitVec 3) : zeroBranch onZero a off sc = branchOn [⟨2, a, .src false⟩] holds a off sc := by
  rw [← funext fun x => funext (h x)]; rfl

theorem exec_branchOf {i : Instr} {a : BitVec 7} {off : BitVec 14} {sc : BitVec 3} {us : List Use} {holds : Word → Word → Bool}
    (h : branchOf i = some (a, off, sc, us, holds)) (s : State) : exec i s = runView (branchOn us holds a off sc) s := by
  unfold branchOf at h
  split at h <;> cases h
  · exact congrArg (runView · s) (condBranch_eq (k := .eq) (fun _ _ => rfl) a off sc)
  · exact congrArg (runView · s) (condBranch_eq (k := .ne) (fun _ _ => decide_not.symm) a off sc)
  · exact congrArg (runView · s) (condBranch_eq (k := .lt) (fun _ _ => rfl) a off sc)
  · exact congrArg (runView · s) (condBranch_eq (k := .ge) (fun x q => by simp [Cond.holds, BitVec.slt, ← decide_not]) a off sc)
  · exact congrArg (runView · s) (condBranch_eq (k := .ltn) (fun _ _ => rfl) a off sc)
  · exact congrArg (runView · s) (condBranch_eq (k := .gen) (fun x q => by simp [Cond.holds, BitVec.ult, ← decide_not]) a off sc)
  · exact congrArg (runView · s) (zeroBranch_eq (onZero := true) (fun _ _ => beq_true _) a off sc)
  · exact congrArg (runView · s) (zeroBranch_eq (onZero := false) (fun _ _ => (beq_false _).trans decide_not.symm) a off sc)

theorem conditionalBranch : ConditionalBranch := by
  intro i a off sc us holds hb s c hi
  rw [exec_branchOf hb, ← View.targetOf_parcelsFrom hi]
  refine ⟨fun hopen h => ?_, fun hopen => ?_⟩
  · refine runView_branching ((s.view c).touchSources us) (wait := false) hi (by simp) (by simp) ?_
    simp only [branchOn, View.resolved_ok hopen, h.check]
    rfl
  · refine runView_hold hi.ctx ?_
    simp only [branchOn, View.resolved_hold hopen]
    rfl

/-! ## LOOP (R140) -/

/-- R83, R140: the operand codes of g registers and of rows. -/
theorem loopCode_iff (a : BitVec 7) : loopCode a = true ↔ 16 ≤ a.toNat ∧ (a.toNat < 48 ∨ 56 ≤ a.toNat) := by
  revert a
  decide

/-- R140: a counter that LOOP admits. -/
theorem loopBranch_counts {a : BitVec 7} {off : BitVec 14} {sc : BitVec 3} {s : State} {c : Ctx} (hi : Issues s c)
    (hopen : (s.view c).specOpen = false) (hcode : loopCode a = true) (h : Clear (s.view c) [⟨2, a, .rw false⟩]) :
    ∃ t c', runView (loopBranch a off sc) s = .next t ∧
      Branching (s.view c) (decide ((s.view c).scalar 2 a - 1 ≠ 0)) (parcelsFrom c.pc off) sc t c' (spacing sc) ∧
      Delivered (s.view c) a (.scalar ((s.view c).scalar 2 a - 1)) sc t c' := by
  rw [← View.targetOf_parcelsFrom hi]
  refine runView_branching_result [⟨2, a, .rw false⟩] (l := 1) (ops := (s.view c).capture (s.view c).etype [⟨2, a, .rw false⟩] none)
    (inter := false) (rep := false) (wait := false) hi ?_
  have e : ∀ n : Word, (n != 0) = decide (n ≠ 0) := fun _ => decide_not.symm
  simp only [loopBranch, View.resolved_ok hopen, hcode, h.check, h.room, e]
  rfl

/-- R83, R140: a counter that is no g register and no row. -/
theorem loopBranch_traps {a : BitVec 7} {off : BitVec 14} {sc : BitVec 3} {s : State} {c : Ctx} (hi : Issues s c)
    (hopen : (s.view c).specOpen = false) (hcode : loopCode a = false) :
    Traps (runView (loopBranch a off sc) s) s c Cause.illopnd (BitVec.ofNat 64 (512 + a.toNat)) := by
  have hpcs : trapPcs s c Cause.illopnd = (c.pc, c.pc) := by simp [trapPcs, hi.fresh, Cause.illopnd, Cause.soft, Cause.brk]
  have hrun : loopBranch a off sc (s.view c) = .error (.trap Cause.illopnd (BitVec.ofNat 64 (512 + a.toNat))) := by
    have hvalue : opndValue ⟨2, a, .rw false⟩ = BitVec.ofNat 64 (512 + a.toNat) := by simp only [opndValue, Nat.reduceMul]
    simp only [loopBranch, View.resolved_ok hopen, hcode, hvalue]
    rfl
  rw [Traps, runView_trap hi.ctx (View.spec_none hopen) hi.fresh hrun, hpcs]

theorem loopBranch_holds : LoopBranch := by
  intro a off sc s c hi hopen
  refine ⟨fun hlow hhigh h => ?_, fun hbad => ?_⟩
  · rw [← counter_step]
    exact loopBranch_counts hi hopen ((loopCode_iff a).mpr ⟨hlow, hhigh⟩) h
  · refine loopBranch_traps hi hopen (Bool.eq_false_iff.mpr fun h => ?_)
    have := (loopCode_iff a).mp h
    omega

/-- Settles O5: the eight conditional branches are one evaluation (`branchOn`), and LOOP is a transfer that delivers its counter. -/
theorem branches : Obligations.Branches := ⟨conditionalBranch, loopBranch_holds⟩

/-! ## Jumps (R141, R142) -/

/-- R141: J. -/
theorem jump_lands {off : BitVec 21} {sc : BitVec 3} {s : State} {c : Ctx} (hi : Issues s c) (hopen : (s.view c).specOpen = false) :
    ∃ t, runView (jump false off sc) s = .next t ∧ (t.tile s.cur.tile).mx = (s.tile s.cur.tile).mx ∧
      Completed s t ((c.movedOn s.cur.len sc s.now).landing (parcelsFrom c.pc off) (c.dist + takenSpacing sc)) (takenSpacing sc) := by
  rw [← View.targetOf_parcelsFrom hi]
  obtain ⟨hdone, hmx⟩ := View.jumpNow_completed (s.view c) (s.view c) ((s.view c).targetOf off) sc hi.fresh rfl
  refine ⟨_, runView_ok hi.ctx ?_, hmx, hdone⟩
  simp only [jump, View.resolved_ok hopen]
  rfl

/-- A result that is only pushed (R64: destination code 0). -/
theorem View.result_push (v : View) (x : Val) (l : Nat) (ops : Captured) (inter rep : Bool) (h : v.s.cur.replay = none) :
    (v.result 0 x l ops inter rep).s = v.s ∧ (v.result 0 x l ops inter rep).ctx = { v.ctx with
      q := v.ctx.q.push (.ofVal x v.now), pend := (v.result 0 x l ops inter rep).ctx.pend
      savedPend := (v.result 0 x l ops inter rep).ctx.savedPend } := by
  have ht : v.target 0 = .queue := by rw [View.target_of v 0 h]; rfl
  simp only [View.result, ht, View.pushVal, h]
  exact ⟨rfl, rfl⟩

/-- R141: JL. -/
theorem jump_links {off : BitVec 21} {sc : BitVec 3} {s : State} {c : Ctx} (hi : Issues s c) (hopen : (s.view c).specOpen = false) :
    ∃ t c', runView (jump true off sc) s = .next t ∧ (t.tile s.cur.tile).mx = (s.tile s.cur.tile).mx ∧
      Completed s t c' (takenSpacing sc) ∧
      c' = { c with
        q := c.q.push (.ofVal (.scalar (s.view c).link) s.now), pend := c'.pend, savedPend := c'.savedPend,
        pc := parcelsFrom c.pc off, dist := c.dist + takenSpacing sc } := by
  rw [← View.targetOf_parcelsFrom hi]
  obtain ⟨hs, hc⟩ := View.result_push (s.view c) (.scalar (s.view c).link) 1 {} false false hi.fresh
  obtain ⟨hdone, hmx⟩ := View.jumpNow_completed (s.view c) _ ((s.view c).targetOf off) sc hi.fresh hs
  refine ⟨_, _, runView_ok hi.ctx ?_, hmx, hdone, ?_⟩
  · simp only [jump, View.resolved_ok hopen]
    rfl
  · rw [hc]; rfl

/-- R142: JR. -/
theorem jumpRegister_branches {a : BitVec 7} {sc : BitVec 3} {s : State} {c : Ctx} (hi : Issues s c) (hopen : (s.view c).specOpen = false)
    (h : Clear (s.view c) [⟨2, a, .src false⟩]) :
    ∃ t, runView (jumpRegister [⟨2, a, .src false⟩] none a sc) s = .next t ∧
      Branching (s.view c) true (jumpAddress ((s.view c).scalar 2 a)) sc t (c.movedOn s.cur.len sc s.now) (takenSpacing sc) ∧
      (t.tile s.cur.tile).mx = (s.tile s.cur.tile).mx := by
  refine runView_branching ((s.view c).touchSources [⟨2, a, .src false⟩]) (wait := true) hi (by simp) (by simp) ?_
  simp only [jumpRegister, View.resolved_ok hopen, h.check, h.room]
  rfl

/-- R142: JLR, whose target has been read before its link is written. -/
theorem jumpRegister_links {d a : BitVec 7} {sc : BitVec 3} {s : State} {c : Ctx} (hi : Issues s c) (hopen : (s.view c).specOpen = false)
    (h : Clear (s.view c) (usesDA d a)) :
    ∃ t c', runView (jumpRegister (usesDA d a) (some d) a sc) s = .next t ∧
      Branching (s.view c) true (jumpAddress ((s.view c).scalar 2 a)) sc t c' (takenSpacing sc) ∧
      Delivered (s.view c) d (.scalar (s.view c).link) sc t c' := by
  refine runView_branching_result (usesDA d a) (l := 1) (ops := (s.view c).capture (s.view c).etype (usesDA d a) none)
    (inter := false) (rep := false) (wait := true) hi ?_
  simp only [jumpRegister, View.resolved_ok hopen, h.check, h.room]
  rfl

theorem jumps : Jumps := by
  intro d a off sc s c hi hopen
  rw [← View.link_rule hi, ← jumpAddress_rule]
  exact ⟨jump_lands hi hopen, jump_links hi hopen, jumpRegister_branches hi hopen, jumpRegister_links hi hopen⟩

/-! ## NOP and YIELD (R146, R147) -/

theorem View.commit_berth (v : View) :
    v.commit.berth v.s.cur.tile v.s.cur.berth = { v.s.berth v.s.cur.tile v.s.cur.berth with ctx := some v.ctx } := by
  obtain ⟨-, hberth, -⟩ := v.commit_spec
  rw [hberth]
  simp [State.setCtx]

/-- What YIELD leaves of its berth's marks: yielding, or yielding once its branch has resolved. -/
def Berth.yielded (open_ : Bool) (x : Berth) : Berth := if open_ then { x with yieldHeld := true } else { x with yielding := true }

theorem Berth.yielded_nextIssue (o : Bool) (x : Berth) : (x.yielded o).nextIssue = x.nextIssue := by cases o <;> rfl

theorem exec_yield (sc : BitVec 3) (s : State) :
    exec (.yield sc) s = runView (fun v => .ok ((v.advance sc).modBerth (Berth.yielded v.specOpen))) s := rfl

theorem nop_ends {sc : BitVec 3} {s : State} {c : Ctx} (hi : Issues s c) : Ends (exec (.nop sc) s) (s.view c) sc :=
  runView_ends (f := fun v => .ok (v.advance sc)) (s.view c) (s.view c) hi rfl rfl rfl rfl

/-- An issue that completes and changes marks of its own berth beside. -/
theorem View.advance_modBerth_completed (v : View) (sc : BitVec 3) (g : Berth → Berth) (h : v.s.cur.replay = none)
    (hnext : ∀ x, (g x).nextIssue = x.nextIssue) :
    Completed v.s ((v.advance sc).modBerth g).commit (v.ctx.movedOn v.s.cur.len sc v.s.now) (spacing sc) ∧
    (((v.advance sc).modBerth g).commit.tile v.s.cur.tile).mx = v.tile.mx := by
  have hs : ((v.advance sc).modBerth g).s = ((occupySlot v.s v.s.cur.tile v.s.cur.berth).modBerth v.s.cur.tile v.s.cur.berth fun x =>
      { x with nextIssue := v.s.now + spacing sc, readySince := v.s.now + spacing sc, latch := none }).modBerth v.s.cur.tile
        v.s.cur.berth g := by
    rw [View.modBerth_s, View.advance_cur, View.advance_s]
  obtain ⟨hdone, hmx, -⟩ := View.commit_completed v.s ((v.advance sc).modBerth g) (spacing sc) (by rw [hs]; rfl) (by rw [hs]; rfl)
    (fun m hm => by rw [hs, State.tile_modBerth_ne hm, State.tile_modBerth_ne hm, occupySlot_tile_ne hm])
    (by rw [hs]; simp [State.modBerth, State.setBerth, Tile.setBerth, occupySlot_tile])
    (fun b hb => by
      unfold State.ctx?
      rw [hs, State.berth_modBerth_ne hb, State.berth_modBerth_ne hb, occupySlot_berth])
    (by rw [hs]; simp [hnext])
  rw [View.modBerth_ctx, View.advance_ctx v sc h] at hdone
  exact ⟨hdone, hmx.trans (by rw [hs]; simp [State.modBerth, State.setBerth, Tile.setBerth, occupySlot_tile, View.tile])⟩

theorem yield_runs {sc : BitVec 3} {s : State} {c : Ctx} (hi : Issues s c) : exec (.yield sc) s =
    .next (((s.view c).advance sc).modBerth (Berth.yielded (s.view c).specOpen)).commit := by
  rw [exec_yield]
  exact runView_ok hi.ctx rfl

theorem yield_ends {sc : BitVec 3} {s : State} {c : Ctx} (hi : Issues s c) : Ends (exec (.yield sc) s) (s.view c) sc :=
  ⟨_, yield_runs hi, View.advance_modBerth_completed (s.view c) sc _ hi.fresh (Berth.yielded_nextIssue _)⟩

/-- R146: the marks that YIELD leaves of its berth; taking the slot has cleared the earlier ones. -/
theorem yield_berth {sc : BitVec 3} {s t : State} {c : Ctx} (hi : Issues s c) (ht : exec (.yield sc) s = .next t) :
    t.berth s.cur.tile s.cur.berth = { Berth.yielded (s.view c).specOpen { s.berth s.cur.tile s.cur.berth with
      yielding := false, nextIssue := s.now + spacing sc, readySince := s.now + spacing sc, latch := none } with
        ctx := some (((s.view c).advance sc).ctx) } := by
  cases (yield_runs hi).symm.trans ht
  have hb := (((s.view c).advance sc).modBerth (Berth.yielded (s.view c).specOpen)).commit_berth
  simp only [View.modBerth_s, State.modBerth_cur, View.advance_cur, State.view_s] at hb
  rw [hb, State.berth_modBerth_same, View.advance_s]
  simp

theorem nopAndYield : NopAndYield := by
  intro sc s c hi
  refine ⟨nop_ends hi, yield_ends hi, fun t ht => ?_⟩
  rw [yield_berth hi ht]
  cases (s.view c).specOpen
  · exact ⟨rfl, nofun⟩
  · exact ⟨rfl, fun _ => rfl⟩

/-- Settles O6: a jump resolved at issue lands at its target, one through a register is a taken transfer, and NOP and YIELD complete. -/
theorem jumpsNopYield : Obligations.JumpsNopYield := ⟨jumps, nopAndYield⟩

end Sys2Proof.Machine
end

section
/-! SUPPORT. Rows and masks position by position: the lists that vector and mask instructions build, each as a map over its positions (R41). -/
namespace Sys2Proof.Machine
open Sys2Proof.Claims

/-! ## Lists over the positions -/

theorem natsFrom_eq_range' (a n : Nat) : natsFrom a n = List.range' a n := by
  induction n generalizing a with
  | zero => rfl
  | succ n ih => rw [natsFrom, ih, List.range'_succ]

theorem natsFrom_zero (n : Nat) : natsFrom 0 n = List.range n := by rw [natsFrom_eq_range', List.range_eq_range']

theorem zipIdx_map_range (f : Nat → α) (n : Nat) : ((List.range n).map f).zipIdx = (List.range n).map fun i => (f i, i) :=
  List.ext_getElem (by simp) (by simp)

theorem zip_map_range (f : Nat → α) (g : Nat → β) (n : Nat) :
    ((List.range n).map f).zip ((List.range n).map g) = (List.range n).map fun i => (f i, g i) :=
  List.ext_getElem (by simp) (by simp)

theorem set_map_range (f : Nat → α) (x : α) (n j : Nat) :
    ((List.range n).map f).set j x = (List.range n).map fun i => if i = j then x else f i :=
  List.ext_getElem (by simp) (by simp [List.getElem_set, eq_comm])

theorem getD_map_range (f : Nat → Nat) (n k : Nat) : ((List.range n).map f).getD k 0 = if k < n then f k else 0 := by
  by_cases h : k < n <;> simp [List.getD_eq_getElem?_getD, h]

/-! ## Rows -/

theorem rowElems_eq_map (t : EType) (r : Row) : rowElems t.width r = (List.range (2048 / t.width)).map (elem t r) := by
  refine List.ext_getElem (by rw [rowElems_length, List.length_map, List.length_range]) fun k hk _ => ?_
  have hlt : k < 2048 / t.width := rowElems_length t.width r ▸ hk
  rw [List.getElem_map, List.getElem_range, elem, ← rowElems_getD _ _ _ hlt, List.getD_eq_getElem?_getD, List.getElem?_eq_getElem hk,
    Option.getD_some]

theorem elem_mod (t : EType) (r : Row) (k : Nat) : elem t r k % 2 ^ t.width = elem t r k := Nat.mod_mod _ _

theorem elements_self (t : EType) (r : Row) : Elements t r (elem t r) := fun k _ => (elem_mod t r k).symm

theorem elements_of_getD {t : EType} {xs : List Nat} {f : Nat → Nat} (h : ∀ k, k < 2048 / t.width → xs.getD k 0 = f k) :
    Elements t (rowOfElems t.width xs) f := fun k hk => by rw [elem, rowOfElems_getD _ _ _ hk, h k hk]

theorem elements_map_range (t : EType) (f : Nat → Nat) :
    Elements t (rowOfElems t.width ((List.range (2048 / t.width)).map f)) f :=
  elements_of_getD fun k hk => by rw [getD_map_range, if_pos hk]

/-- Element `j` of a row, 0 past the last. -/
theorem rowElems_getD_if (t : EType) (r : Row) (j : Nat) :
    (rowElems t.width r).getD j 0 = if j < 2048 / t.width then elem t r j else 0 := by
  rw [rowElems_eq_map, getD_map_range]

theorem elements_broadcast (t : EType) (x : Nat) : Elements t (broadcast t.width x) fun _ => x := by
  rw [broadcast, natsFrom_zero]
  exact elements_map_range t _

theorem elements_map1 (t : EType) (f : Nat → Nat) (a : Row) : Elements t (map1 t f a) fun k => f (elem t a k) := by
  rw [map1, rowElems_eq_map, List.map_map]
  exact elements_map_range t _

/-! ## Active elements (R57, R151) -/

theorem activeElems_eq_map (t : EType) (m : Mask) (a : Row) :
    activeElems t m a = (List.range (2048 / t.width)).map fun i => if m.getLsbD i then some (elem t a i) else none := by
  rw [activeElems, rowElems_eq_map, zipIdx_map_range, List.map_map]
  rfl

/-- R165: the running count of the active positions, from position `i` with `c` counted below it. -/
theorem iota_eq_map (t : EType) (m : Mask) (n i c : Nat) :
    iota t m n i c = (List.range n).map fun k => elemOfNat t (c + (List.range k).countP fun j => m.getLsbD (i + j)) := by
  induction n generalizing i c with
  | zero => rfl
  | succ n ih =>
    have hstep (k : Nat) : (if m.getLsbD i then c + 1 else c) + (List.range k).countP (fun j => m.getLsbD (i + 1 + j)) =
        c + (List.range (k + 1)).countP fun j => m.getLsbD (i + j) := by
      have hidx (j : Nat) : i + 1 + j = i + (j + 1) := by omega
      rw [List.range_succ_eq_map, List.countP_cons, List.countP_map]
      simp only [Function.comp_def, Nat.succ_eq_add_one, hidx, Nat.add_zero]
      split <;> omega
    rw [iota, ih, List.range_succ_eq_map, List.map_cons, List.map_map]
    simp only [hstep]
    rfl

/-- R169: position `k` of a spread list takes the element numbered by the active positions below it. -/
theorem expand_getD (ms : List (Option Nat)) (src : List Nat) (k : Nat) :
    (expand ms src).getD k 0 = if (ms.getD k none).isSome then src.getD ((ms.take k).countP Option.isSome) 0 else 0 := by
  induction ms generalizing src k with
  | nil => simp [expand]
  | cons x ms ih =>
    cases k with
    | zero => cases x <;> cases src <;> rfl
    | succ k =>
      cases x with
      | none => rw [expand, List.getD_cons_succ, ih, List.getD_cons_succ, List.take_succ_cons, List.countP_cons]; rfl
      | some y =>
        have htail (n : Nat) : src.tail.getD n 0 = src.getD (n + 1) 0 := by cases src <;> rfl
        rw [expand, List.getD_cons_succ, ih, htail, List.getD_cons_succ, List.take_succ_cons, List.countP_cons]; rfl

theorem expand_active (t : EType) (m : Mask) (a : Row) (src : List Nat) (k : Nat) (hk : k < 2048 / t.width) :
    (expand (activeElems t m a) src).getD k 0 =
      if m.getLsbD k then src.getD ((List.range k).countP fun i => m.getLsbD i) 0 else 0 := by
  have hsome (i : Nat) : (if m.getLsbD i then some (elem t a i) else none).isSome = m.getLsbD i := by cases m.getLsbD i <;> rfl
  have hat : ((activeElems t m a).getD k none).isSome = m.getLsbD k := by
    simp [activeElems_eq_map, List.getD_eq_getElem?_getD, hk, hsome]
  have hbelow : ((activeElems t m a).take k).countP Option.isSome = (List.range k).countP fun i => m.getLsbD i := by
    rw [activeElems_eq_map, ← List.map_take, List.take_range, Nat.min_eq_left (Nat.le_of_lt hk), List.countP_map]
    exact List.countP_congr fun i _ => by rw [Function.comp_apply, hsome]
  rw [expand_getD, hat, hbelow]

theorem elements_expand (t : EType) (m : Mask) (a : Row) :
    Elements t (rowOfElems t.width (expand (activeElems t m a) (rowElems t.width a))) fun k =>
      if m.getLsbD k then elem t a ((List.range k).countP fun i => m.getLsbD i) else 0 :=
  elements_of_getD fun k hk => by
    have hlt : ((List.range k).countP fun i => m.getLsbD i) < 2048 / t.width :=
      Nat.lt_of_le_of_lt (Nat.le_trans List.countP_le_length (Nat.le_of_eq List.length_range)) hk
    rw [expand_active t m a _ k hk, rowElems_getD_if, if_pos hlt]

theorem compress_eq (n : Nat) (xs : List (Option Nat)) :
    compress n xs = xs.filterMap id ++ List.replicate (n - (xs.filterMap id).length) 0 := by
  rw [compress, natsFrom_zero, List.map_const', List.length_range]

/-! ## Masks -/

theorem pack_bits_testBit (f : Nat → Bool) (n k : Nat) :
    (pack 1 ((List.range n).map fun i => if f i then 1 else 0)).testBit k = (decide (k < n) && f k) := by
  have hbit := pack_getD 1 ((List.range n).map fun i => if f i then 1 else 0) k
  rw [Nat.one_mul, getD_map_range, Nat.pow_one] at hbit
  rw [Nat.testBit_eq_decide_div_mod_eq, hbit]
  by_cases hk : k < n <;> cases f k <;> simp [hk]

theorem compareMask_getLsbD (cond : Option Int → Bool) (t : EType) (m : Mask) (a b : Row) (k : Nat) (hk : k < 256) :
    (compareMask cond t m a b).getLsbD k =
      (decide (k < 2048 / t.width) && m.getLsbD k && cond (elemCmp t (elem t a k) (elem t b k))) := by
  rw [compareMask, rowElems_eq_map, rowElems_eq_map, zip_map_range, zipIdx_map_range, List.map_map, BitVec.getLsbD_ofNat,
    decide_eq_true hk, Bool.true_and, Bool.and_assoc]
  exact pack_bits_testBit (fun i => m.getLsbD i && cond (elemCmp t (elem t a i) (elem t b i))) _ k

/-- R172: the mask that KSET builds. -/
theorem lowMask_getLsbD (n k : Nat) (hk : k < 256) : (BitVec.ofNat 256 (2 ^ min n 256 - 1)).getLsbD k = decide (k < n) := by
  rw [BitVec.getLsbD_ofNat, Nat.testBit_two_pow_sub_one, decide_eq_true hk, Bool.true_and]
  exact decide_eq_decide.mpr (by omega)

theorem popFrom_eq_count (a n : Nat) : popFrom a n = ((List.range n).map a.testBit).count true := by
  induction n with
  | zero => rfl
  | succ n ih =>
    rw [popFrom, ih, List.range_succ, List.map_append, List.count_append, List.map_singleton]
    cases a.testBit n <;> rfl

theorem ctzFrom_eq_length (a n k : Nat) :
    ctzFrom a n k = k + (((List.range n).map fun i => a.testBit (k + i)).takeWhile (!·)).length := by
  induction n generalizing k with
  | zero => rfl
  | succ n ih =>
    have hidx (i : Nat) : k + 1 + i = k + (i + 1) := by omega
    rw [ctzFrom, List.range_succ_eq_map, List.map_cons, List.map_map, List.takeWhile_cons, Nat.add_zero]
    cases h : a.testBit k
    · rw [if_neg Bool.false_ne_true, ih]
      simp only [hidx, Function.comp_def, Nat.succ_eq_add_one, Bool.not_false, if_true, List.length_cons]
    · rfl

theorem map_testBit_below (m : Mask) (n : Nat) : (List.range n).map (m.toNat % 2 ^ n).testBit = (List.range n).map m.getLsbD :=
  List.map_congr_left fun i hi => by
    rw [Nat.testBit_mod_two_pow, decide_eq_true (List.mem_range.mp hi), Bool.true_and]
    rfl

theorem popFrom_mask (m : Mask) (n : Nat) : popFrom (m.toNat % 2 ^ n) n = ((List.range n).map m.getLsbD).count true := by
  rw [popFrom_eq_count, map_testBit_below]

theorem ctzFrom_mask (m : Mask) (n : Nat) :
    ctzFrom (m.toNat % 2 ^ n) n 0 = (((List.range n).map m.getLsbD).takeWhile (!·)).length := by
  rw [← map_testBit_below, ctzFrom_eq_length, Nat.zero_add]
  simp only [Nat.zero_add]

end Sys2Proof.Machine
end

section
/-! SUPPORT. Reductions and VSCAN (R57, R163, R164). -/
namespace Sys2Proof.Machine
open Sys2Proof.Claims

/-! ## Vector and scalar results of checked vector operands -/

theorem vresult_gives {s : State} {c : Ctx} {f : View → Ex View} {us : List Use} {d : BitVec 7} {r : Row} {l : Nat} {m : Option Mask}
    {sc : BitVec 3} {inter : Bool} (hi : Issues s c) (h : f (s.view c) = .ok ((s.view c).vresult us d r l m sc inter)) :
    Gives (runView f s) (s.view c) d (.vector r) sc := runView_result hi h

theorem sresult_gives {s : State} {c : Ctx} {f : View → Ex View} {us : List Use} {d : BitVec 7} {x : Word} {l : Nat} {m : Option Mask}
    {sc : BitVec 3} (hi : Issues s c) (h : f (s.view c) = .ok ((s.view c).sresult us d x l m sc)) :
    Gives (runView f s) (s.view c) d (.scalar x) sc := runView_result hi h

/-! ## Values -/

/-- R163: an element as a 64-bit scalar. -/
theorem elemScalar_rule (t : EType) (x : Nat) : elemScalar t x = BitVec.ofInt 64 (toInt t.signed t.width x) := by
  apply BitVec.eq_of_toNat_eq
  rw [elemScalar, wrap, BitVec.toNat_ofNat, BitVec.toNat_ofInt]
  exact Nat.mod_eq_of_lt (by omega)

/-! ## The instructions -/

theorem exec_reductionOf {i : Instr} {kg : BitVec 3} {a : BitVec 7} {sc : BitVec 3} {node : EType → Rnd → Nat → Nat → Nat}
    {identity : EType → Nat} (h : reductionOf i = some (kg, a, sc, node, identity)) (s : State) :
    exec i s = runView (vreduce node identity kg a sc) s := by
  unfold reductionOf at h
  split at h <;> cases h <;> rfl

theorem vreduce_gives {node : EType → Rnd → Nat → Nat → Nat} {identity : EType → Nat} {kg : BitVec 3} {a : BitVec 7} {sc : BitVec 3}
    {s : State} {c : Ctx} (hi : Issues s c) (h : Clear (s.view c) [⟨2, a, .src true⟩] (govMasks kg) (some (s.view c).etype.width)) :
    Gives (runView (vreduce node identity kg a sc) s) (s.view c) 0 (.scalar (elemScalar (s.view c).etype
      (reduceTree (node (s.view c).etype (s.view c).rnd) (identity (s.view c).etype)
        (activeElems (s.view c).etype ((s.view c).governing (kIx kg)) ((s.view c).vector (s.view c).etype 2 a))))) sc :=
  sresult_gives hi (by simp only [vreduce, View.vcheck_ok h]; rfl)

theorem vmasked_gives {f : EType → Rnd → List (Option Nat) → List Nat → List Nat} {l : Nat} {kg : BitVec 3} {a : BitVec 7} {sc : BitVec 3}
    {s : State} {c : Ctx} (hi : Issues s c) (h : Clear (s.view c) [⟨2, a, .src true⟩] (govMasks kg) (some (s.view c).etype.width)) :
    Gives (runView (vmasked f l false kg a sc) s) (s.view c) 0 (.vector (rowOfElems (s.view c).etype.width
      (f (s.view c).etype (s.view c).rnd
        (activeElems (s.view c).etype ((s.view c).governing (kIx kg)) ((s.view c).vector (s.view c).etype 2 a))
        (rowElems (s.view c).etype.width ((s.view c).vector (s.view c).etype 2 a))))) sc :=
  vresult_gives hi (by simp only [vmasked, View.vcheck_ok h]; rfl)

/-- Settles O9: the three reductions are one evaluation (`vreduce`), whose element is extended as R163 says, and VSCAN is a masked source. -/
theorem vectorReductions : Obligations.VectorReductions := by
  refine ⟨fun i kg a sc node identity hf s c hi h => ?_, fun kg a sc s c hi h => vmasked_gives hi h⟩
  rw [exec_reductionOf hf]
  intro t x
  rw [← elemScalar_rule]
  exact vreduce_gives hi h

end Sys2Proof.Machine
end

section
/-! SUPPORT. Vector compares, mask instructions and VSET (R154, R159, R172, R173). -/
namespace Sys2Proof.Machine
open Sys2Proof.Claims

/-! ## Compares (R159) -/

theorem exec_vectorCompare {i : Instr} {kd kg : BitVec 3} {a b : BitVec 7} {sc : BitVec 3} {cond : Option Int → Bool}
    (h : vectorCompare i = some (kd, kg, a, b, sc, cond)) (s : State) : exec i s = runView (vcompare cond kd kg a b sc) s := by
  unfold vectorCompare at h
  split at h <;> cases h <;> rfl

theorem vectorCompareResult : VectorCompareResult := by
  intro i kd kg a b sc cond hf s c hi h t
  rw [exec_vectorCompare hf]
  exact ⟨_, vcompare_marks hi h, compareMask_getLsbD _ _ _ _ _⟩

/-! ## Mask instructions (R172, R173) -/

theorem View.maskReg_eq {s : State} {c : Ctx} (hi : Issues s c) (k : Fin 8) : (s.view c).maskReg k = c.staleMask k := by
  simp [View.maskReg, hi.fresh]

theorem maskOp_marks {f : Mask → Mask → Mask} {kd ks : BitVec 3} {two : Bool} {sc : BitVec 3} {s : State} {c : Ctx} (hi : Issues s c)
    (h : Clear (s.view c) [] (if two then [kIx kd, kIx ks] else [kIx ks])) :
    Marks (runView (maskOp f kd ks two sc) s) (s.view c) (kIx kd) (f (c.staleMask (kIx kd)) (c.staleMask (kIx ks))) sc := by
  rw [← View.maskReg_eq hi, ← View.maskReg_eq hi]
  exact runView_marks (s.view c) (s.view c) hi rfl rfl rfl (by simp only [maskOp, h.check]; rfl)

theorem exec_maskPair {i : Instr} {kd ks : BitVec 3} {sc : BitVec 3} {ms : List (Fin 8)} {f : Mask → Mask → Mask}
    (h : maskPair i = some (kd, ks, sc, ms, f)) (s : State) :
    ∃ two, ms = (if two then [kIx kd, kIx ks] else [kIx ks]) ∧ exec i s = runView (maskOp f kd ks two sc) s := by
  unfold maskPair at h
  split at h <;> cases h
  · exact ⟨true, rfl, rfl⟩
  · exact ⟨true, rfl, rfl⟩
  · exact ⟨true, rfl, rfl⟩
  · exact ⟨false, rfl, rfl⟩

theorem kset_marks {kd : BitVec 3} {a : BitVec 7} {sc : BitVec 3} {s : State} {c : Ctx} (hi : Issues s c)
    (h : Clear (s.view c) [⟨2, a, .src false⟩]) :
    Marks (runView (kset kd a sc) s) (s.view c) (kIx kd) (BitVec.ofNat 256 (2 ^ min ((s.view c).scalar 2 a).toNat 256 - 1)) sc :=
  runView_marks (s.view c) ((s.view c).touchSources _) hi rfl (by simp) (by simp) (by simp only [kset, h.check]; rfl)

theorem maskCount_gives {f : Nat → Nat → Nat} {ks sc : BitVec 3} {s : State} {c : Ctx} (hi : Issues s c)
    (h : Clear (s.view c) [] [kIx ks]) :
    Gives (runView (maskCount f ks sc) s) (s.view c) 0
      (.scalar (BitVec.ofNat 64 (f (s.view c).etype.count ((c.staleMask (kIx ks)).toNat % 2 ^ (s.view c).etype.count)))) sc := by
  rw [← View.maskReg_eq hi]
  exact runView_gives (s.view c) (s.view c) hi rfl rfl rfl (by simp only [maskCount, h.check]; rfl)

theorem maskResults : MaskResults := by
  refine ⟨fun i kd ks sc ms f hf s c hi h => ?_, fun kd a sc s c hi h => ?_, fun ks sc s c hi h => ?_⟩
  · obtain ⟨two, rfl, hrun⟩ := exec_maskPair hf s
    rw [hrun]
    exact maskOp_marks hi h
  · exact ⟨_, kset_marks hi h, fun k hk => lowMask_getLsbD _ _ hk⟩
  · intro bits
    rw [← popFrom_mask, ← ctzFrom_mask]
    exact ⟨maskCount_gives hi h, maskCount_gives hi h⟩

/-! ## VSET (R154) -/

/-- A delivered result whose issue completes, whatever else of the view the delivery stands in. -/
theorem Pushed.completed {v w : View} {d : BitVec 7} {x : Val} (hp : Pushed v d x w) (sc : BitVec 3) (h : v.s.cur.replay = none) :
    Completed v.s (w.advance sc).commit (w.advance sc).ctx (spacing sc) ∧
    Delivered v d x sc (w.advance sc).commit (w.advance sc).ctx := by
  obtain ⟨hcur, hnow, hstate, htiles, htile, hqueue, hregs, hrows, hctx, hundo⟩ := hp
  have hfresh : w.s.cur.replay = none := by rw [hcur]; exact h
  obtain ⟨⟨kctx, kspaced, kberths, ktiles, ktile, krest, ktimed⟩, kmx⟩ := View.advance_completed w sc hfresh
  have hmoved := View.advance_ctx w sc hfresh
  simp only [hcur, hnow] at kctx kspaced kberths ktiles ktile krest kmx hmoved
  have hmx : ((w.advance sc).commit.tile v.s.cur.tile).mx = (w.s.tile v.s.cur.tile).mx := by rw [kmx, View.tile, hcur]
  rw [hmoved]
  refine ⟨⟨hmoved ▸ kctx, kspaced, fun k hk => ?_, fun m hm => (ktiles m hm).trans (htiles m hm), ?_, ?_, ?_⟩,
    ⟨hqueue, hregs, fun n => ?_, ?_, ?_, fun ho => ?_⟩⟩
  · rw [kberths k hk]; simp only [State.ctx?, State.berth]; rw [htile]; rfl
  · rw [ktile, htile]
  · rw [krest, hstate]
  · rw [hstate] at ktimed; exact ktimed
  · have hrow : rowNow (w.advance sc).commit (w.ctx.movedOn v.s.cur.len sc v.s.now) n = w.row n := by
      have hc : (w.advance sc).commit.cur = v.s.cur := by rw [krest]
      simp only [rowNow, View.row, State.view_ctx, View.tile, State.view_s, hc, hmx, hcur]; rfl
    rw [hrow, hrows n]
  · rw [hmx, htile]; rfl
  · rw [Ctx.movedOn, hctx]
  · rw [hmx]; exact hundo ho

/-- VTYPE is no part of what a result reads or writes. -/
theorem Pushed.modVtype {v w : View} {d : BitVec 7} {x : Val} (hp : Pushed v d x w) (vt : BitVec 6) :
    Pushed (v.modCtx fun c => { c with cr := { c.cr with vtype := vt } }) d x (w.modCtx fun c => { c with cr := { c.cr with vtype := vt } }) := by
  obtain ⟨hcur, hnow, hstate, htiles, htile, hqueue, hregs, hrows, hctx, hundo⟩ := hp
  have hof : (v.modCtx fun c => { c with cr := { c.cr with vtype := vt } }).rowOf (Opnd.of d) = v.rowOf (Opnd.of d) := rfl
  refine ⟨hcur, hnow, hstate, htiles, htile, hqueue, hregs, fun n => ?_, ?_, hundo⟩
  · rw [hof]; exact hrows n
  · simp only [View.modCtx]
    rw [hctx]

theorem vset_gives {d : BitVec 7} {imm : BitVec 14} {sc : BitVec 3} {s : State} {c : Ctx} (hi : Issues s c)
    (h : Clear (s.view c) [⟨1, d, .dst false⟩]) :
    Gives (runView (vset d imm sc) s) (s.view { c with cr := { c.cr with vtype := imm.extractLsb' 0 6 } }) d
      (.scalar (BitVec.ofNat 64 (EType.ofCode (imm.toNat % 16)).count)) sc := by
  have hpushed := View.result_pushed (s.view c) d (.scalar (BitVec.ofNat 64 (EType.ofCode (imm.toNat % 16)).count)) 1 {} false true hi.fresh
  obtain ⟨hdone, hdelivered⟩ := (hpushed.modVtype (imm.extractLsb' 0 6)).completed sc hi.fresh
  exact ⟨_, _, runView_ok hi.ctx (by simp only [vset, h.check, h.room]; rfl), hdone, hdelivered⟩

/-- Settles O10: the compares and the mask instructions mark one mask register, KPOP and KFIRST count below the element count, and VSET
delivers its count beside the new VTYPE. -/
theorem vectorMasks : Obligations.VectorMasks := ⟨vectorCompareResult, maskResults, fun _ _ _ _ _ hi h => vset_gives hi h⟩

end Sys2Proof.Machine
end

section
/-! SUPPORT. Selections, element moves and permutes (R160, R165 to R169). -/
namespace Sys2Proof.Machine
open Sys2Proof.Claims

/-! ## Selections and element moves (R160, R165, R166) -/

theorem vselect_selects {kg : BitVec 3} {a b : BitVec 7} {sc : BitVec 3} {s : State} {c : Ctx} (hi : Issues s c)
    (h : Clear (s.view c) [⟨2, a, .src true⟩, ⟨3, b, .src true⟩] (govMasks kg) (some (s.view c).etype.width)) :
    ∃ r, Gives (runView (vselect kg a b sc) s) (s.view c) 0 (.vector r) sc ∧
      Elements (s.view c).etype r fun k => if ((s.view c).governing (kIx kg)).getLsbD k
        then elem (s.view c).etype ((s.view c).vector (s.view c).etype 2 a) k
        else elem (s.view c).etype ((s.view c).vector (s.view c).etype 3 b) k := by
  refine ⟨_, vresult_gives hi (by simp only [vselect, View.vcheck_ok h]; rfl), ?_⟩
  rw [rowElems_eq_map, rowElems_eq_map, zip_map_range, zipIdx_map_range, List.map_map]
  exact elements_map_range _ _

theorem viota_counts {kg sc : BitVec 3} {s : State} {c : Ctx} (hi : Issues s c)
    (h : Clear (s.view c) [] (govMasks kg) (some (s.view c).etype.width)) :
    ∃ r, Gives (runView (viota kg sc) s) (s.view c) 0 (.vector r) sc ∧
      Elements (s.view c).etype r fun k => elemOfNat (s.view c).etype
        ((List.range k).countP fun i => ((s.view c).governing (kIx kg)).getLsbD i) := by
  refine ⟨_, vresult_gives hi (by simp only [viota, View.vcheck_ok h]; rfl), ?_⟩
  simp only [iota_eq_map, Nat.zero_add]
  exact elements_map_range _ _

theorem vbroadcast_repeats {d a b : BitVec 7} {sc : BitVec 3} {s : State} {c : Ctx} (hi : Issues s c)
    (h : Clear (s.view c) [⟨1, d, .dst true⟩, ⟨2, a, .src true⟩, ⟨3, b, .src false⟩] [] (some (s.view c).etype.width)) :
    ∃ r, Gives (runView (vbroadcast d a b sc) s) (s.view c) d (.vector r) sc ∧
      Elements (s.view c).etype r fun _ => if ((s.view c).scalar 3 b).toNat < 2048 / (s.view c).etype.width
        then elem (s.view c).etype ((s.view c).vector (s.view c).etype 2 a) ((s.view c).scalar 3 b).toNat else 0 := by
  refine ⟨_, vresult_gives hi (by simp only [vbroadcast, View.vcheck_ok h]; rfl), ?_⟩
  rw [elemAt, rowElems_getD_if]
  exact elements_broadcast _ _

theorem vextract_gives {d a b : BitVec 7} {sc : BitVec 3} {s : State} {c : Ctx} (hi : Issues s c)
    (h : Clear (s.view c) [⟨1, d, .dst false⟩, ⟨2, a, .src true⟩, ⟨3, b, .src false⟩] [] (some (s.view c).etype.width)) :
    Gives (runView (vextract d a b sc) s) (s.view c) d
      (.scalar (if ((s.view c).scalar 3 b).toNat < (s.view c).etype.count then elemScalar (s.view c).etype
        (elemAt (s.view c).etype ((s.view c).vector (s.view c).etype 2 a) ((s.view c).scalar 3 b).toNat) else 0)) sc :=
  sresult_gives hi (by simp only [vextract, View.vcheck_ok h]; rfl)

/-- R166: the value of VEXT. -/
theorem extracted_rule (t : EType) (r : Row) (j : Nat) : (if j < t.count then elemScalar t (elemAt t r j) else 0) =
    if j < 2048 / t.width then BitVec.ofInt 64 (toInt t.signed t.width (elem t r j)) else 0 := by
  by_cases h : j < 2048 / t.width
  · rw [if_pos h, elemScalar_rule, elemAt, rowElems_getD_if, if_pos h, EType.count, if_pos h]
  · rw [if_neg h, EType.count, if_neg h]

/-- R166: the row of VINS, which an index past the last position leaves as it was. -/
theorem elements_inserted (t : EType) (r : Row) (j x : Nat) :
    Elements t (if j < t.count then rowOfElems t.width ((rowElems t.width r).set j x) else r) fun k => if k = j then x else elem t r k := by
  by_cases h : j < t.count
  · rw [if_pos h, rowElems_eq_map, set_map_range]
    exact elements_map_range _ _
  · rw [if_neg h]
    intro k hk
    exact (elements_self t r k hk).trans (by simp only [if_neg fun e : k = j => h (e ▸ hk)])

theorem vinsert_replaces {d a b : BitVec 7} {sc : BitVec 3} {s : State} {c : Ctx} (hi : Issues s c)
    (h : Clear (s.view c) [⟨1, d, .rw true⟩, ⟨2, a, .src false⟩, ⟨3, b, .src false⟩] [] (some (s.view c).etype.width)) :
    ∃ r, Gives (runView (vinsert d a b sc) s) (s.view c) d (.vector r) sc ∧
      Elements (s.view c).etype r fun k => if k = ((s.view c).scalar 3 b).toNat then ((s.view c).scalar 2 a).toNat
        else elem (s.view c).etype ((s.view c).vector (s.view c).etype 1 d) k :=
  ⟨_, vresult_gives hi (by simp only [vinsert, View.vcheck_ok h]; rfl), elements_inserted _ _ _ _⟩

theorem vectorElementMoves : VectorElementMoves := by
  intro kg d a b sc s c hi v t n j
  refine ⟨vselect_selects hi, viota_counts hi, vbroadcast_repeats hi, fun h => ?_, vinsert_replaces hi⟩
  rw [← extracted_rule]
  exact vextract_gives hi h

/-! ## The permute unit (R167, R169) -/

theorem permute_ready {s : State} (hf : PermuteFree s) :
    (match (s.tile s.cur.tile).permuteAt with | some p => decide (p + 4 ≤ s.now) | none => true) = true := by
  cases h : (s.tile s.cur.tile).permuteAt with
  | none => rfl
  | some p => exact decide_eq_true (hf p h)

/-- A vector result of an instruction that waits for the permute unit and takes it. -/
theorem permuting_gives {s : State} {c : Ctx} {f : View → Ex View} {ready : Bool} {us : List Use} {d : BitVec 7} {r : Row} {l : Nat}
    {m : Option Mask} {sc : BitVec 3} (hi : Issues s c)
    (h : f (s.view c) = (do waitUntil ready; .ok (((permuting s).view c).vresult us d r l m sc))) (hready : ready = true) :
    Gives (runView f s) ((permuting s).view c) d (.vector r) sc :=
  runView_gives ((permuting s).view c) (((permuting s).view c).touchSources us) hi rfl (by simp) (by simp) (by rw [h, hready]; rfl)

theorem vpermute_permutes {d a b : BitVec 7} {sc : BitVec 3} {s : State} {c : Ctx} (hi : Issues s c) (hf : PermuteFree s)
    (h : Clear (s.view c) (vusesDAB d a b) [] (some (s.view c).etype.width)) :
    ∃ r, Gives (runView (vpermute d a b sc) s) ((permuting s).view c) d (.vector r) sc ∧
      Elements (s.view c).etype r fun k =>
        if elem (s.view c).etype ((s.view c).vector (s.view c).etype 3 b) k < 2048 / (s.view c).etype.width
        then elem (s.view c).etype ((s.view c).vector (s.view c).etype 2 a)
          (elem (s.view c).etype ((s.view c).vector (s.view c).etype 3 b) k) else 0 := by
  refine ⟨_, permuting_gives hi (by simp only [vpermute, View.vcheck_ok h]; rfl) (permute_ready hf), ?_⟩
  simp only [rowElems_getD_if]
  exact elements_map1 _ _ _

theorem vmasked_permutes {f : EType → Rnd → List (Option Nat) → List Nat → List Nat} {l : Nat} {kg : BitVec 3} {a : BitVec 7} {sc : BitVec 3}
    {s : State} {c : Ctx} (hi : Issues s c) (hf : PermuteFree s)
    (h : Clear (s.view c) [⟨2, a, .src true⟩] (govMasks kg) (some (s.view c).etype.width)) :
    Gives (runView (vmasked f l true kg a sc) s) ((permuting s).view c) 0 (.vector (rowOfElems (s.view c).etype.width
      (f (s.view c).etype (s.view c).rnd
        (activeElems (s.view c).etype ((s.view c).governing (kIx kg)) ((s.view c).vector (s.view c).etype 2 a))
        (rowElems (s.view c).etype.width ((s.view c).vector (s.view c).etype 2 a))))) sc :=
  permuting_gives hi (by simp only [vmasked, View.vcheck_ok h]; rfl) (permute_ready hf)

/-! ## VSHUF (R168) -/

/-- R25: every element count is a power of two. -/
theorem EType.count_log2 (t : EType) : 2 ^ Nat.log2 t.count = t.count := by cases t <;> decide

/-- R168: a distance that its pattern refuses. -/
theorem shuffle_refused_iff (kind p : Nat) (t : EType) :
    (decide (kind ≤ 3) && decide (Nat.log2 t.count ≤ p)) = true ↔ kind ≤ 3 ∧ 2048 / t.width ≤ 2 ^ p := by
  have hcount : Nat.log2 t.count ≤ p ↔ 2048 / t.width ≤ 2 ^ p := by
    rw [← Nat.pow_le_pow_iff_right Nat.one_lt_two, t.count_log2, EType.count]
  rw [Bool.and_eq_true, decide_eq_true_iff, decide_eq_true_iff, hcount]

/-- R168: the source element of each position of a shuffled row. -/
def shuffledElem (t : EType) (r : Row) (kind p k : Nat) : Nat :=
  match shufflePos kind p (2048 / t.width) k with
  | some j => if j < 2048 / t.width then elem t r j else 0
  | none => 0

theorem vshuffle_shuffles {d a imm : BitVec 7} {sc : BitVec 3} {s : State} {c : Ctx} (hi : Issues s c)
    (h : Clear (s.view c) (vusesDA d a) [] (some (s.view c).etype.width))
    (hok : ¬(imm.toNat / 16 ≤ 3 ∧ 2048 / (s.view c).etype.width ≤ 2 ^ (imm.toNat % 16))) :
    ∃ r, Gives (runView (vshuffle d a imm sc) s) (s.view c) d (.vector r) sc ∧
      Elements (s.view c).etype r
        (shuffledElem (s.view c).etype ((s.view c).vector (s.view c).etype 2 a) (imm.toNat / 16) (imm.toNat % 16)) := by
  have hkeep := Bool.eq_false_iff.mpr (mt (shuffle_refused_iff (imm.toNat / 16) (imm.toNat % 16) (s.view c).etype).mp hok)
  refine ⟨_, vresult_gives hi (by simp only [vshuffle, View.vcheck_ok h, hkeep]; rfl), ?_⟩
  simp only [natsFrom_zero, rowElems_getD_if]
  exact elements_map_range _ _

theorem vshuffle_traps {d a imm : BitVec 7} {sc : BitVec 3} {s : State} {c : Ctx} (hi : Issues s c) (hopen : (s.view c).specOpen = false)
    (h : Clear (s.view c) (vusesDA d a) [] (some (s.view c).etype.width))
    (hbad : imm.toNat / 16 ≤ 3 ∧ 2048 / (s.view c).etype.width ≤ 2 ^ (imm.toNat % 16)) :
    Traps (runView (vshuffle d a imm sc) s) s c Cause.illegal s.cur.illegalValue := by
  have hrefuse := (shuffle_refused_iff (imm.toNat / 16) (imm.toNat % 16) (s.view c).etype).mpr hbad
  have hpcs : trapPcs s c Cause.illegal = (c.pc, c.pc) := by simp [trapPcs, hi.fresh, Cause.illegal, Cause.soft, Cause.brk]
  have hrun : vshuffle d a imm sc (s.view c) = .error (.trap Cause.illegal s.cur.illegalValue) := by
    simp only [vshuffle, View.vcheck_ok h, hrefuse]
    rfl
  rw [Traps, runView_trap hi.ctx (View.spec_none hopen) hi.fresh hrun, hpcs]

theorem vectorPermutes : VectorPermutes := by
  intro kg d a b imm sc s c hi v t n
  refine ⟨vpermute_permutes hi, fun hf h => ⟨?_, _, vmasked_permutes hi hf h, elements_expand _ _ _⟩, fun h =>
    ⟨vshuffle_shuffles hi h, fun hopen hkind hp => vshuffle_traps hi hopen h ⟨hkind, hp⟩⟩⟩
  simp only [← compress_eq]
  exact vmasked_permutes hi hf h

/-- Settles O11: each row is a map over its positions, and what the permute unit gives is delivered beside the unit's busy mark. -/
theorem vectorMoves : Obligations.VectorMoves := ⟨vectorElementMoves, vectorPermutes⟩

end Sys2Proof.Machine
end

section
/-! SUPPORT. Slot claims of the matrix unit (R238, R239): what SCLAIM admits and claims, and what SRELS waits for and gives up. -/
namespace Sys2Proof.Machine
open Sys2Proof.Claims

/-! ## Ends of an issue -/

/-- A trap at the instruction's own PC: every cause but the two of TRAP and BRK (R227), with no branch unresolved (R77). -/
theorem runView_traps {s : State} {c : Ctx} {f : View → Ex View} {cause : Nat} {value : Word} (hi : Issues s c)
    (hopen : (s.view c).specOpen = false) (hcause : ¬(cause = Cause.soft ∨ cause = Cause.brk))
    (h : f (s.view c) = .error (.trap cause value)) : Traps (runView f s) s c cause value := by
  have hpcs : trapPcs s c cause = (c.pc, c.pc) := by simp only [trapPcs, hi.fresh, if_neg hcause]
  rw [Traps, runView_trap hi.ctx (View.spec_none hopen) hi.fresh h, hpcs]

/-- A state that holds the same tiles, in whatever table, is left alike. -/
theorem Completed.of_sameTiles {s s' t : State} {c' : Ctx} {sp : Nat} (h : Completed s' t c' sp)
    (hrest : s' = { s with tiles := s'.tiles }) (htile : ∀ n, s'.tile n = s.tile n) : Completed s t c' sp := by
  have hcur : s'.cur = s.cur := by rw [hrest]
  have hnow : s'.now = s.now := by rw [hrest]
  have htimed : s'.timed = s.timed := by rw [hrest]
  have hctx (n b : Nat) : s'.ctx? n b = s.ctx? n b := by rw [State.ctx?, State.ctx?, State.berth, State.berth, htile]
  obtain ⟨kctx, kspaced, kberths, ktiles, ktile, krest, ktimed⟩ := h
  rw [hcur] at kctx kspaced kberths ktiles ktile ktimed
  refine ⟨kctx, hnow ▸ kspaced, fun b hb => (kberths b hb).trans (hctx _ b), fun m hm => (ktiles m hm).trans (htile m), ?_, ?_,
    htimed ▸ ktimed⟩
  · rw [htile, hnow] at ktile
    exact ktile
  · rw [hrest] at krest
    exact krest

/-- An issue that ends beside a change which leaves its tile as it was. -/
theorem Ends.of_sameTile {o : Out} {s : State} {c : Ctx} {sc : BitVec 3} {n : Nat} {f : Tile → Tile} (hf : f (s.tile n) = s.tile n)
    (h : Ends o ((s.modTile n f).view c) sc) : Ends o (s.view c) sc := by
  have htile (m : Nat) : (s.modTile n f).tile m = s.tile m := by
    by_cases hm : m = n
    · rw [hm, State.tile_modTile_same, hf]
    · exact State.tile_modTile_ne hm s f
  obtain ⟨t, ht, hdone, hmx⟩ := h
  exact ⟨t, ht, hdone.of_sameTiles (State.modTile_eq s n f) htile, hmx.trans (congrArg Tile.mx (htile _))⟩

/-! ## Operands and checks -/

theorem View.holdsMx_iff (s : State) (c : Ctx) :
    (s.view c).holdsMx = true ↔ (s.tile s.cur.tile).mx.holder = some (s.cur.berth % 4) := beq_iff_eq

theorem View.claims_eq (s : State) (c : Ctx) : (s.view c).claims = claimed s :=
  ite_congr (propext (View.holdsMx_iff s c)) (fun _ => rfl) fun _ => rfl

/-- A berth that does not hold the matrix unit has claimed nothing. -/
theorem claimed_of_notHolder {s : State} (h : (s.tile s.cur.tile).mx.holder ≠ some (s.cur.berth % 4)) : claimed s = 0 := if_neg h

theorem View.unitInstr_ok {s : State} {c : Ctx} {us : List Use} (hr : UnitReady s c) (h : Clear (s.view c) us) :
    (s.view c).unitInstr us = .ok () := by
  obtain ⟨hopen, hcore⟩ := hr
  simp only [View.unitInstr, View.resolved_ok hopen, State.view_s, hcore, h.check]
  rfl

/-! ## SCLAIM (R238) -/

/-- R238: the unit is free or the berth's own, and none of the slots asked for is the berth's already. -/
def Claimable (s : State) (mask : BitVec 16) : Prop :=
  mask ≠ 0 ∧ (s.tile s.cur.tile).mx.reserved = false ∧ (∀ h, (s.tile s.cur.tile).mx.holder = some h → h = s.cur.berth % 4) ∧
    claimed s &&& mask = 0

theorem claimable_iff (s : State) (mask : BitVec 16) :
    (mask != 0 && !(s.tile s.cur.tile).mx.reserved && ((s.tile s.cur.tile).mx.holder.all fun h => h == s.cur.berth % 4) &&
      (claimed s &&& mask == 0)) = true ↔ Claimable s mask := by
  simp only [Claimable, Bool.and_eq_true, bne_iff_ne, Bool.not_eq_true', Option.all_eq_true, beq_iff_eq, and_assoc]

/-- The slots that a word names (R238). -/
theorem slotBits_eq (x : Word) : x.extractLsb' 0 16 = x.setWidth 16 := (BitVec.setWidth_eq_extractLsb' (by decide)).symm

/-- The tile once its berth has claimed the slots; an ordered task finds the accumulators zero at its first claim. -/
def Tile.claiming (fresh : Prop) [Decidable fresh] (b : Nat) (claims : BitVec 16) (t : Tile) : Tile :=
  { t with mx := { t.mx with
      holder := some b, claims := claims, acc := if fresh then [] else t.mx.acc, accPoison := if fresh then [] else t.mx.accPoison } }

section
variable {a : BitVec 7} {sc : BitVec 3} {s : State} {c : Ctx} (hi : Issues s c) (hr : UnitReady s c)
  (h : Clear (s.view c) [⟨2, a, .src false⟩]) {x : Word} (hval : (s.view c).scalar 2 a = x)
include hi hr h hval

theorem slotClaim_traps (hx : 2 ^ 16 ≤ x.toNat) : Traps (runView (slotClaim a sc) s) s c Cause.illegal x :=
  runView_traps hi hr.1 (by decide) (by simp only [slotClaim, View.unitInstr_ok hr h, hval, if_pos hx]; rfl)

theorem slotClaim_claims (hx : x.toNat < 2 ^ 16) (hok : Claimable s (x.setWidth 16)) :
    Gives (runView (slotClaim a sc) s) ((s.modTile s.cur.tile (Tile.claiming (c.task.cls ≠ 0 ∧ c.mxReset = false) (s.cur.berth % 4)
      (claimed s ||| x.setWidth 16))).view { c with mxReset := true }) 0 (.scalar x) sc := by
  have hadmit := (claimable_iff s _).mpr hok
  have hfresh : ((s.view c).ordered && !c.mxReset) = decide (c.task.cls ≠ 0 ∧ c.mxReset = false) :=
    Bool.eq_iff_iff.mpr (by simp [View.ordered])
  refine runView_gives _ ((((s.view c).touchSources [⟨2, a, .src false⟩]).modTile (Tile.claiming (c.task.cls ≠ 0 ∧ c.mxReset = false)
    (s.cur.berth % 4) (claimed s ||| x.setWidth 16))).modCtx fun c => { c with mxReset := true }) (l := 2) (ops := {})
    (inter := false) (rep := false) hi rfl (by simp) (by simp) ?_
  simp only [slotClaim, View.unitInstr_ok hr h, hval, if_neg (Nat.not_le.mpr hx), View.claims_eq, slotBits_eq, View.tile,
    State.view_s, State.view_ctx, hadmit, hfresh, decide_eq_true_eq]
  rfl

theorem slotClaim_refuses (hx : x.toNat < 2 ^ 16) (hbad : ¬ Claimable s (x.setWidth 16)) :
    Gives (runView (slotClaim a sc) s) (s.view c) 0 (.scalar 0) sc := by
  have hadmit := Bool.eq_false_iff.mpr (mt (claimable_iff s _).mp hbad)
  refine runView_gives (s.view c) ((s.view c).touchSources [⟨2, a, .src false⟩]) (l := 2) (ops := {}) (inter := false) (rep := false) hi rfl
    (by simp) (by simp) ?_
  simp only [slotClaim, View.unitInstr_ok hr h, hval, if_neg (Nat.not_le.mpr hx), View.claims_eq, slotBits_eq, View.tile, State.view_s, hadmit]
  rfl

end

/-! ## SRELS (R239) -/

/-- R239: nothing that names one of the slots is at work. -/
def SlotsIdle (s : State) (out : BitVec 16) : Prop :=
  (∀ o ∈ (s.tile s.cur.tile).mx.queue, o.names out = false) ∧ s.filling s.cur.tile out = false

theorem slotsIdle_iff (s : State) (out : BitVec 16) :
    (!((s.tile s.cur.tile).mx.queue.any fun o => o.names out) && !s.filling s.cur.tile out) = true ↔ SlotsIdle s out := by
  simp only [SlotsIdle, Bool.and_eq_true, Bool.not_eq_true', List.any_eq_false, Bool.not_eq_true]

theorem not_slotsIdle {s : State} {out : BitVec 16}
    (h : (∃ o ∈ (s.tile s.cur.tile).mx.queue, o.names out = true) ∨ s.filling s.cur.tile out = true) : ¬ SlotsIdle s out := by
  rintro ⟨hqueue, hfilling⟩
  obtain ⟨o, ho, hnames⟩ | hbusy := h
  · exact absurd hnames (Bool.eq_false_iff.mp (hqueue o ho))
  · exact absurd hbusy (Bool.eq_false_iff.mp hfilling)

/-- The tile once its berth keeps the claims `left` alone: with none, it stops holding the matrix unit (R239). -/
def Tile.releasing (left : BitVec 16) (t : Tile) : Tile :=
  { t with mx := { t.mx with claims := left, holder := if left = 0 then none else t.mx.holder } }

section
variable {a : BitVec 7} {sc : BitVec 3} {s : State} {c : Ctx} (hi : Issues s c) (hr : UnitReady s c)
  (h : Clear (s.view c) [⟨2, a, .src false⟩]) {x : Word} (hval : (s.view c).scalar 2 a = x)
include hi hr h hval

theorem slotRelease_traps (hx : 2 ^ 16 ≤ x.toNat) : Traps (runView (slotRelease a sc) s) s c Cause.illegal x :=
  runView_traps hi hr.1 (by decide) (by simp only [slotRelease, View.unitInstr_ok hr h, hval, if_pos hx]; rfl)

theorem slotRelease_waits (hx : x.toNat < 2 ^ 16) (hbusy : ¬ SlotsIdle s (x.setWidth 16 &&& claimed s)) :
    runView (slotRelease a sc) s = .next (holdIssue s) := by
  have hwait := Bool.eq_false_iff.mpr (mt (slotsIdle_iff s _).mp hbusy)
  refine runView_hold hi.ctx ?_
  simp only [slotRelease, View.unitInstr_ok hr h, hval, if_neg (Nat.not_le.mpr hx), View.claims_eq, slotBits_eq, View.tile, State.view_s, hwait]
  rfl

/-- Past its wait, SRELS changes the unit if the berth holds it. -/
theorem slotRelease_releases (hx : x.toNat < 2 ^ 16) (hidle : SlotsIdle s (x.setWidth 16 &&& claimed s)) :
    Ends (runView (slotRelease a sc) s) ((s.modTile s.cur.tile fun t => if (s.view c).holdsMx
      then t.releasing (claimed s &&& ~~~(x.setWidth 16 &&& claimed s)) else t).view c) sc := by
  have hready := (slotsIdle_iff s _).mpr hidle
  refine runView_ends _ (((s.view c).touchSources [⟨2, a, .src false⟩]).modTile fun t => if (s.view c).holdsMx
    then t.releasing (claimed s &&& ~~~(x.setWidth 16 &&& claimed s)) else t) hi rfl (by simp) (by simp) ?_
  simp only [slotRelease, View.unitInstr_ok hr h, hval, if_neg (Nat.not_le.mpr hx), View.claims_eq, slotBits_eq, View.tile, State.view_s, hready]
  rfl

theorem slotRelease_ofHolder (hx : x.toNat < 2 ^ 16)
    (hidle : SlotsIdle s (x.setWidth 16 &&& claimed s)) (hmine : (s.tile s.cur.tile).mx.holder = some (s.cur.berth % 4)) :
    Ends (runView (slotRelease a sc) s) ((s.modTile s.cur.tile (Tile.releasing
      (claimed s &&& ~~~(x.setWidth 16 &&& claimed s)))).view c) sc := by
  have hends := slotRelease_releases (sc := sc) hi hr h hval hx hidle
  simp only [(View.holdsMx_iff s c).mpr hmine, if_true] at hends
  exact hends

/-- A berth that holds no slots gives up none. -/
theorem slotRelease_ofOther (hx : x.toNat < 2 ^ 16) (hidle : SlotsIdle s 0)
    (hother : (s.tile s.cur.tile).mx.holder ≠ some (s.cur.berth % 4)) : Ends (runView (slotRelease a sc) s) (s.view c) sc := by
  have hnone : x.setWidth 16 &&& claimed s = 0 := by rw [claimed_of_notHolder hother]; exact BitVec.and_zero
  exact (slotRelease_releases (sc := sc) hi hr h hval hx (hnone ▸ hidle)).of_sameTile (if_neg (mt (View.holdsMx_iff s c).mp hother))

end

/-- Settles O29: past the checks that they share, SCLAIM turns on `Claimable` and SRELS on `SlotsIdle`; a berth that holds nothing releases
nothing, and its tile stays as it was. -/
theorem slotClaims : Obligations.SlotClaims := by
  intro a sc s c hi hr h x mask mx out good fresh
  exact ⟨fun hx => ⟨slotClaim_traps hi hr h rfl hx, slotRelease_traps hi hr h rfl hx⟩,
    slotClaim_claims hi hr h rfl, slotClaim_refuses hi hr h rfl,
    fun hx hbusy => slotRelease_waits hi hr h rfl hx (not_slotsIdle hbusy),
    fun hx hqueue hfilling => slotRelease_ofHolder hi hr h rfl hx ⟨hqueue, hfilling⟩,
    fun hx hqueue hfilling => slotRelease_ofOther hi hr h rfl hx ⟨hqueue, hfilling⟩⟩

end Sys2Proof.Machine
end
